-- ==== Sys2Proof/Word.lean ====
section
/-! DEFINITION. Bytes and two-byte fields of host frames, the names of drives and ports, and the two fixed-size
families (eight of a thing, one per drive address; four of a thing, one per port) the rest of the model is built from. -/

namespace Sys2Proof

/-- One byte of a host frame. -/
abbrev Byte := BitVec 8

/-- A two-byte field of a host frame (9.10: high byte first). -/
abbrev Half := BitVec 16

/-- A drive address 0 to 7, the physical drive (R1). -/
abbrev DriveId := Fin 8

/-- A host port: 0 to 3 stand for A to D, the codes of 9.10. -/
abbrev Port := Fin 4

/-- The tag of an order slot, 0 to 3 (R149). -/
abbrev Tag := Fin 4

/-- Eight of a thing, one for each drive address (or each write slot, or each logical drive). -/
structure Oct (α : Type) where
  v0 : α
  v1 : α
  v2 : α
  v3 : α
  v4 : α
  v5 : α
  v6 : α
  v7 : α
deriving DecidableEq, Repr

/-- Four of a thing, one for each port (or each order slot of a port). -/
structure Quad (α : Type) where
  v0 : α
  v1 : α
  v2 : α
  v3 : α
deriving DecidableEq, Repr

variable {α β : Type}

def Oct.all (x : α) : Oct α := ⟨x, x, x, x, x, x, x, x⟩

def Oct.get (o : Oct α) (i : Fin 8) : α :=
  match i.val with
  | 0 => o.v0
  | 1 => o.v1
  | 2 => o.v2
  | 3 => o.v3
  | 4 => o.v4
  | 5 => o.v5
  | 6 => o.v6
  | _ => o.v7

def Oct.set (o : Oct α) (i : Fin 8) (x : α) : Oct α :=
  match i.val with
  | 0 => { o with v0 := x }
  | 1 => { o with v1 := x }
  | 2 => { o with v2 := x }
  | 3 => { o with v3 := x }
  | 4 => { o with v4 := x }
  | 5 => { o with v5 := x }
  | 6 => { o with v6 := x }
  | _ => { o with v7 := x }

def Oct.map (f : α → β) (o : Oct α) : Oct β :=
  ⟨f o.v0, f o.v1, f o.v2, f o.v3, f o.v4, f o.v5, f o.v6, f o.v7⟩

/-- The eight values of a function, in order. -/
def Oct.of (f : Fin 8 → α) : Oct α := ⟨f 0, f 1, f 2, f 3, f 4, f 5, f 6, f 7⟩

def Oct.toList (o : Oct α) : List α := [o.v0, o.v1, o.v2, o.v3, o.v4, o.v5, o.v6, o.v7]

def Quad.all (x : α) : Quad α := ⟨x, x, x, x⟩

def Quad.get (q : Quad α) (i : Fin 4) : α :=
  match i.val with
  | 0 => q.v0
  | 1 => q.v1
  | 2 => q.v2
  | _ => q.v3

def Quad.set (q : Quad α) (i : Fin 4) (x : α) : Quad α :=
  match i.val with
  | 0 => { q with v0 := x }
  | 1 => { q with v1 := x }
  | 2 => { q with v2 := x }
  | _ => { q with v3 := x }

def Quad.map (f : α → β) (q : Quad α) : Quad β := ⟨f q.v0, f q.v1, f q.v2, f q.v3⟩

/-- The four values of a function, in order. -/
def Quad.of (f : Fin 4 → α) : Quad α := ⟨f 0, f 1, f 2, f 3⟩

def Quad.toList (q : Quad α) : List α := [q.v0, q.v1, q.v2, q.v3]

/-- The eight drive addresses in rising order. -/
def allDrives : List DriveId := [0, 1, 2, 3, 4, 5, 6, 7]

/-- The four ports in the order A to D. -/
def allPorts : List Port := [0, 1, 2, 3]

/-- The four tags in rising order. -/
def allTags : List Tag := [0, 1, 2, 3]

end Sys2Proof
end

