-- ==== Sys2Proof/Syntax.lean ====
section
/-! DEFINITION. The commands the part takes, one constructor per row of spec/opcode_table.json, and the data they carry:
what is found on the media (R69, R70), what the plugs and the poll read (R1, R2), and the fields of the host's frames (9.10). -/

namespace Sys2Proof

/-- A track: cylinder and head (00_scope.md 3.4). -/
structure Track where
  cyl : Nat
  head : Nat
deriving DecidableEq, Repr

/-- A sector address: cylinder, head and sector (00_scope.md 3.4). -/
structure SectorAddr where
  cyl : Nat
  head : Nat
  sector : Nat
deriving DecidableEq, Repr

/-- R70: the kind of a header, with the home fields present for ALTERNATE alone. -/
inductive HeaderKind where
  | home
  | alternate (homeCyl homeHead : Nat)
  | map
deriving DecidableEq, Repr

/-- R70: the fields of a sector header. -/
structure Header where
  drive : Nat
  cyl : Nat
  head : Nat
  sector : Nat
  kind : HeaderKind
  lost : Bool
deriving DecidableEq, Repr

/-- R48: the four states of a pool position. -/
inductive PoolState where
  | free
  | inUse
  | dead
  | map
deriving DecidableEq, Repr

/-- R50: the origin of a spare map entry. -/
inductive Origin where
  | auto
  | ordered
  | verify
  | loaded
deriving DecidableEq, Repr

/-- R59: one entry of a map record. -/
structure RecordEntry where
  home : Track
  alt : Track
  origin : Origin
deriving DecidableEq, Repr

/-- R59: the parts of a map record. Its byte layout and the rule of its sum are not given, so the record is held by its
fields and the sum by whether it matches (log 9). -/
structure MapRecord where
  type : Nat
  c : Nat
  h : Nat
  s : Nat
  a : Nat
  entryCount : Nat
  deadCount : Nat
  pool : List PoolState
  entries : List RecordEntry
  sumOk : Bool
deriving DecidableEq, Repr

/-- The 512 data bytes of a sector. The pseudo-random verify pattern (R141) and the bytes of a map record sector (R59) are
not given by the manual: they are named by what fixes them (log 9). A record sector carries the filler behind the record as
bytes, those not listed being zero. -/
inductive Payload where
  | bytes (l : List Byte)
  | record (part : Nat) (r : MapRecord) (filler : List Byte)
  | pattern (drive cyl head sector : Nat)
deriving DecidableEq, Repr

/-- What the reading circuits meet in the data, the data check word and the END pair of a frame (R69, R72 checks 2 and 7). -/
inductive FrameData where
  | good (p : Payload)
  | invalid
  | fill
deriving DecidableEq, Repr

/-- What the reading circuits meet in one sector time (R69, R72): no SYNC group; a SYNC group and then FILL inside the
header or its check; or a header with its check matching or not, and the data. -/
inductive Frame where
  | noSync
  | fill
  | framed (checkOk : Bool) (h : Header) (d : FrameData)
deriving DecidableEq, Repr

/-- R1: the three service plugs. -/
structure Plugs where
  maintenance : Port
  mode8 : Bool
  identity : Fin 16
deriving DecidableEq, Repr

/-- R2: what a poll reads at each drive address: not present, or the type code of the type plug. -/
abbrev Poll := Oct (Option (Fin 16))

/-- 9.10: an ORDER frame but for its order kind: the bytes after the kind byte, and whether its frame check matches. -/
structure OrderFrame where
  port : Port
  checkOk : Bool
  tag : Byte
  logical : Byte
  cyl : Half
  head : Byte
  sector : Byte
  count : Byte
  flags : Byte
  parameter : Half
  body : List Byte
deriving DecidableEq, Repr

/-- 9.10: a DATA frame of a host. -/
structure DataFrame where
  port : Port
  checkOk : Bool
  tag : Byte
  index : Byte
  data : List Byte
deriving DecidableEq, Repr

/-- 9.10: a CANCEL frame of a host. -/
structure CancelFrame where
  port : Port
  checkOk : Bool
  tag : Byte
deriving DecidableEq, Repr

/-- 9.10: a PORT RESET frame of a host. -/
structure ResetFrame where
  port : Port
  checkOk : Bool
deriving DecidableEq, Repr

/-- R148, R151: a received frame of no known kind: its kind byte names no host frame kind, or it is an ORDER frame whose
order kind is not known. -/
inductive UnknownFrame where
  | kindByte (port : Port) (kind : Byte) (checkOk : Bool)
  | orderKind (code : Byte) (f : OrderFrame)
deriving DecidableEq, Repr

/-- The commands: one constructor per row of spec/opcode_table.json. -/
inductive Instr where
  | powerOn (plugs : Plugs) (poll : Poll)
  | powerFailure
  | stringResetLine (port : Port) (poll : Poll)
  | indexPulse (d : DriveId)
  | sectorPulse (d : DriveId)
  | spinUpLimitExpiry (d : DriveId)
  | indexWatchdogExpiry (d : DriveId)
  | positionerUpdate (d : DriveId) (home : Bool)
  | onCylinderReport (d : DriveId)
  | recalibrationFailed (d : DriveId)
  | sectorReadEnd (d : DriveId) (seen : Option Frame)
  | sectorWriteEnd (d : DriveId)
  | watchWindowExpiry (slot : Fin 16)
  | read (f : OrderFrame)
  | write (f : OrderFrame)
  | verify (f : OrderFrame)
  | seek (f : OrderFrame)
  | surfaceVerify (f : OrderFrame)
  | reserve (f : OrderFrame)
  | release (f : OrderFrame)
  | sense (f : OrderFrame)
  | tableSelect (f : OrderFrame)
  | tablePut (f : OrderFrame)
  | tableGet (f : OrderFrame)
  | readTallies (f : OrderFrame)
  | reassignTrack (f : OrderFrame)
  | fence (f : OrderFrame)
  | unfence (f : OrderFrame)
  | driveReset (f : OrderFrame)
  | commitMap (f : OrderFrame)
  | stringReset (f : OrderFrame) (poll : Poll)
  | hostDataFrame (f : DataFrame)
  | cancel (f : CancelFrame)
  | portReset (f : ResetFrame)
  | frameTaken (p : Port)
  | deliveryTimeout (p : Port)
  | dataRequestTimeout (slot : Fin 8)
  | unknownFrameKind (u : UnknownFrame)
deriving DecidableEq, Repr

end Sys2Proof
end

