-- ==== Sys2Proof/WellFormed.lean ====
section
/-! DEFINITION. Which commands are well formed: the sizes the frame layouts of 9.10 fix, and unknown kinds that are unknown. A
command that is not well formed still has its effect; only the encoder of Decode.lean rests on this. -/

namespace Sys2Proof

/-- 9.10: the codes of the known order kinds. -/
def orderCodes : List Byte :=
  [0x10#8, 0x11#8, 0x12#8, 0x13#8, 0x20#8, 0x21#8, 0x22#8, 0x30#8, 0x31#8, 0x32#8, 0x33#8, 0x34#8, 0x35#8, 0x36#8, 0x37#8, 0x38#8,
   0x39#8, 0x3A#8]

/-- 9.10: the kind bytes of the host frames. -/
def hostKinds : List Byte := [1#8, 2#8, 3#8, 4#8]

/-- An entry body's length fits its length byte. -/
def OrderFrame.wf (f : OrderFrame) : Bool := f.body.length ≤ 255

/-- A DATA frame carries 512 data bytes (R94). -/
def DataFrame.wf (f : DataFrame) : Bool := f.data.length = 512

/-- A sector holds 512 data bytes (00_scope.md 3.4). -/
def Payload.wf : Payload → Bool
  | .bytes l => l.length = 512
  | .record part _ filler => part ≤ 2 && filler.length ≤ 512
  | .pattern _ _ _ _ => true

/-- What is met on the media, where it holds data, holds a sector of it. -/
def Frame.wf : Frame → Bool
  | .framed _ _ (.good p) => p.wf
  | .framed _ _ .invalid | .framed _ _ .fill | .noSync | .fill => true

/-- The kind is unknown, or the frame is one whose bytes do not make the frame its kind byte names, so that its check cannot
match (log 28). -/
def UnknownFrame.wf : UnknownFrame → Bool
  | .kindByte _ kind checkOk => kind ∉ hostKinds || !checkOk
  | .orderKind code f => code ∉ orderCodes && f.wf

/-- The well-formed commands. -/
def Instr.wf : Instr → Bool
  | .read f | .write f | .verify f | .seek f | .surfaceVerify f | .reserve f | .release f | .sense f | .tableSelect f
  | .tablePut f | .tableGet f | .readTallies f | .reassignTrack f | .fence f | .unfence f | .driveReset f | .commitMap f
  | .stringReset f _ => f.wf
  | .hostDataFrame f => f.wf
  | .unknownFrameKind u => u.wf
  | .sectorReadEnd _ (some f) => f.wf
  | .sectorReadEnd _ none => true
  | .powerOn _ _ | .powerFailure | .stringResetLine _ _ | .indexPulse _ | .sectorPulse _ | .spinUpLimitExpiry _
  | .indexWatchdogExpiry _ | .positionerUpdate _ _ | .onCylinderReport _ | .recalibrationFailed _ | .sectorWriteEnd _
  | .watchWindowExpiry _ | .cancel _ | .portReset _ | .frameTaken _ | .deliveryTimeout _ | .dataRequestTimeout _ => true

end Sys2Proof
end

