-- ==== Sys2Proof/Decode.lean ====
section
/-! DEFINITION. Reading commands from bits and bytes. No row of spec/opcode_table.json gives bits, so no table word spells a
command. The frames of a host do have a byte layout (9.10): `decodeFrame` reads one as the command it is, and `encodeFrame`
writes it. -/

namespace Sys2Proof

/-- The command a word spells by the table's bits: the table gives none to any row. -/
def decodeTableWord (_nbits _w : Nat) : Option Instr := none

/-- A two-byte field read, high byte first (9.10). -/
def joinHalf (hi lo : Byte) : Half := hi ++ lo

/-- The high byte of a two-byte field. -/
def highByte (h : Half) : Byte := h.extractLsb' 8 8

/-- The low byte of a two-byte field. -/
def lowByte (h : Half) : Byte := h.extractLsb' 0 8

/-- 9.10: the order an order kind code asks for. The poll is what a STRING RESET's poll reads (R2). -/
def orderOfCode (poll : Poll) (code : Byte) (f : OrderFrame) : Instr :=
  if code = 0x10#8 then .read f
  else if code = 0x11#8 then .write f
  else if code = 0x12#8 then .verify f
  else if code = 0x13#8 then .seek f
  else if code = 0x20#8 then .reserve f
  else if code = 0x21#8 then .release f
  else if code = 0x22#8 then .sense f
  else if code = 0x30#8 then .tableSelect f
  else if code = 0x31#8 then .tablePut f
  else if code = 0x32#8 then .tableGet f
  else if code = 0x33#8 then .readTallies f
  else if code = 0x34#8 then .reassignTrack f
  else if code = 0x35#8 then .surfaceVerify f
  else if code = 0x36#8 then .fence f
  else if code = 0x37#8 then .unfence f
  else if code = 0x38#8 then .driveReset f
  else if code = 0x39#8 then .commitMap f
  else if code = 0x3A#8 then .stringReset f poll
  else .unknownFrameKind (.orderKind code f)

/-- 9.10: the bytes of an ORDER frame after its kind byte. -/
def decodeOrder (port : Port) (checkOk : Bool) (poll : Poll) : List Byte → Option Instr
  | tag :: kind :: logical :: c1 :: c0 :: head :: sector :: count :: flags :: p1 :: p0 :: len :: body =>
    if body.length = len.toNat then
      some (orderOfCode poll kind
        { port := port, checkOk := checkOk, tag := tag, logical := logical, cyl := joinHalf c1 c0, head := head,
          sector := sector, count := count, flags := flags, parameter := joinHalf p1 p0, body := body })
    else none
  | _ => none

/-- 9.10: the bytes of a host DATA frame after its kind byte. -/
def decodeData (port : Port) (checkOk : Bool) : List Byte → Option Instr
  | tag :: index :: data =>
    if data.length = 512 then
      some (.hostDataFrame { port := port, checkOk := checkOk, tag := tag, index := index, data := data })
    else none
  | _ => none

/-- R148, 9.10: a frame of a host, its bytes but for the frame check, as a command. A frame whose bytes are too few or too many
for its kind is taken as one whose check does not match (log 28). -/
def decodeFrame (port : Port) (checkOk : Bool) (poll : Poll) : List Byte → Instr
  | [] => .unknownFrameKind (.kindByte port 0#8 false)
  | kind :: rest =>
    let bad : Instr := .unknownFrameKind (.kindByte port kind false)
    if kind = 1#8 then (decodeOrder port checkOk poll rest).getD bad
    else if kind = 2#8 then (decodeData port checkOk rest).getD bad
    else if kind = 3#8 then
      match rest with
      | [tag] => .cancel { port := port, checkOk := checkOk, tag := tag }
      | _ => bad
    else if kind = 4#8 then
      match rest with
      | [] => .portReset { port := port, checkOk := checkOk }
      | _ => bad
    else .unknownFrameKind (.kindByte port kind checkOk)

/-- 9.10: the bytes of an ORDER frame of a kind, without its frame check. -/
def encodeOrder (code : Byte) (f : OrderFrame) : List Byte :=
  [1#8, f.tag, code, f.logical, highByte f.cyl, lowByte f.cyl, f.head, f.sector, f.count, f.flags, highByte f.parameter,
   lowByte f.parameter, BitVec.ofNat 8 f.body.length] ++ f.body

/-- 9.10: the bytes of a command that is a host frame, without its frame check; none for the other commands. -/
def encodeFrame : Instr → Option (List Byte)
  | .read f => some (encodeOrder 0x10#8 f)
  | .write f => some (encodeOrder 0x11#8 f)
  | .verify f => some (encodeOrder 0x12#8 f)
  | .seek f => some (encodeOrder 0x13#8 f)
  | .reserve f => some (encodeOrder 0x20#8 f)
  | .release f => some (encodeOrder 0x21#8 f)
  | .sense f => some (encodeOrder 0x22#8 f)
  | .tableSelect f => some (encodeOrder 0x30#8 f)
  | .tablePut f => some (encodeOrder 0x31#8 f)
  | .tableGet f => some (encodeOrder 0x32#8 f)
  | .readTallies f => some (encodeOrder 0x33#8 f)
  | .reassignTrack f => some (encodeOrder 0x34#8 f)
  | .surfaceVerify f => some (encodeOrder 0x35#8 f)
  | .fence f => some (encodeOrder 0x36#8 f)
  | .unfence f => some (encodeOrder 0x37#8 f)
  | .driveReset f => some (encodeOrder 0x38#8 f)
  | .commitMap f => some (encodeOrder 0x39#8 f)
  | .stringReset f _ => some (encodeOrder 0x3A#8 f)
  | .hostDataFrame f => some ([2#8, f.tag, f.index] ++ f.data)
  | .cancel f => some [3#8, f.tag]
  | .portReset _ => some [4#8]
  | .unknownFrameKind (.orderKind code f) => some (encodeOrder code f)
  | .unknownFrameKind (.kindByte _ kind _) => some (if kind = 4#8 then [4#8, 0#8] else [kind])
  | .powerOn _ _ | .powerFailure | .stringResetLine _ _ | .indexPulse _ | .sectorPulse _ | .spinUpLimitExpiry _
  | .indexWatchdogExpiry _ | .positionerUpdate _ _ | .onCylinderReport _ | .recalibrationFailed _ | .sectorReadEnd _ _
  | .sectorWriteEnd _ | .watchWindowExpiry _ | .frameTaken _ | .deliveryTimeout _ | .dataRequestTimeout _ => none

/-- The port a host frame came in on. -/
def Instr.port : Instr → Port
  | .read f | .write f | .verify f | .seek f | .reserve f | .release f | .sense f | .tableSelect f | .tablePut f | .tableGet f
  | .readTallies f | .reassignTrack f | .surfaceVerify f | .fence f | .unfence f | .driveReset f | .commitMap f
  | .stringReset f _ | .unknownFrameKind (.orderKind _ f) => f.port
  | .hostDataFrame f => f.port
  | .cancel f => f.port
  | .portReset f => f.port
  | .unknownFrameKind (.kindByte p _ _) => p
  | .stringResetLine p _ | .frameTaken p | .deliveryTimeout p => p
  | .powerOn _ _ | .powerFailure | .indexPulse _ | .sectorPulse _ | .spinUpLimitExpiry _ | .indexWatchdogExpiry _
  | .positionerUpdate _ _ | .onCylinderReport _ | .recalibrationFailed _ | .sectorReadEnd _ _ | .sectorWriteEnd _
  | .watchWindowExpiry _ | .dataRequestTimeout _ => 0

/-- Whether the check of a host frame matches; true for a command that is no host frame. -/
def Instr.checkOk : Instr → Bool
  | .read f | .write f | .verify f | .seek f | .reserve f | .release f | .sense f | .tableSelect f | .tablePut f | .tableGet f
  | .readTallies f | .reassignTrack f | .surfaceVerify f | .fence f | .unfence f | .driveReset f | .commitMap f
  | .stringReset f _ | .unknownFrameKind (.orderKind _ f) => f.checkOk
  | .hostDataFrame f => f.checkOk
  | .cancel f => f.checkOk
  | .portReset f => f.checkOk
  | .unknownFrameKind (.kindByte _ _ c) => c
  | .stringResetLine _ _ | .frameTaken _ | .deliveryTimeout _ | .powerOn _ _ | .powerFailure | .indexPulse _ | .sectorPulse _
  | .spinUpLimitExpiry _ | .indexWatchdogExpiry _ | .positionerUpdate _ _ | .onCylinderReport _ | .recalibrationFailed _
  | .sectorReadEnd _ _ | .sectorWriteEnd _ | .watchWindowExpiry _ | .dataRequestTimeout _ => true

/-- What the poll of a STRING RESET order reads; a poll that finds nothing for the other commands. -/
def Instr.poll : Instr → Poll
  | .stringReset _ poll => poll
  | .read _ | .write _ | .verify _ | .seek _ | .reserve _ | .release _ | .sense _ | .tableSelect _ | .tablePut _ | .tableGet _
  | .readTallies _ | .reassignTrack _ | .surfaceVerify _ | .fence _ | .unfence _ | .driveReset _ | .commitMap _
  | .hostDataFrame _ | .cancel _ | .portReset _ | .unknownFrameKind _ | .stringResetLine _ _ | .frameTaken _
  | .deliveryTimeout _ | .powerOn _ _ | .powerFailure | .indexPulse _ | .sectorPulse _ | .spinUpLimitExpiry _
  | .indexWatchdogExpiry _ | .positionerUpdate _ _ | .onCylinderReport _ | .recalibrationFailed _ | .sectorReadEnd _ _
  | .sectorWriteEnd _ | .watchWindowExpiry _ | .dataRequestTimeout _ => Oct.all none

end Sys2Proof
end

