-- ==== Sys2Proof/Config.lean ====
section
/-! DEFINITION. The values the manual leaves open: uninterpreted constants, so that no proof can rest on a value of theirs. -/

namespace Sys2Proof

/-- R141: byte `pos` of the verify pattern of a physical track: a pseudo-random sequence fixed by drive address, cylinder and
head, whose rule is not given. A free value (log 9). -/
opaque Config.patternByte (drive cyl head pos : Nat) : Byte

/-! ## The map record as bytes (R59, R63)

The fields of a record and their order are given; how each is written, and the rule of the sum, are not. A way of writing records is
taken as a free value with two properties that the manual gives: a record fits the three sectors, and what is read from its
bytes is the record, whatever filler follows. -/

/-- R46, R48, R59: the record of a division the manual allows: as many pool states as positions, as many entries as counted. -/
def MapRecord.storable (r : MapRecord) : Bool :=
  r.type < 16 && r.c ≤ 1024 && r.h ≤ 16 && r.s ≤ 32 && r.a ≤ 128 && r.pool.length = r.a * r.h && r.pool.length ≤ 128 &&
    r.entries.length = r.entryCount && r.entryCount ≤ 128 && r.deadCount ≤ 128 &&
    r.entries.all fun e => e.home.cyl < 1024 && e.home.head < 16 && e.alt.cyl < 1024 && e.alt.head < 16

/-- R59: a way of writing map records. -/
structure RecordCode where
  bytes : MapRecord → List Byte
  find : List Byte → Option MapRecord
  fits : ∀ r, r.storable = true → (bytes r).length ≤ 1536
  finds : ∀ r filler, r.storable = true → find (bytes r ++ filler) = some r

/-- R59: the way records are written, of which a reader of the manual knows no more than `RecordCode` says. A free value (log 9). -/
opaque Config.recordCode [Inhabited RecordCode] : RecordCode

/-- R71: whether the header and its check had been laid down when the `n`-th write was cut off: the moment of the cut within the
frame is not an operand of any command. A free value (log 6). -/
opaque Config.headerLaid (n : Nat) : Bool

/-- 9.10: the pending replacement head that a TABLE GET of a spare map slot gives when the replacement is absent: the manual
gives the cylinder field's value alone. A free value (log 23). -/
opaque Config.absentReplacementHead (slot : Nat) : Byte

end Sys2Proof
end

