-- ==== Sys2Proof/Machine/State.lean ====
section
/-! DEFINITION. The state of the controller as plain data, block by block (00_scope.md 1.2), the reasons a command can stop,
and the state right after power-on. Every field's docstring names the rule that gives it; the fields marked MODEL are the
model's own. -/

namespace Sys2Proof.Machine

/-- No command of this part ends in a fault: every event of the spec leads to a next state (NOTES.md, Stops). The type has
no constructor. -/
inductive Fault where
deriving DecidableEq, Repr

/-- Why a command has no meaning here. -/
inductive Refusal where
  /-- Raised by an arm of `exec` whose command has no meaning yet; safe, since the run stops. No arm raises it. -/
  | notModelled (mnemonic : String)
deriving DecidableEq, Repr

/-! ## Orders and frames -/

/-- The order kinds of 9.10. -/
inductive OrderKind where
  | read
  | write
  | verify
  | seek
  | reserve
  | release
  | sense
  | tableSelect
  | tablePut
  | tableGet
  | readTallies
  | reassignTrack
  | surfaceVerify
  | fence
  | unfence
  | driveReset
  | commitMap
  | stringReset
deriving DecidableEq, Repr

/-- R150, 9.10: the outcomes of a REPLY. -/
inductive Verdict where
  | accepted
  | tagBusy
  | badOrder
  | notPermitted
  | noAccess
  | driveAbsent
  | reservedElsewhere
  | addressRange
  | driveState
deriving DecidableEq, Repr

/-- R116, 9.10: the results of an ENDING. -/
inductive Result where
  | complete
  | recovered
  | dataCheck
  | dataLost
  | incompleteSector
  | seekCheck
  | notReady
  | fenced
  | mapUnavailable
  | cancelled
  | reset
  | portTimeout
  | noAlternate
  | reassignFailed
deriving DecidableEq, Repr

/-- R99: the state of an order record. -/
inductive OrderState where
  | queued
  | active
  | ending
deriving DecidableEq, Repr

/-- R99: an order record. `drive` is absent for the orders that name no drive (R150). -/
structure Order where
  /-- MODEL: the serial number that tells this order from a later one under its tag (R149, log 7). -/
  oid : Nat
  tag : Tag
  kind : OrderKind
  logical : Nat
  drive : Option DriveId
  start : SectorAddr
  count : Nat
  flags : Byte
  parameter : Nat
  state : OrderState
  done : Nat
  retry : Nat
  passOver : Nat
  failing : Option SectorAddr
  /-- R99: the result once fixed. -/
  result : Option Result
  /-- R99: the result a READ's drive operation gave, held until the order goes to ENDING. -/
  held : Option Result
  clamped : Bool
  body : List Byte
  /-- MODEL: for COMMIT MAP, the MAP WRITE it waits on has become current (R65, log 7). -/
  bound : Bool
deriving DecidableEq, Repr

/-- R148, 9.10: a frame of the part. `oid` is the MODEL's serial number of the order it belongs to (log 7). -/
inductive OutFrame where
  | reply (tag : Tag) (kind : Byte) (verdict : Verdict)
  | ending (oid : Nat) (tag : Tag) (result : Result) (done retry : Nat) (clamped : Bool) (failing : Option SectorAddr) (body : List Byte)
  | data (oid : Nat) (tag : Tag) (index : Nat) (payload : Payload)
  | dataRequest (oid : Nat) (tag : Tag) (index : Nat)
  | notice (logical : Fin 8) (kinds : Byte)
deriving DecidableEq, Repr

/-! ## Tables -/

/-- R46, R166: a GEOMETRY entry. The revolution period is in units of 10 µs. -/
structure Geometry where
  type : Nat
  c : Nat
  h : Nat
  s : Nat
  a : Nat
  period : Nat
deriving DecidableEq, Repr

/-- R25: a MOTION PROFILE entry. `sweep` is the queue discipline SWEEP. -/
structure Profile where
  a : Nat
  vmax : Nat
  c : Nat
  settle : Nat
  offsetUnit : Nat
  maxOffset : Nat
  burst : Nat
  sweep : Bool
deriving DecidableEq, Repr

/-- R167: a SPARING POLICY entry. The window is in seconds. -/
structure Policy where
  auto : Bool
  threshold : Nat
  window : Nat
  verifyThreshold : Nat
deriving DecidableEq, Repr

/-- R165: the right of a logical drive. -/
inductive Right where
  | none
  | read
  | write
deriving DecidableEq, Repr

/-- R165: the PORT ACCESS entry for one logical drive; the physical drive is absent for NONE. -/
structure Access where
  phys : Option DriveId
  right : Right
deriving DecidableEq, Repr

/-- R165: a PORT ACCESS entry. A set bit of the mask masks the notice kind of that bit (log 22). -/
structure PortAccess where
  logical : Oct Access
  maintenance : Bool
  mask : Byte
deriving DecidableEq, Repr

/-- R162, 9.10: the seven tables. -/
inductive TableId where
  | portAccess
  | geometry
  | motionProfile
  | sparingPolicy
  | spareMap
  | alternatePool
  | watchList
deriving DecidableEq, Repr

/-- R162: a table window. -/
structure Window where
  table : Option TableId
  drive : DriveId
  index : Nat
  advance : Bool
deriving DecidableEq, Repr

/-! ## Drives -/

/-- R4: the ten drive states. -/
inductive DriveState where
  | absent
  | waitingSpin
  | spinningUp
  | recalibrating
  | loadingMap
  | writingMap
  | ready
  | mapLost
  | fenced
  | notReady
deriving DecidableEq, Repr

/-- R23: the phases of a positioner channel. -/
inductive Phase where
  | idle
  | accel
  | cruise
  | decel
  | settling
  | recal
  | stopped
deriving DecidableEq, Repr

/-- R22: a positioner channel. Positions are in fine units, velocities in fine units per update. -/
structure Channel where
  pos : Nat
  vel : Nat
  inward : Bool
  phase : Phase
  target : Nat
  settle : Nat
  recalCount : Nat
  /-- R38: the limit N fixed at the start of the recalibration. -/
  recalLimit : Nat
  known : Bool
  profile : Profile
  staged : Option Profile
  /-- R32, R39: the step sent on the positioner drive lines at the last update, inward positive. -/
  step : Int
deriving DecidableEq, Repr

/-- R56: the map states. -/
inductive MapState where
  | clean
  | dirty
  | writing
  | unsaved
deriving DecidableEq, Repr

/-- R50: an entry of the spare map in its slot; the state is PENDING when `pending` is set. -/
structure SpareEntry where
  slot : Nat
  home : Track
  alt : Track
  pending : Bool
  origin : Origin
  replacement : Option Track
deriving DecidableEq, Repr

/-- R169: the per-drive tallies. -/
structure DriveTallies where
  seeks : Nat
  hardArrivals : Nat
  seekChecks : Nat
  recoveredReads : Nat
  unrecoveredReads : Nat
  incompleteSectors : Nat
  arbiterMisses : Nat
  ringMisses : Nat
  slotMisses : Nat
  reassignments : Nat
  reassignFailures : Nat
deriving DecidableEq, Repr

/-- R98, R105, R109: the kinds of operation a drive runs. -/
inductive OpKind where
  | read
  | write
  | verify
  | seek
  | surface
  | recalibrate
  | mapLoad
  | mapWrite
  | reassign
deriving DecidableEq, Repr

/-- The pass of an operation over its track: reading (with the retry ladder), writing, or reading back without the ladder
(R60, R129 to R131, R142). -/
inductive Pass where
  | read
  | write
  | readBack
deriving DecidableEq, Repr

/-- What an operation does once its arm is on cylinder at the target it asked for: name its wanted sector (R105), go on past
the sector just dealt with (R111, R145), or end with a result (R112, R113). -/
inductive Goal where
  | transfer
  | advance
  | finish (r : Result)
deriving DecidableEq, Repr

/-- A request to the positioner channel: a seek to a target (R29), or a recalibration (R38) and then, within an operation,
the seek to the target it was made for (R105, R114). -/
inductive Motion where
  | seek (target : Nat) (goal : Goal)
  | recal (next : Option Nat)
deriving DecidableEq, Repr

/-- Where an operation stands: its first request waits for the report of a motion left running (R29, R105), its motion is in
flight, or it wants its sector. -/
inductive Stage where
  | waiting (m : Motion)
  | moving (m : Motion)
  | transfer
deriving DecidableEq, Repr

/-- R110: the retry ladder of a sector: `k` taken at its start, and the step of the attempt to be made. -/
structure Ladder where
  k : Nat
  step : Nat
deriving DecidableEq, Repr

/-- R98, R105: the current operation of a drive. -/
structure Op where
  kind : OpKind
  /-- The order it runs for; 0 for an internal operation. -/
  oid : Nat
  port : Port
  tag : Tag
  /-- R99: the count of the order. -/
  count : Nat
  home : Track
  phys : Track
  header : HeaderKind
  /-- R75: the wanted sector of the current track. -/
  sector : Nat
  /-- R84, R92: the sector index within the order. -/
  index : Nat
  stage : Stage
  ladder : Option Ladder
  /-- R114: the sector in hand has had its first seek check. -/
  checked : Bool
  /-- R111: an attempt of the ladder recovered a sector of the order. -/
  recovered : Bool
  /-- R146: a sector of the order used the ladder, recovered by it or not. -/
  laddered : Bool
  pass : Pass
  /-- R60: 1 or 2, the writing of the record in hand. -/
  attempt : Nat
  /-- R60: the composed record, kept with a MAP WRITE. -/
  record : Option MapRecord
  /-- R62: the sectors of the record a MAP LOAD has read. -/
  got : List Payload
  /-- R80, R117: the order has ended or the REASSIGN is aborted; the operation ends when the granted transfer does. -/
  ended : Bool
  /-- R147: a SURFACE VERIFY that ends with its current track. -/
  lastTrack : Bool
deriving DecidableEq, Repr

/-- One drive address: its bus record, rotation monitor, drive sequencer, positioner channel, spare map and pool, its table
entries and its tallies. -/
structure Drive where
  /-- R2: presence and plug type recorded by the last poll. -/
  present : Bool
  plugType : Nat
  /-- R5: the sector counter. -/
  counter : Nat
  /-- R6: the time of the last index pulse, in units of 10 µs. -/
  lastIndex : Option Nat
  /-- R9: the qualification count. -/
  qual : Nat
  /-- R4. -/
  state : DriveState
  /-- R7: the start of the watchdog count, and its length fixed there (R166). -/
  watchFrom : Nat
  watchLimit : Nat
  /-- R9: the time of entry to SPINNING UP. -/
  spinFrom : Nat
  /-- R98: the host-ordered entries by serial number, oldest first. -/
  queue : List Nat
  /-- R98: the pending internal operations. -/
  pendRecal : Bool
  pendLoad : Bool
  pendWrite : Bool
  pendReassign : Bool
  /-- R98: the current operation. -/
  cur : Option Op
  /-- R103: the sweep direction is INWARD. -/
  sweepIn : Bool
  /-- R154: the reservation holder. -/
  holder : Option Port
  /-- R10: the map-held mark. -/
  mapHeld : Bool
  /-- R105, R106: the head select lines. -/
  headSel : Nat
  /-- R75: a data path request stands for the operation's wanted sector. -/
  request : Bool
  chan : Channel
  /-- R50: the entries of the spare map, slots strictly rising; a slot not listed is empty. -/
  spare : List SpareEntry
  /-- R48: the pool states by position; none while the geometry is unset. -/
  pool : List PoolState
  mapState : MapState
  /-- R46: the GEOMETRY entry, absent while unset. -/
  geom : Option Geometry
  profile : Profile
  policy : Policy
  /-- R162: a PUT stored the GEOMETRY, MOTION PROFILE or SPARING POLICY entry while the address was not served; the entry takes
  effect at a power-on in channel mode 8 (log 43). -/
  geomLater : Bool
  profileLater : Bool
  policyLater : Bool
  tally : DriveTallies
deriving DecidableEq, Repr

/-! ## Ports -/

/-- R87, R90: the sector a port's offered slot holds, and the time it became offered. -/
structure Offer where
  oid : Nat
  index : Nat
  since : Nat
deriving DecidableEq, Repr

/-- A port controller. -/
structure PortCtl where
  /-- R149: the order slots. -/
  slots : Quad (Option Order)
  /-- R162. -/
  window : Window
  /-- R165: the PORT ACCESS entry of the port. -/
  access : PortAccess
  /-- R160: the pending notice kinds of each logical drive, as the bits of 9.10. -/
  notices : Oct Byte
  /-- R159: the queued frames of the sources 1 to 3, and the frame in transmission. -/
  replies : List OutFrame
  endings : List OutFrame
  dataReqs : List OutFrame
  sending : Option OutFrame
  /-- R87. -/
  offered : Option Offer
  /-- R169: the per-port tallies. -/
  refusals : Nat
  timeouts : Nat
  protocolErrors : Nat
deriving DecidableEq, Repr

/-! ## Data path and staging store -/

/-- R74, R78: the transfer the path is granted for. -/
structure Xfer where
  sector : Nat
  /-- The sector has started and the transfer is under way. -/
  begun : Bool
  /-- R78: it is a continuation, whose place is taken when it begins. -/
  chained : Bool
  /-- R78: the holder keeps the path for the next sector after this one. -/
  cont : Bool
  /-- R81: the sector start passed on while the transfer runs. -/
  early : Option Nat
  /-- R69: the frame being laid down, for a write. -/
  frame : Option Frame
deriving DecidableEq, Repr

/-- R77: the data path and its arbiter. -/
structure DataPath where
  holder : Option DriveId
  last : DriveId
  burst : Nat
  xfer : Option Xfer
deriving DecidableEq, Repr

/-- R84: the states of a read-ring slot but for EMPTY. -/
inductive RingState where
  | filling
  | held
  | done
  | discard
deriving DecidableEq, Repr

/-- R84: a read-ring slot that is not EMPTY. -/
structure RingSlot where
  state : RingState
  port : Port
  tag : Tag
  oid : Nat
  index : Nat
  data : Option Payload
deriving DecidableEq, Repr

/-- R84: the read ring: the boundary pointer and the non-EMPTY slots from it on, in slot order. They are always one run that
stops before the fill pointer, so the fill pointer and the EMPTY slots are read from it (`Ring.fill`, `Ring.slot`). -/
structure Ring where
  boundary : Nat
  run : List RingSlot
deriving DecidableEq, Repr

/-- R92: the states of a write slot. -/
inductive WriteState where
  | free
  | requested
  | full
  | writing
deriving DecidableEq, Repr

/-- R92, R96: a write slot; `since` is the time it went REQUESTED. -/
structure WriteSlot where
  state : WriteState
  port : Port
  tag : Tag
  oid : Nat
  index : Nat
  since : Nat
  data : List Byte
deriving DecidableEq, Repr

/-! ## Sparing unit and verify engine -/

/-- R120: the cause of a candidate. -/
inductive Cause where
  | recovered
  | unrecovered
  | ordered
  | verify
deriving DecidableEq, Repr

/-- R120: the state of a watch entry. -/
inductive WatchState where
  | counting
  | candidate
  | stuck
deriving DecidableEq, Repr

/-- R120: a watch entry; times are string times in ms. -/
structure WatchEntry where
  drive : DriveId
  home : Track
  count : Nat
  windowStart : Nat
  candTime : Option Nat
  cause : Option Cause
  state : WatchState
deriving DecidableEq, Repr

/-- R120: a watch slot. -/
inductive WatchSlot where
  | empty
  | reserved
  | entry (e : WatchEntry)
deriving DecidableEq, Repr

/-- R126: the states of the reassignment engine. -/
inductive EngineState where
  | free
  | taken
  | copying
deriving DecidableEq, Repr

/-- R126: a place of the track buffer. -/
inductive BufPlace where
  | unused
  | good (p : Payload)
  | lost
deriving DecidableEq, Repr

/-- R126: the reassignment engine. -/
structure ReassignEngine where
  state : EngineState
  slot : Option Nat
  held : Option WatchEntry
  tried : Nat
  seekChecks : Nat
  buffer : List BufPlace
deriving DecidableEq, Repr

/-- R139: the phases of the verify engine. -/
inductive VerifyPhase where
  | trackWrite
  | trackReadBack
  | trialWrite
  | trialReadBack
  | trackRead
deriving DecidableEq, Repr

/-- R139: the current verify. -/
structure VerifyJob where
  drive : DriveId
  port : Port
  tag : Tag
  oid : Nat
  destructive : Bool
  first : Nat
  count : Nat
deriving DecidableEq, Repr

/-- R139: the verify engine; BUSY when `job` is present. -/
structure VerifyEngine where
  job : Option VerifyJob
  track : Nat
  phase : Option VerifyPhase
  verified : Nat
  spared : Nat
  failed : Nat
  dead : Nat
  trial : Option Nat
  tried : Nat
  seekChecks : Nat
  shortfall : Option (Result × SectorAddr)
  /-- R142: failures counted on the current track or trial of a destructive verification, not yet judged. -/
  trackFails : Nat
  /-- R146: sectors failed as it stood when the current track began, and what it goes back to when that track is cut off. -/
  failedBefore : Nat
  /-- R144: the first sector that failed the current track's read-back. -/
  trackFirst : Option Nat
  /-- R145: the first failing sector of a read-only verification. -/
  firstFail : Option SectorAddr
deriving DecidableEq, Repr

/-- R170: the start cause. -/
inductive StartCause where
  | powerOn
  | resetLine
  | resetOrder
deriving DecidableEq, Repr

/-! ## The whole -/

/-- The state of the part. -/
structure State where
  /-- R21: the controller has power. -/
  powered : Bool
  /-- The count of 10 µs units since power-on; string time (R120) is its hundredth part. -/
  clock : Nat
  startCause : StartCause
  plugs : Plugs
  drives : Oct Drive
  ports : Quad PortCtl
  path : DataPath
  ring : Ring
  wslots : Oct WriteSlot
  /-- R93: the slot wait list. -/
  waitList : List Nat
  /-- R120: the 16 watch slots. -/
  watch : List WatchSlot
  reassign : ReassignEngine
  verify : VerifyEngine
  /-- R169: the string tally. -/
  watchOverflows : Nat
  /-- R69, R71: the frames the data path has laid down, by sector key, keys strictly rising. -/
  media : List (Nat × Frame)
  /-- MODEL: how many writes have been cut off, the number of the next free value of R71 (log 6). -/
  cuts : Nat
  /-- MODEL: the next serial number (log 7). -/
  nextOid : Nat
  /-- MODEL: the orders whose result is fixed or held, until their ENDING is queued (log 7). -/
  closing : List Nat
  /-- MODEL: the commands that wait, first in first out. -/
  pending : List Instr
deriving DecidableEq, Repr

/-! ## The state after reset -/

/-- R3: the type 1 motion profile, also that of an unknown type and of an absent drive. -/
def Profile.initial : Profile :=
  { a := 4, vmax := 32, c := 2, settle := 6, offsetUnit := 4, maxOffset := 3, burst := 32, sweep := false }

/-- R168: the power-on sparing policy. -/
def Policy.initial : Policy := { auto := true, threshold := 3, window := 60, verifyThreshold := 1 }

/-- R22: a channel at power-on. -/
def Channel.initial (p : Profile) : Channel :=
  { pos := 0, vel := 0, inward := true, phase := .stopped, target := 0, settle := 0, recalCount := 0, recalLimit := 0,
    known := false, profile := p, staged := none, step := 0 }

def DriveTallies.zero : DriveTallies :=
  { seeks := 0, hardArrivals := 0, seekChecks := 0, recoveredReads := 0, unrecoveredReads := 0, incompleteSectors := 0,
    arbiterMisses := 0, ringMisses := 0, slotMisses := 0, reassignments := 0, reassignFailures := 0 }

/-- R2, R3, R4, R22, R50, R56, R154, R168: a drive address at power-on with no drive found at it. -/
def Drive.initial : Drive :=
  { present := false, plugType := 0, counter := 0, lastIndex := none, qual := 0, state := .absent, watchFrom := 0,
    watchLimit := 0, spinFrom := 0, queue := [], pendRecal := false, pendLoad := false, pendWrite := false,
    pendReassign := false, cur := none, sweepIn := true, holder := none, mapHeld := false, headSel := 0, request := false,
    chan := Channel.initial Profile.initial, spare := [], pool := [], mapState := .clean, geom := none,
    profile := Profile.initial, policy := Policy.initial, geomLater := false, profileLater := false, policyLater := false,
    tally := DriveTallies.zero }

/-- R162: a cleared table window. -/
def Window.cleared : Window := { table := none, drive := 0, index := 0, advance := false }

/-- R168: the PORT ACCESS default: logical n is physical n with WRITE, all kinds unmasked. -/
def PortAccess.initial (maintenance : Bool) : PortAccess :=
  { logical := Oct.of fun d => { phys := some d, right := .write }, maintenance := maintenance, mask := 0 }

/-- R149, R158, R160, R162: a port controller at power-on. -/
def PortCtl.initial (maintenance : Bool) : PortCtl :=
  { slots := Quad.all none, window := Window.cleared, access := PortAccess.initial maintenance, notices := Oct.all 0,
    replies := [], endings := [], dataReqs := [], sending := none, offered := none, refusals := 0, timeouts := 0,
    protocolErrors := 0 }

/-- R77: the arbiter at power-on and string reset. -/
def DataPath.initial : DataPath := { holder := none, last := 7, burst := 0, xfer := none }

/-- R92: a FREE write slot. -/
def WriteSlot.free : WriteSlot := { state := .free, port := 0, tag := 0, oid := 0, index := 0, since := 0, data := [] }

/-- R84: the empty ring. -/
def Ring.initial : Ring := { boundary := 0, run := [] }

/-- R126: the reassignment engine at power-on and string reset. -/
def ReassignEngine.initial : ReassignEngine :=
  { state := .free, slot := none, held := none, tried := 0, seekChecks := 0, buffer := List.replicate 32 .unused }

/-- R139: the verify engine at power-on and string reset. -/
def VerifyEngine.initial : VerifyEngine :=
  { job := none, track := 0, phase := none, verified := 0, spared := 0, failed := 0, dead := 0, trial := none, tried := 0,
    seekChecks := 0, shortfall := none, trackFails := 0, failedBefore := 0, trackFirst := none, firstFail := none }

/-- The plugs of the reset state: DESIGN CHOICE, the spec fixes no setting (log 1). -/
def Plugs.initial : Plugs := { maintenance := 0, mode8 := false, identity := 0 }

/-- The machine right after power-on (R21), with the plugs of log 1, no drive found by the poll and blank media (log 6). -/
def State.reset : State :=
  { powered := true, clock := 0, startCause := .powerOn, plugs := Plugs.initial, drives := Oct.all Drive.initial,
    ports := Quad.of fun p => PortCtl.initial (p = 0), path := DataPath.initial, ring := Ring.initial,
    wslots := Oct.all WriteSlot.free, waitList := [], watch := List.replicate 16 .empty,
    reassign := ReassignEngine.initial, verify := VerifyEngine.initial, watchOverflows := 0, media := [], cuts := 0,
    nextOid := 1, closing := [], pending := [] }

end Sys2Proof.Machine
end

