-- ==== Sys2Proof/Machine/Flags.lean ====
section
/-! DEFINITION. The conditions the rules name: what each drive state allows (R4), what a channel, a slot, a ring or a request
is ready for, and the saturating count of the tallies (R169). -/

namespace Sys2Proof.Machine

/-- R7: the drive states in which the index watchdog is armed. -/
def DriveState.armed : DriveState → Bool
  | .recalibrating | .loadingMap | .writingMap | .ready | .mapLost | .fenced => true
  | .absent | .waitingSpin | .spinningUp | .notReady => false

/-- R4: the drive states in which the spindle start is raised. -/
def DriveState.spindleStart : DriveState → Bool
  | .absent | .waitingSpin => false
  | .spinningUp | .recalibrating | .loadingMap | .writingMap | .ready | .mapLost | .fenced | .notReady => true

/-- R12: the start-up states. -/
def DriveState.startUp : DriveState → Bool
  | .waitingSpin | .spinningUp | .recalibrating | .loadingMap | .writingMap => true
  | .absent | .ready | .mapLost | .fenced | .notReady => false

/-- R4, R152: the drive states in which host data orders are accepted. -/
def DriveState.takesHostData (st : DriveState) : Bool := st.startUp || st = .ready

/-- R23: the seek phases. -/
def Phase.seeking : Phase → Bool
  | .accel | .cruise | .decel | .settling => true
  | .idle | .recal | .stopped => false

/-- R29, R105: a motion is in flight, a seek or a recalibration. -/
def Phase.inFlight (p : Phase) : Bool := p.seeking || p = .recal

/-- R24: the arm is on cylinder. -/
def Channel.onCylinder (ch : Channel) : Bool := ch.phase = .idle && ch.known

/-- R1: channel mode 4 serves addresses 0 to 3, channel mode 8 all eight. -/
def served (mode8 : Bool) (d : DriveId) : Bool := mode8 || d.val < 4

/-- R86: the ring is full, the slot at the fill pointer is not EMPTY. -/
def Ring.full (r : Ring) : Bool := 24 ≤ r.run.length

/-- R84: the fill pointer. -/
def Ring.fill (r : Ring) : Nat := (r.boundary + r.run.length) % 24

/-- R84: the slot numbered `i`, none when it is EMPTY. -/
def Ring.slot (r : Ring) (i : Nat) : Option RingSlot := r.run[(i + 24 - r.boundary) % 24]?

/-- R99: the results that carry a failing address (R116). -/
def Result.hasFailing : Result → Bool
  | .dataCheck | .dataLost | .incompleteSector | .seekCheck | .noAlternate | .reassignFailed => true
  | .complete | .recovered | .notReady | .fenced | .mapUnavailable | .cancelled | .reset | .portTimeout => false

/-- R98: the orders that are entries of a drive queue. -/
def OrderKind.driveQueued : OrderKind → Bool
  | .read | .write | .verify | .seek | .surfaceVerify => true
  | .reserve | .release | .sense | .tableSelect | .tablePut | .tableGet | .readTallies | .reassignTrack | .fence | .unfence
  | .driveReset | .commitMap | .stringReset => false

/-- R156: the orders that act at acceptance (00_scope.md 4, immediate order). -/
def OrderKind.immediate : OrderKind → Bool
  | .reserve | .release | .sense | .tableSelect | .tablePut | .tableGet | .readTallies | .stringReset => true
  | .read | .write | .verify | .seek | .surfaceVerify | .reassignTrack | .fence | .unfence | .driveReset | .commitMap => false

/-- R150 check 3: the maintenance orders (00_scope.md 4). -/
def OrderKind.maintenance : OrderKind → Bool
  | .tableSelect | .tablePut | .tableGet | .readTallies | .reassignTrack | .surfaceVerify | .fence | .unfence | .driveReset
  | .commitMap | .stringReset => true
  | .read | .write | .verify | .seek | .reserve | .release | .sense => false

/-- R150: the orders that name a drive, to which checks 4 to 9 apply. -/
def OrderKind.namesDrive : OrderKind → Bool
  | .tableSelect | .tablePut | .tableGet | .readTallies | .stringReset => false
  | .read | .write | .verify | .seek | .reserve | .release | .sense | .reassignTrack | .surfaceVerify | .fence | .unfence
  | .driveReset | .commitMap => true

/-- R15: the operations a host ordered. -/
def OpKind.hostOrdered : OpKind → Bool
  | .read | .write | .verify | .seek | .surface => true
  | .recalibrate | .mapLoad | .mapWrite | .reassign => false

/-- R169: a counted event raises a tally below 65535 by one and leaves it at 65535. -/
def bump (n : Nat) : Nat := if n < 65535 then n + 1 else n

/-- R139: a count of the verify engine, holding at 65535. -/
def addHolding (n k : Nat) : Nat := min (n + k) 65535

/-- R160, 9.10: the bits of the notice kinds. -/
def noticeReady : Byte := 1#8
def noticeNotReady : Byte := 2#8
def noticeMapLost : Byte := 4#8
def noticeCandidate : Byte := 8#8
def noticeReassigned : Byte := 16#8
def noticeReassignFailed : Byte := 32#8

end Sys2Proof.Machine
end

