-- ==== Sys2Proof/Machine/MapCode.lean ====
section
/-! DEFINITION. The map record as bytes (R59, R63 check 1). That records can be written as bytes at all is shown by one way of doing
it, so that the free value of `Config.recordCode` has something to be; nothing rests on the bytes of that way. -/

namespace Sys2Proof.Machine.MapCode

/-- A number below 65536 in two bytes. -/
def num (n : Nat) : List Byte := [BitVec.ofNat 8 (n / 256), BitVec.ofNat 8 n]

def readNum : List Byte → Option (Nat × List Byte)
  | a :: b :: rest => some (a.toNat * 256 + b.toNat, rest)
  | _ => none

theorem readNum_num {n : Nat} (h : n < 65536) (rest : List Byte) : readNum (num n ++ rest) = some (n, rest) := by
  simp only [num, readNum, List.cons_append, List.nil_append, BitVec.toNat_ofNat, Option.some.injEq, Prod.mk.injEq, and_true]
  omega

/-- A list of a known length, read item by item. -/
def readMany {α : Type} (f : List Byte → Option (α × List Byte)) : Nat → List Byte → Option (List α × List Byte)
  | 0, b => some ([], b)
  | n + 1, b => do
    let x ← f b
    let l ← readMany f n x.2
    some (x.1 :: l.1, l.2)

theorem readMany_flatMap {α : Type} {f : List Byte → Option (α × List Byte)} {enc : α → List Byte} {l : List α}
    (h : ∀ x ∈ l, ∀ rest, f (enc x ++ rest) = some (x, rest)) (rest : List Byte) :
    readMany f l.length (l.flatMap enc ++ rest) = some (l, rest) := by
  induction l with
  | nil => rfl
  | cons x l ih =>
    simp only [List.flatMap_cons, List.append_assoc, List.length_cons, readMany, h x (by simp)]
    simp [ih fun y hy => h y (by simp [hy])]

def poolByte : PoolState → List Byte
  | .free => [0#8]
  | .inUse => [1#8]
  | .dead => [2#8]
  | .map => [3#8]

def readPool : List Byte → Option (PoolState × List Byte)
  | b :: rest => some (if b = 0#8 then .free else if b = 1#8 then .inUse else if b = 2#8 then .dead else .map, rest)
  | [] => none

theorem readPool_poolByte (p : PoolState) (rest : List Byte) : readPool (poolByte p ++ rest) = some (p, rest) := by
  cases p <;> rfl

def originByte : Origin → List Byte
  | .auto => [0#8]
  | .ordered => [1#8]
  | .verify => [2#8]
  | .loaded => [3#8]

def readOrigin : List Byte → Option (Origin × List Byte)
  | b :: rest => some (if b = 0#8 then .auto else if b = 1#8 then .ordered else if b = 2#8 then .verify else .loaded, rest)
  | [] => none

theorem readOrigin_originByte (o : Origin) (rest : List Byte) : readOrigin (originByte o ++ rest) = some (o, rest) := by
  cases o <;> rfl

def entryBytes (e : RecordEntry) : List Byte :=
  num e.home.cyl ++ (num e.home.head ++ (num e.alt.cyl ++ (num e.alt.head ++ originByte e.origin)))

def readEntry (b : List Byte) : Option (RecordEntry × List Byte) := do
  let hc ← readNum b
  let hh ← readNum hc.2
  let ac ← readNum hh.2
  let ah ← readNum ac.2
  let o ← readOrigin ah.2
  some ({ home := ⟨hc.1, hh.1⟩, alt := ⟨ac.1, ah.1⟩, origin := o.1 }, o.2)

theorem readEntry_entryBytes {e : RecordEntry}
    (h : e.home.cyl < 65536 ∧ e.home.head < 65536 ∧ e.alt.cyl < 65536 ∧ e.alt.head < 65536) (rest : List Byte) :
    readEntry (entryBytes e ++ rest) = some (e, rest) := by
  simp [readEntry, entryBytes, readNum_num h.1, readNum_num h.2.1, readNum_num h.2.2.1, readNum_num h.2.2.2,
    readOrigin_originByte]

def recordBytes (r : MapRecord) : List Byte :=
  num r.type ++ (num r.c ++ (num r.h ++ (num r.s ++ (num r.a ++ (num r.entryCount ++ (num r.deadCount ++
    (r.pool.flatMap poolByte ++ (r.entries.flatMap entryBytes ++ [if r.sumOk then 0#8 else 1#8]))))))))

def readRecord (b : List Byte) : Option MapRecord := do
  let t ← readNum b
  let c ← readNum t.2
  let h ← readNum c.2
  let s ← readNum h.2
  let a ← readNum s.2
  let n ← readNum a.2
  let d ← readNum n.2
  let pool ← readMany readPool (a.1 * h.1) d.2
  let es ← readMany readEntry n.1 pool.2
  let sum ← es.2.head?
  some { type := t.1, c := c.1, h := h.1, s := s.1, a := a.1, entryCount := n.1, deadCount := d.1, pool := pool.1,
         entries := es.1, sumOk := sum = 0#8 }

theorem storable_bounds {r : MapRecord} (h : r.storable = true) :
    (r.type < 16 ∧ r.c ≤ 1024 ∧ r.h ≤ 16 ∧ r.s ≤ 32 ∧ r.a ≤ 128) ∧ (r.pool.length = r.a * r.h ∧ r.pool.length ≤ 128) ∧
      (r.entries.length = r.entryCount ∧ r.entryCount ≤ 128 ∧ r.deadCount ≤ 128) ∧
      ∀ e ∈ r.entries, e.home.cyl < 1024 ∧ e.home.head < 16 ∧ e.alt.cyl < 1024 ∧ e.alt.head < 16 := by
  simp only [MapRecord.storable, Bool.and_eq_true, decide_eq_true_eq, List.all_eq_true] at h
  exact ⟨⟨h.1.1.1.1.1.1.1.1.1.1, h.1.1.1.1.1.1.1.1.1.2, h.1.1.1.1.1.1.1.1.2, h.1.1.1.1.1.1.1.2, h.1.1.1.1.1.1.2⟩,
    ⟨h.1.1.1.1.1.2, h.1.1.1.1.2⟩, ⟨h.1.1.1.2, h.1.1.2, h.1.2⟩,
    fun e he => ⟨(h.2 e he).1.1.1, (h.2 e he).1.1.2, (h.2 e he).1.2, (h.2 e he).2⟩⟩

theorem readRecord_recordBytes {r : MapRecord} (h : r.storable = true) (filler : List Byte) :
    readRecord (recordBytes r ++ filler) = some r := by
  obtain ⟨⟨h1, h2, h3, h4, h5⟩, ⟨hp, -⟩, ⟨hn, h6, h7⟩, he⟩ := storable_bounds h
  have hpool (rest : List Byte) := readMany_flatMap (l := r.pool) (fun p _ => readPool_poolByte p) rest
  have hent (rest : List Byte) := readMany_flatMap (l := r.entries)
    (fun e hm => readEntry_entryBytes (by have := he e hm; omega)) rest
  rw [hp] at hpool
  rw [hn] at hent
  simp only [readRecord, recordBytes, List.append_assoc, readNum_num (show r.type < 65536 by omega),
    readNum_num (show r.c < 65536 by omega), readNum_num (show r.h < 65536 by omega), readNum_num (show r.s < 65536 by omega),
    readNum_num (show r.a < 65536 by omega), readNum_num (show r.entryCount < 65536 by omega),
    readNum_num (show r.deadCount < 65536 by omega), Option.bind_eq_bind, Option.bind_some, hpool, hent]
  cases r with
  | mk _ _ _ _ _ _ _ _ _ ok => cases ok <;> rfl

theorem length_flatMap_le {α : Type} {f : α → List Byte} {n : Nat} (h : ∀ x, (f x).length = n) (l : List α) :
    (l.flatMap f).length = n * l.length := by
  induction l with
  | nil => simp
  | cons x l ih => simp [h, ih, Nat.mul_add, Nat.add_comm]

theorem recordBytes_fits {r : MapRecord} (h : r.storable = true) : (recordBytes r).length ≤ 1536 := by
  obtain ⟨-, ⟨-, hp⟩, ⟨hn, h6, -⟩, -⟩ := storable_bounds h
  have h1 := length_flatMap_le (f := poolByte) (n := 1) (fun p => by cases p <;> rfl) r.pool
  have h2 := length_flatMap_le (f := entryBytes) (n := 9)
    (fun e => by cases e with | mk _ _ o => cases o <;> rfl) r.entries
  simp only [recordBytes, num, List.length_append, List.length_cons, List.length_nil, h1, h2]
  omega

/-- One way of writing records. -/
def plain : RecordCode where
  bytes := recordBytes
  find := readRecord
  fits _ h := recordBytes_fits h
  finds _ filler h := readRecord_recordBytes h filler

end Sys2Proof.Machine.MapCode

namespace Sys2Proof.Machine

/-- R59: the way this part writes map records, left open (log 9). -/
def recordCode : RecordCode := @Config.recordCode ⟨MapCode.plain⟩

/-- R59, R63 check 1: the record with a matching sum that bytes begin with; the filler behind it is ignored. None when the bytes
begin with no such record. -/
def recordOf (b : List Byte) : Option MapRecord :=
  (recordCode.find b).filter fun r => r.storable && r.sumOk && (recordCode.bytes r).isPrefixOf b

end Sys2Proof.Machine
end

