-- ==== Sys2Proof/Machine/Operands.lean ====
section
/-! DEFINITION. The quantities the rules compute from a table entry, a track or a frame's fields: the division of a drive
(R46), the per-update quantities (R26), targets (R29, R36), the lookup of a track (R53) and the header of a sector (R70). -/

namespace Sys2Proof.Machine

/-! ## Geometry (R46) -/

/-- R46: cylinders 0 to C−A−1 are the user cylinders. -/
def Geometry.userCyls (g : Geometry) : Nat := g.c - g.a

/-- R46: the number of user tracks. -/
def Geometry.userTracks (g : Geometry) : Nat := (g.c - g.a) * g.h

/-- R46: the number of pool positions. -/
def Geometry.poolSize (g : Geometry) : Nat := g.a * g.h

/-- R46: the pool position of the map track. -/
def Geometry.mapPos (g : Geometry) : Nat := (g.a - 1) * g.h

/-- R46: the map track. -/
def Geometry.mapTrack (g : Geometry) : Track := { cyl := g.c - 1, head := 0 }

/-- R46: the track of a pool position. -/
def Geometry.posTrack (g : Geometry) (p : Nat) : Track := { cyl := g.c - g.a + p / g.h, head := p % g.h }

/-- R46: the pool position of a track of the alternate cylinders. -/
def Geometry.trackPos (g : Geometry) (t : Track) : Nat := (t.cyl - (g.c - g.a)) * g.h + t.head

/-- R46: the user track of a track number. -/
def Geometry.userTrack (g : Geometry) (n : Nat) : Track := { cyl := n / g.h, head := n % g.h }

/-- R46: the track number of a user track. -/
def Geometry.trackNumber (g : Geometry) (t : Track) : Nat := t.cyl * g.h + t.head

/-- R46: a user track. -/
def Geometry.isUser (g : Geometry) (t : Track) : Bool := t.cyl < g.c - g.a && t.head < g.h

/-- R46: a track of the alternate cylinders. -/
def Geometry.isPool (g : Geometry) (t : Track) : Bool := g.c - g.a ≤ t.cyl && t.cyl < g.c && t.head < g.h

/-- R46: the conditions of a consistent geometry entry. -/
def Geometry.consistent (g : Geometry) : Bool :=
  16 ≤ g.c && g.c ≤ 1024 && 1 ≤ g.h && g.h ≤ 16 && 8 ≤ g.s && g.s ≤ 32 && 1 ≤ g.a && g.a ≤ 16 && 2 ≤ g.a * g.h &&
    g.a * g.h - 1 ≤ 128 && g.a + 1 ≤ g.c

/-- R22: the highest fine position, (C−1) × 64. -/
def Geometry.maxPos (g : Geometry) : Nat := (g.c - 1) * 64

/-- R48: the pool of a geometry with every position FREE but the map track. -/
def Geometry.freshPool (g : Geometry) : List PoolState :=
  (List.range g.poolSize).map fun p => if p = g.mapPos then .map else .free

/-- R5, R3: the sectors per track in force, 32 while the geometry is unset. -/
def Drive.sectors (x : Drive) : Nat := (x.geom.map Geometry.s).getD 32

/-- R167: a value is clamped into its range. -/
def clampTo (lo hi n : Nat) : Nat := min (max n lo) hi

/-- R166, R167: a policy with its verify threshold clamped into 1 to the given sectors per track. -/
def Policy.within (sectors : Nat) (p : Policy) : Policy := { p with verifyThreshold := clampTo 1 sectors p.verifyThreshold }

/-- R3: the revolution period in force, 1667 while the geometry is unset. -/
def Drive.period (x : Drive) : Nat := (x.geom.map Geometry.period).getD 1667

/-- R7: the length of a watchdog count begun now, two revolution periods. -/
def Drive.twoPeriods (x : Drive) : Nat := 2 * x.period

/-- R6: the interval is within tolerance of the period. -/
def inTolerance (period interval : Nat) : Bool :=
  interval ≤ period + period / 32 && period ≤ interval + period / 32

/-- The pool of a drive with every position FREE but the map track; no position while the geometry is unset (R48, R58). -/
def Drive.freshPool (x : Drive) : List PoolState := (x.geom.map Geometry.freshPool).getD []

/-! ## Per-update quantities (R26) -/

/-- 00_scope.md 3.6: the channel-mode multiplier m. -/
def multiplier (mode8 : Bool) : Nat := if mode8 then 2 else 1

/-- R26: a_u = a × m². -/
def Profile.au (m : Nat) (p : Profile) : Nat := p.a * (m * m)

/-- R26: vmax_u = vmax × m. -/
def Profile.vmaxu (m : Nat) (p : Profile) : Nat := p.vmax * m

/-- R26: c_u = c × m. -/
def Profile.cu (m : Nat) (p : Profile) : Nat := p.c * m

/-- R26: settle_u = ceil(settle / m). -/
def Profile.settleu (m : Nat) (p : Profile) : Nat := (p.settle + (m - 1)) / m

/-- R30: S(V) = floor(V × (V + a_u) / (2 × a_u)). -/
def stopping (au v : Nat) : Nat := v * (v + au) / (2 * au)

/-- R38, R40: N = ceil((C−1) × 64 / c_u) + 64. -/
def recalBound (g : Geometry) (cu : Nat) : Nat := (g.maxPos + (cu - 1)) / cu + 64

/-- R29: the centre of a cylinder. -/
def centre (cyl : Nat) : Nat := cyl * 64

/-- R36: the offset target of step `j` outward (`inward` false) or inward of a cylinder, clamped to the drive. -/
def offsetTarget (g : Geometry) (unit cyl j : Nat) (inward : Bool) : Nat :=
  min (if inward then centre cyl + j * unit else centre cyl - j * unit) g.maxPos

/-- R110: the target of a retry step: step 1 is the centre, step 2j the offset +j, step 2j+1 the offset −j. -/
def ladderTarget (g : Geometry) (unit cyl step : Nat) : Nat :=
  if step ≤ 1 then centre cyl else offsetTarget g unit cyl (step / 2) (step % 2 = 0)

/-- R24: the arm cylinder, unknown while the position is not known. -/
def Channel.armCyl (ch : Channel) : Option Nat := if ch.known then some ((ch.pos + 32) / 64) else none

/-! ## Tracks and headers -/

/-- R53: the lookup of a home track: the physical track and the header kind its sectors carry. -/
def lookupTrack (spare : List SpareEntry) (t : Track) : Track × HeaderKind :=
  match spare.find? (fun e => e.home = t) with
  | none => (t, .home)
  | some e => if e.pending && e.replacement.isNone then (t, .home) else (e.alt, .alternate t.cyl t.head)

/-- R70: the header an operation writes on, and expects of, its sector. -/
def Op.expected (d : DriveId) (op : Op) (lost : Bool) : Header :=
  { drive := d.val, cyl := op.phys.cyl, head := op.phys.head, sector := op.sector, kind := op.header, lost := lost }

/-- R75: the sector before sector `w`. -/
def sectorBefore (sectors w : Nat) : Nat := if w = 0 then sectors - 1 else w - 1

/-- The key under which a sector's frame is kept in the media: drive, cylinder, head and sector in one number. -/
def mediaKey (d : DriveId) (t : Track) (sector : Nat) : Nat := ((d.val * 1024 + t.cyl) * 16 + t.head) * 32 + sector

/-- The home address of the sector an operation has in hand (R99, R112). -/
def Op.homeAddr (op : Op) : SectorAddr := { cyl := op.home.cyl, head := op.home.head, sector := op.sector }

/-- R130: the data of a place marked LOST is written as zero. -/
def zeroData : Payload := .bytes (List.replicate 512 0)

/-! ## The data of a sector -/

/-- R59: byte `i` of the `part`-th sector of a map record: the record through its sum, and then the filler. -/
def recordSectorByte (part : Nat) (r : MapRecord) (filler : List Byte) (i : Nat) : Byte :=
  match (recordCode.bytes r)[part * 512 + i]? with
  | some b => b
  | none => filler.getD (i - ((recordCode.bytes r).length - part * 512)) 0#8

/-- The bytes of a sector's data (R141, R59: those not given are free values). -/
def payloadBytes : Payload → List Byte
  | .bytes l => l
  | .pattern d c h s => (List.range 512).map fun i => Config.patternByte d c h (s * 512 + i)
  | .record n r filler => (List.range 512).map fun i => recordSectorByte n r filler i

/-- R60, R131, R142: the data of two sectors are equal, byte by byte. The patterns of different places differ (R141; log 9). -/
def sameData : Payload → Payload → Bool
  | .pattern d c h s, .pattern d' c' h' s' => d = d' && c = c' && h = h' && s = s'
  | p, q => p = q || payloadBytes p = payloadBytes q

/-! ## Read outcomes (R72) -/

/-- R72, R73: the outcomes of a read. -/
inductive ReadOutcome where
  | good (p : Payload)
  | mismatch (cylinderWrong : Bool)
  | incomplete
  | lost
  | dataCheck
deriving DecidableEq, Repr

/-- R72: the outcome of reading a frame with an expected header, element by element: the first element that fails decides. A frame torn in
its data under a header that is not the one expected, or whose LOST flag is set, so reads by its header and not INCOMPLETE (R71,
R73): the model's choice (log 48). -/
def judgeFrame (want : Header) : Frame → ReadOutcome
  | .noSync => .mismatch false
  | .fill => .incomplete
  | .framed false _ _ => .mismatch false
  | .framed true h d =>
    if h.cyl ≠ want.cyl then .mismatch true
    else if h.drive ≠ want.drive ∨ h.head ≠ want.head ∨ h.sector ≠ want.sector ∨ h.kind ≠ want.kind then .mismatch false
    else if h.lost then .lost
    else match d with
      | .good p => .good p
      | .fill => .incomplete
      | .invalid => .dataCheck

/-- R71, R72: the frame a cut-off write leaves: the elements laid down so far and then FILL. With the header and its check laid down
the FILL stands in the data, before that in the header. -/
def tornFrame (headerLaid : Bool) : Frame → Frame
  | .framed check h _ => if headerLaid then .framed check h .fill else .fill
  | .noSync | .fill => .fill

/-- The outcome is GOOD. -/
def ReadOutcome.isGood : ReadOutcome → Bool
  | .good _ => true
  | _ => false

end Sys2Proof.Machine
end

