-- ==== Sys2Proof/Machine/Ops.lean ====
section
/-! DEFINITION. The named operations over the state: one home for every read and write of a drive, a port, an order record, a
tally, a notice, the media and a drive state. -/

namespace Sys2Proof.Machine

/-! ## Access -/

def State.drive (s : State) (d : DriveId) : Drive := s.drives.get d

def State.modDrive (s : State) (d : DriveId) (f : Drive → Drive) : State :=
  { s with drives := s.drives.set d (f (s.drives.get d)) }

def State.port (s : State) (p : Port) : PortCtl := s.ports.get p

def State.modPort (s : State) (p : Port) (f : PortCtl → PortCtl) : State :=
  { s with ports := s.ports.set p (f (s.ports.get p)) }

def State.modChan (s : State) (d : DriveId) (f : Channel → Channel) : State :=
  s.modDrive d fun x => { x with chan := f x.chan }

def State.modOp (s : State) (d : DriveId) (f : Op → Op) : State :=
  s.modDrive d fun x => { x with cur := x.cur.map f }

/-- 00_scope.md 3.6: the multiplier of the sampled channel mode. -/
def State.m (s : State) : Nat := multiplier s.plugs.mode8

/-- R120: string time, the milliseconds since power-on. It counts on past 48 bits, where the manual says nothing of it: the model's choice
(log 49). -/
def State.stringTime (s : State) : Nat := s.clock / 100

/-! ## Tallies (R169) -/

def State.tallyDrive (s : State) (d : DriveId) (f : DriveTallies → DriveTallies) : State :=
  s.modDrive d fun x => { x with tally := f x.tally }

def DriveTallies.raiseSeeks (t : DriveTallies) : DriveTallies := { t with seeks := bump t.seeks }
def DriveTallies.raiseHardArrivals (t : DriveTallies) : DriveTallies := { t with hardArrivals := bump t.hardArrivals }
def DriveTallies.raiseSeekChecks (t : DriveTallies) : DriveTallies := { t with seekChecks := bump t.seekChecks }
def DriveTallies.raiseRecovered (t : DriveTallies) : DriveTallies := { t with recoveredReads := bump t.recoveredReads }
def DriveTallies.raiseUnrecovered (t : DriveTallies) : DriveTallies := { t with unrecoveredReads := bump t.unrecoveredReads }
def DriveTallies.raiseIncomplete (t : DriveTallies) : DriveTallies := { t with incompleteSectors := bump t.incompleteSectors }
def DriveTallies.raiseArbiterMisses (t : DriveTallies) : DriveTallies := { t with arbiterMisses := bump t.arbiterMisses }
def DriveTallies.raiseRingMisses (t : DriveTallies) : DriveTallies := { t with ringMisses := bump t.ringMisses }
def DriveTallies.raiseSlotMisses (t : DriveTallies) : DriveTallies := { t with slotMisses := bump t.slotMisses }
def DriveTallies.raiseReassignments (t : DriveTallies) : DriveTallies := { t with reassignments := bump t.reassignments }
def DriveTallies.raiseReassignFailures (t : DriveTallies) : DriveTallies :=
  { t with reassignFailures := bump t.reassignFailures }

def State.protocolError (s : State) (p : Port) : State :=
  s.modPort p fun c => { c with protocolErrors := bump c.protocolErrors }

def State.countRefusal (s : State) (p : Port) : State := s.modPort p fun c => { c with refusals := bump c.refusals }

def State.countTimeout (s : State) (p : Port) : State := s.modPort p fun c => { c with timeouts := bump c.timeouts }

/-! ## Notices (R160) -/

/-- R160: a port maps drive `d` as the logical drive of this access entry. -/
def Access.names (a : Access) (d : DriveId) : Bool := a.phys = some d && a.right ≠ .none

/-- R160: one port adds a kind to the pending set of each logical drive that names `d`. -/
def PortCtl.addNotice (c : PortCtl) (d : DriveId) (kind : Byte) : PortCtl :=
  { c with notices := Oct.of fun n => if (c.access.logical.get n).names d then c.notices.get n ||| kind else c.notices.get n }

/-- R160: an event sets a notice kind for drive `d`, whatever the masks. -/
def State.setNotice (s : State) (d : DriveId) (kind : Byte) : State :=
  { s with ports := s.ports.map fun c => c.addNotice d kind }

/-! ## Order records (R99) -/

/-- Every order held, ports in order, tags rising. -/
def State.orderList (s : State) : List (Port × Order) :=
  allPorts.flatMap fun p => (s.port p).slots.toList.filterMap fun o => o.map fun x => (p, x)

def State.findOrder (s : State) (oid : Nat) : Option (Port × Order) := s.orderList.find? fun e => e.2.oid = oid

def PortCtl.modOrder (c : PortCtl) (oid : Nat) (f : Order → Order) : PortCtl :=
  { c with slots := c.slots.map fun o => o.map fun x => if x.oid = oid then f x else x }

def State.modOrder (s : State) (oid : Nat) (f : Order → Order) : State :=
  { s with ports := s.ports.map fun c => c.modOrder oid f }

/-- An order has not reached its end: no result is fixed and it is not in state ENDING (R99). -/
def Order.live (o : Order) : Bool := o.result.isNone && o.state ≠ .ending

/-- The order is still there and has no fixed result. -/
def State.orderLive (s : State) (oid : Nat) : Bool :=
  match s.findOrder oid with
  | some (_, o) => o.live
  | none => false

/-- MODEL: the order waits for its ENDING to become due (log 7). -/
def State.close (s : State) (oid : Nat) : State :=
  { s with closing := if oid ∈ s.closing then s.closing else s.closing ++ [oid] }

/-- R99: fixes an order's result, once: the first event that ends it decides. The failing address stays for the results that
carry one (R116). -/
def State.endOrder (s : State) (oid : Nat) (r : Result) : State :=
  if s.orderLive oid then
    (s.modOrder oid fun o =>
      if o.live then { o with result := some r, failing := if r.hasFailing then o.failing else none } else o).close oid
  else s

/-- R99: the result a READ's drive operation gave is held until the order goes to ENDING. -/
def State.holdResult (s : State) (oid : Nat) (r : Result) : State :=
  if s.orderLive oid then (s.modOrder oid fun o => { o with held := some r }).close oid else s

/-- The live orders of a drive that satisfy `q`, in port and tag order. -/
def State.ordersOf (s : State) (d : DriveId) (q : Order → Bool) : List Nat :=
  (s.orderList.filter fun e => e.2.drive = some d && e.2.live && q e.2).map fun e => e.2.oid

/-- Ends every live order of a drive that satisfies `q`. -/
def State.endOrders (s : State) (d : DriveId) (q : Order → Bool) (r : Result) : State :=
  (s.ordersOf d q).foldl (fun s oid => s.endOrder oid r) s

/-! ## Media (R69 to R71) -/

/-- Lays a frame down: the keys stay strictly rising. -/
def mediaPut (m : List (Nat × Frame)) (k : Nat) (f : Frame) : List (Nat × Frame) :=
  match m with
  | [] => [(k, f)]
  | (j, g) :: rest => if k < j then (k, f) :: (j, g) :: rest else if k = j then (k, f) :: rest else (j, g) :: mediaPut rest k f

/-- The frame of a sector: a sector never written holds no frame, no SYNC group is found in it (R69). -/
def mediaGet (m : List (Nat × Frame)) (k : Nat) : Frame :=
  match m with
  | [] => .noSync
  | (j, f) :: rest => if j = k then f else mediaGet rest k

/-- Keys strictly rising: the one form in which equal media are equal lists. -/
abbrev mediaSorted (m : List (Nat × Frame)) : Prop := m.Pairwise fun a b => a.1 < b.1

def State.layDown (s : State) (d : DriveId) (t : Track) (sector : Nat) (f : Frame) : State :=
  { s with media := mediaPut s.media (mediaKey d t sector) f }

/-! ## Drive states (R4, R7) -/

/-- R4: a drive takes a state; R7: the watchdog starts counting at entry into an armed state from one where it was not armed,
and moving between two armed states does not restart it. -/
def State.setDriveState (s : State) (d : DriveId) (st : DriveState) : State :=
  s.modDrive d fun x =>
    if st.armed && !x.state.armed then { x with state := st, watchFrom := s.clock, watchLimit := x.twoPeriods }
    else { x with state := st }

/-! ## The positioner channel of a drive -/

/-- R28: adoption of a staged profile. -/
def Channel.adopt (ch : Channel) : Channel := { ch with profile := ch.staged.getD ch.profile, staged := none }

/-- R42: a stop; a channel already STOPPED is unchanged. -/
def Channel.stop (ch : Channel) : Channel :=
  if ch.phase = .stopped then ch
  else { ch with phase := .stopped, vel := 0, known := false, pos := 0, target := 0, inward := true, settle := 0, recalCount := 0 }

/-- R38: the start of a recalibration. -/
def Channel.startRecal (m : Nat) (g : Geometry) (ch : Channel) : Channel :=
  { ch.adopt with known := false, phase := .recal, vel := ch.adopt.profile.cu m, inward := false, settle := 0,
                  recalCount := 0, recalLimit := recalBound g (ch.adopt.profile.cu m) }

/-- R29: the start of a seek of non-zero length. -/
def Channel.startSeek (target : Nat) (ch : Channel) : Channel :=
  { ch.adopt with target := target, inward := ch.pos < target, vel := 0, phase := .accel }

end Sys2Proof.Machine
end

