-- ==== Sys2Proof/Machine/Staging.lean ====
section
/-! DEFINITION. The staging store: the read ring (R84 to R91) and the write slots (R92 to R97). -/

namespace Sys2Proof.Machine

/-! ## The read ring -/

/-- The non-EMPTY slots of the ring take a content, the boundary as it stands. -/
def State.setRun (s : State) (l : List RingSlot) : State := { s with ring := { s.ring with run := l } }

/-- R85: the slot at the fill pointer goes FILLING for the operation's sector. A full ring takes nothing (R86): a transfer is
granted, and a continuation planned, with the fill slot EMPTY. -/
def State.ringTake (s : State) (op : Op) : State :=
  if s.ring.full then s
  else
    s.setRun (s.ring.run ++
      [{ state := .filling, port := op.port, tag := op.tag, oid := op.oid, index := op.index, data := none }])

/-- The slot just behind the fill pointer is FILLING (R85). -/
def Ring.filling (r : Ring) : Bool :=
  match r.run.getLast? with
  | some x => x.state = .filling
  | none => false

/-- R85: the FILLING slot goes EMPTY and the fill pointer steps back onto it. -/
def State.ringBack (s : State) : State :=
  if s.ring.filling then s.setRun s.ring.run.dropLast else s

/-- R85: a GOOD outcome: HELD with its data for an order still ACTIVE, DISCARD for one that has ended. -/
def State.ringGood (s : State) (p : Payload) : State :=
  match s.ring.run.getLast? with
  | some x =>
    if x.state = .filling then
      s.setRun (s.ring.run.dropLast ++
        [if s.orderLive x.oid then { x with state := .held, data := some p } else { x with state := .discard, data := some p }])
    else s
  | none => s

/-- R90, R91: every HELD slot of the orders goes DISCARD. -/
def State.ringDiscard (s : State) (oids : List Nat) : State :=
  s.setRun (s.ring.run.map fun x => if x.state = .held ∧ x.oid ∈ oids then { x with state := .discard } else x)

/-- R89: the order has a slot HELD or FILLING. -/
def Ring.serves (r : Ring) (oid : Nat) : Bool :=
  r.run.any fun x => x.oid = oid && (x.state = .held || x.state = .filling)

/-- R87: the offered slot of a port: the first HELD slot of its line. -/
def Ring.offer (r : Ring) (p : Port) : Option RingSlot := r.run.find? fun x => x.state = .held && x.port = p

/-- R88: the taking of an offered slot's frame makes it DONE. -/
def State.ringTaken (s : State) (oid index : Nat) : State :=
  s.setRun (s.ring.run.map fun x =>
    if x.state = .held ∧ x.oid = oid ∧ x.index = index then { x with state := .done } else x)

/-! ## The write slots -/

/-- A write slot takes a content. -/
def State.setWslot (s : State) (i : Fin 8) (w : WriteSlot) : State := { s with wslots := s.wslots.set i w }

/-- R92: the slots an order holds. -/
def State.slotsHeld (s : State) (oid : Nat) : Nat :=
  s.wslots.toList.countP fun w => w.state ≠ .free && w.oid = oid

/-- R93: the order wants a slot: it holds fewer than 4 and has a sector index for which none has been requested. Its slots
serve the lowest indices not yet WRITTEN with no gap (R92), so the next index is done + held. -/
def State.wantsSlot (s : State) (o : Order) : Bool :=
  o.live && s.slotsHeld o.oid < 4 && o.done + s.slotsHeld o.oid < o.count

/-- R93: a slot given to an order goes REQUESTED for its next index, and its port queues the DATA REQUEST. -/
def State.giveSlot (s : State) (i : Fin 8) (p : Port) (o : Order) : State :=
  let idx := o.done + s.slotsHeld o.oid
  let w : WriteSlot :=
    { state := .requested, port := p, tag := o.tag, oid := o.oid, index := idx, since := s.clock, data := [] }
  (s.setWslot i w).modPort p fun c => { c with dataReqs := c.dataReqs ++ [.dataRequest o.oid o.tag idx] }

/-- R93, R95: a freed slot goes to the first order on the wait list, which joins again at the end if it still wants one; with
the list empty it goes FREE. -/
def State.freeSlot (s : State) (i : Fin 8) : State :=
  let s1 := s.setWslot i WriteSlot.free
  match s1.waitList with
  | [] => s1
  | oid :: rest =>
    match s1.findOrder oid with
    | none => { s1 with waitList := rest }
    | some (p, o) =>
      let s2 := { s1 with waitList := rest }.giveSlot i p o
      if s2.wantsSlot o then { s2 with waitList := s2.waitList ++ [oid] } else s2

/-- R93, R97: the REQUESTED and FULL slots of the orders are freed one at a time in rising slot number. -/
def State.freeSlots (s : State) (oids : List Nat) : State :=
  ([0, 1, 2, 3, 4, 5, 6, 7] : List (Fin 8)).foldl
    (fun s i =>
      if ((s.wslots.get i).state = .requested ∨ (s.wslots.get i).state = .full) ∧ (s.wslots.get i).oid ∈ oids then s.freeSlot i
      else s)
    s

/-- The write slot that holds a sector index of an order. -/
def State.slotOf (s : State) (oid index : Nat) : Option (Fin 8) :=
  ([0, 1, 2, 3, 4, 5, 6, 7] : List (Fin 8)).find? fun i =>
    (s.wslots.get i).state ≠ .free && (s.wslots.get i).oid = oid && (s.wslots.get i).index = index

/-- R75: the order's slot for a sector index is FULL. -/
def State.slotFull (s : State) (oid index : Nat) : Bool :=
  match s.slotOf oid index with
  | some i => (s.wslots.get i).state = .full
  | none => false

def State.setSlotState (s : State) (oid index : Nat) (st : WriteState) : State :=
  match s.slotOf oid index with
  | some i => s.setWslot i { s.wslots.get i with state := st }
  | none => s

/-- R97: the orders leave the wait list. -/
def State.leaveWaitList (s : State) (oids : List Nat) : State :=
  { s with waitList := s.waitList.filter fun o => o ∉ oids }

/-- R97: the DATA REQUEST frames of the orders still queued are removed; one in transmission is carried to its end. -/
def State.dropRequests (s : State) (oids : List Nat) : State :=
  { s with ports := s.ports.map fun c =>
      { c with dataReqs := c.dataReqs.filter fun f => match f with
        | .dataRequest oid _ _ => oid ∉ oids
        | _ => true } }

end Sys2Proof.Machine
end

