-- ==== Sys2Proof/Machine/DataPath.lean ====
section
/-! DEFINITION. The data path (R74 to R82): taking and giving back the places of a transfer, grants, continuations, release
and cut-off. -/

namespace Sys2Proof.Machine

/-- R69, R70, R74: the frame a writing operation lays down for its sector: the data of its source under the header of its
track, the LOST flag set for a place the track buffer marks LOST. -/
def State.frameFor (s : State) (d : DriveId) (op : Op) : Option Frame :=
  if op.pass ≠ .write then none
  else
    match op.kind with
    | .write =>
      let data := match s.slotOf op.oid op.index with
        | some i => (s.wslots.get i).data
        | none => []
      some (.framed true (op.expected d false) (.good (.bytes data)))
    | .mapWrite =>
      match op.record with
      | some r => some (.framed true (op.expected d false) (.good (.record op.sector r [])))
      | none => none
    | .surface =>
      some (.framed true (op.expected d false) (.good (.pattern d.val op.phys.cyl op.phys.head op.sector)))
    | .reassign =>
      match s.reassign.buffer[op.sector]? with
      | some (.good p) => some (.framed true (op.expected d false) (.good p))
      | _ => some (.framed true (op.expected d true) (.good zeroData))
    | .read | .verify | .seek | .recalibrate | .mapLoad => none

/-- R71: the write of a sector is cut off: the elements laid down so far stay, and the rest of the sector is FILL. Where in the
frame the cut falls is a free value of its own for every cut (log 6). -/
def State.tear (s : State) (d : DriveId) (t : Track) (sector : Nat) (f : Frame) : State :=
  { s.layDown d t sector (tornFrame (Config.headerLaid s.cuts) f) with cuts := s.cuts + 1 }

/-- R74, R85, R95: the place of a transfer is taken: a host READ takes the slot at the fill pointer, a host WRITE its slot. -/
def State.takePlace (s : State) (op : Op) : State :=
  match op.kind with
  | .read => s.ringTake op
  | .write => s.setSlotState op.oid op.index .writing
  | .verify | .seek | .surface | .recalibrate | .mapLoad | .mapWrite | .reassign => s

/-- R74, R85: the place of a transfer that did not take place, or was cut off, is given back. -/
def State.giveBack (s : State) (op : Op) : State :=
  match op.kind with
  | .read => s.ringBack
  | .write => s.setSlotState op.oid op.index .full
  | .verify | .seek | .surface | .recalibrate | .mapLoad | .mapWrite | .reassign => s

/-- R79: the holder gives up the path: free, burst count 0, the last grantee kept. -/
def State.release (s : State) : State :=
  { s with path := { s.path with holder := none, burst := 0, xfer := none } }

/-- R77: a grant: the holder and the last grantee become the drive, the burst count 1, and its place is taken (R74). -/
def State.grant (s : State) (d : DriveId) (op : Op) : State :=
  let s1 := (s.modDrive d fun x => { x with request := false }).takePlace op
  let x : Xfer :=
    { sector := op.sector, begun := false, chained := false, cont := false, early := none, frame := s1.frameFor d op }
  { s1 with path := { holder := some d, last := d, burst := 1, xfer := some x } }

/-- R74, R75: the place a drive must find ready before it may ask: the fill slot EMPTY for a host READ, the sector's slot FULL
for a host WRITE. -/
def State.placeReady (s : State) (op : Op) (index : Nat) : Bool :=
  match op.kind with
  | .read => !s.ring.full
  | .write => s.slotFull op.oid index
  | .verify | .seek | .surface | .recalibrate | .mapLoad | .mapWrite | .reassign => true

/-- R75, R83: the miss a place not ready is counted as. -/
def State.countMiss (s : State) (d : DriveId) (op : Op) : State :=
  match op.kind with
  | .read => s.tallyDrive d DriveTallies.raiseRingMisses
  | .write => s.tallyDrive d DriveTallies.raiseSlotMisses
  | .verify | .seek | .surface | .recalibrate | .mapLoad | .mapWrite | .reassign => s

/-- R75: the drive considers a request at the start of the sector before its wanted sector. -/
def State.consider (s : State) (d : DriveId) (op : Op) : State :=
  if (s.drive d).chan.onCylinder then
    if s.placeReady op op.index then s.modDrive d fun x => { x with request := true } else s.countMiss d op
  else s

/-- R78, R79: the next wanted sector, should this one end GOOD, is the next sector of the same track: the pass goes on there,
the operation has not ended, and a ladder has not left the arm off the centre. With the arm at the centre an attempt may
be continued, where R111 step 5 speaks of a request: the model's choice (log 39). -/
def Op.nextFollows (op : Op) (sectors armPos : Nat) : Bool :=
  !op.ended && (op.ladder.isNone || armPos = centre op.phys.cyl) &&
    match op.kind with
    | .read | .write | .verify => op.index + 1 < op.count && op.sector + 1 < sectors
    | .surface | .reassign => op.sector + 1 < sectors
    | .mapLoad | .mapWrite => op.sector + 1 < 3
    | .seek | .recalibrate => false

/-- R78: the continuation considered at the start of a transfer, with the miss it counts. The burst limit is read from the
motion profile entry; at the limit nothing is counted (log 12). -/
def State.planContinuation (s : State) (d : DriveId) (op : Op) : State × Bool :=
  let x := s.drive d
  if op.nextFollows x.sectors x.chan.pos && x.chan.onCylinder && s.path.burst < x.profile.burst then
    if s.placeReady op (op.index + 1) then (s, true) else (s.countMiss d op, false)
  else (s, false)

/-- R78, R85, R95: a transfer begins with its sector; a continuation takes its place and raises the burst count here. -/
def State.beginTransfer (s : State) (d : DriveId) (op : Op) (x : Xfer) : State :=
  let s1 := if x.chained then
      { s.takePlace op with path := { s.path with burst := s.path.burst + 1 } }
    else s
  let frame := if x.chained then s1.frameFor d op else x.frame
  let plan := s1.planContinuation d op
  { plan.1 with path := { plan.1.path with
      xfer := some { x with begun := true, chained := false, cont := plan.2, early := none, frame := frame } } }

/-- R71, R80: a transfer is cut off at once: a write under way leaves its sector TORN; the place is given back and the path
released. A write slot is left FULL for the ending that follows to free. -/
def State.cutOff (s : State) (d : DriveId) : State :=
  if s.path.holder = some d then
    match (s.drive d).cur, s.path.xfer with
    | some op, some x =>
      let s1 := match x.frame with
        | some f => if x.begun then s.tear d op.phys x.sector f else s
        | none => s
      (if x.chained then s1 else s1.giveBack op).release
    | _, _ => s.release
  else s

/-- R79: the wanted sector of a grant or continuation did not come: the place is given back and the path given up. -/
def State.abandonGrant (s : State) (op : Op) (x : Xfer) : State :=
  (if x.chained then s else s.giveBack op).release

/-- R77: the first requesting drive after the last grantee in address order, round from 7 to 0. -/
def State.nextGrantee (s : State) : Option DriveId :=
  (allDrives.map fun i => s.path.last + 1 + i).find? fun d => (s.drive d).request

end Sys2Proof.Machine
end

