-- ==== Sys2Proof/Machine/Sparing.lean ====
section
/-! DEFINITION. The sparing unit's map and pool (R48 to R52), the map state (R57), and the map record (R59, R63). -/

namespace Sys2Proof.Machine

/-! ## Pool and spare map of a drive -/

/-- R48: allocation takes the lowest-numbered FREE position. -/
def lowestFree (pool : List PoolState) : Option Nat := pool.findIdx? fun p => p = .free

/-- R50: the lowest empty slot of a spare map. -/
def lowestSlot (spare : List SpareEntry) : Option Nat := (List.range 128).find? fun n => spare.all fun e => e.slot ≠ n

/-- Puts an entry in its slot, keeping the slots strictly rising. -/
def putEntry (spare : List SpareEntry) (e : SpareEntry) : List SpareEntry :=
  match spare with
  | [] => [e]
  | f :: rest => if e.slot < f.slot then e :: f :: rest else if e.slot = f.slot then e :: rest else f :: putEntry rest e

/-- R51: the entry of a home track. -/
def Drive.entryFor (x : Drive) (home : Track) : Option SpareEntry := x.spare.find? fun e => e.home = home

/-- R51: changes the entry of a home track. -/
def Drive.modEntry (x : Drive) (home : Track) (f : SpareEntry → SpareEntry) : Drive :=
  { x with spare := x.spare.map fun e => if e.home = home then f e else e }

def Drive.dropEntry (x : Drive) (home : Track) : Drive := { x with spare := x.spare.filter fun e => e.home ≠ home }

/-- R48: sets the pool state of an alternate track. -/
def Drive.markTrack (x : Drive) (t : Track) (st : PoolState) : Drive :=
  match x.geom with
  | none => x
  | some g => { x with pool := x.pool.set (g.trackPos t) st }

/-- R134, R52: a position still IN USE becomes FREE; one gone DEAD stays DEAD. -/
def Drive.releaseTrack (x : Drive) (t : Track) : Drive :=
  match x.geom with
  | none => x
  | some g => if x.pool[g.trackPos t]? = some .inUse then { x with pool := x.pool.set (g.trackPos t) .free } else x

/-- The track of a pool position. -/
def Drive.posTrack (x : Drive) (p : Nat) : Track := (x.geom.map fun g => g.posTrack p).getD ⟨0, 0⟩

/-- A new entry for a home track in the lowest empty slot (R50). -/
def Drive.addEntry (x : Drive) (home alt : Track) (pending : Bool) (origin : Origin) : Drive :=
  match lowestSlot x.spare with
  | none => x
  | some n =>
    let e : SpareEntry := { slot := n, home := home, alt := alt, pending := pending, origin := origin, replacement := none }
    { x with spare := putEntry x.spare e }

/-- R51, R128: the start of a reassignment with the position just found FREE: the position goes IN USE and is named in the
same step, by a new PENDING entry or as the pending replacement of the entry the home track has. -/
def Drive.beginSparing (x : Drive) (home : Track) (pos : Nat) : Drive :=
  let t := x.posTrack pos
  let y := x.markTrack t .inUse
  match x.entryFor home with
  | none => y.addEntry home t true .auto
  | some _ => y.modEntry home fun e => { e with pending := true, replacement := some t }

/-- R130: the alternate under trial of a home track's PENDING entry. -/
def Drive.underTrial (x : Drive) (home : Track) : Option Track :=
  (x.entryFor home).map fun e => e.replacement.getD e.alt

/-- R51, R131: a failed read-back: the position under trial goes DEAD. -/
def Drive.killTrial (x : Drive) (home : Track) : Drive :=
  match x.underTrial home with
  | none => x
  | some t => x.markTrack t .dead

/-- R131: the position that takes the place of the dead one, as the alternate of a new entry or as the replacement. -/
def Drive.nextTrial (x : Drive) (home : Track) (pos : Nat) : Drive :=
  let t := x.posTrack pos
  (x.markTrack t .inUse).modEntry home fun e =>
    if e.replacement.isSome then { e with replacement := some t } else { e with alt := t }

/-- R51, R133: reassignment success. -/
def Drive.sparingDone (x : Drive) (home : Track) (origin : Origin) : Drive :=
  match x.entryFor home with
  | none => x
  | some e =>
    match e.replacement with
    | none => x.modEntry home fun e => { e with pending := false, origin := origin }
    | some t =>
      (x.markTrack e.alt .dead).modEntry home fun e =>
        { e with pending := false, origin := origin, alt := t, replacement := none }

/-- R51, R52, R134: failure or abort: a new entry is removed and its alternate freed; a re-sparing reverts to its old
alternate and its replacement is freed; DEAD positions stay DEAD. -/
def Drive.sparingUndone (x : Drive) (home : Track) : Drive :=
  match x.entryFor home with
  | none => x
  | some e =>
    if e.pending then
      match e.replacement with
      | none => (x.releaseTrack e.alt).dropEntry home
      | some t => (x.releaseTrack t).modEntry home fun e => { e with pending := false, replacement := none }
    else x

/-- R58, R64, R47: the map emptied, every pool position FREE but the map track, the map state CLEAN. -/
def Drive.emptyMap (x : Drive) : Drive := { x with spare := [], pool := x.freshPool, mapState := .clean }

/-- R57: a change to the map or the pool makes the map DIRTY; in READY a MAP WRITE is queued unless one is pending. -/
def Drive.mapChanged (x : Drive) : Drive :=
  { x with mapState := .dirty, pendWrite := x.pendWrite || x.state = .ready }

def State.mapChanged (s : State) (d : DriveId) : State := s.modDrive d Drive.mapChanged

/-! ## The map record -/

/-- The number of DEAD positions of a pool. -/
def deadCount (pool : List PoolState) : Nat := pool.countP fun p => p = .dead

/-- R59: the record composed from the held map and pool; PENDING entries are not carried. -/
def composeRecord (g : Geometry) (x : Drive) : MapRecord :=
  let es := (x.spare.filter fun e => !e.pending).map fun e => { home := e.home, alt := e.alt, origin := e.origin : RecordEntry }
  { type := g.type, c := g.c, h := g.h, s := g.s, a := g.a, entryCount := es.length, deadCount := deadCount x.pool,
    pool := x.pool, entries := es, sumOk := true }

/-- R63 check 3: MAP at the map track's position and at no other. -/
def poolNamesMap (g : Geometry) (pool : List PoolState) : Bool :=
  pool.length = g.poolSize &&
    (List.range g.poolSize).all fun p => decide (pool[p]? = some .map) == decide (p = g.mapPos)

/-- R63 check 5: an entry names a user track as home and a pool position other than the map track as alternate. -/
def entryInPlace (g : Geometry) (e : RecordEntry) : Bool := g.isUser e.home && g.isPool e.alt && e.alt ≠ g.mapTrack

/-- R63 check 7: every alternate named is IN USE and every IN USE position is named by an entry. -/
def namesInUse (g : Geometry) (r : MapRecord) : Bool :=
  (r.entries.all fun e => r.pool[g.trackPos e.alt]? = some .inUse) &&
    (List.range g.poolSize).all fun p =>
      !(r.pool[p]? = some .inUse) || r.entries.any fun e => g.trackPos e.alt = p

/-- R63: the checks a record read GOOD must pass. A record whose number of entries is not its entry count is refused with check 4:
the model's choice (log 35). -/
def recordAcceptable (g : Geometry) (r : MapRecord) : Bool :=
  r.sumOk &&
  (r.type = g.type && r.c = g.c && r.h = g.h && r.s = g.s && r.a = g.a) &&
  poolNamesMap g r.pool &&
  (r.entryCount ≤ g.poolSize - 1 && r.entries.length = r.entryCount && r.deadCount = deadCount r.pool) &&
  (r.entries.all fun e => entryInPlace g e) &&
  decide ((r.entries.map RecordEntry.home).Nodup ∧ (r.entries.map RecordEntry.alt).Nodup) &&
  namesInUse g r

/-- The record whose three parts the sectors carry, in order, whatever filler follows it. -/
def wholeRecord (got : List Payload) : Option MapRecord :=
  match got with
  | [.record 0 r0 _, .record 1 r1 _, .record 2 r2 _] => if r0 = r1 ∧ r1 = r2 ∧ r0.storable ∧ r0.sumOk then some r0 else none
  | _ => none

/-- R59, R63 check 1: the record with a matching sum that the bytes of the three sectors begin with, whatever filler follows it.
Sectors that carry the three parts of one record hold that record (log 9). -/
def assembleRecord (got : List Payload) : Option MapRecord :=
  match wholeRecord got with
  | some r => some r
  | none => recordOf (got.flatMap payloadBytes)

/-- R63: acceptance: the recorded entries in slots 0 upward, ASSIGNED with their origins, the recorded pool, CLEAN. -/
def Drive.loadRecord (x : Drive) (r : MapRecord) : Drive :=
  { x with
    spare := r.entries.zipIdx.map fun e =>
      { slot := e.2, home := e.1.home, alt := e.1.alt, pending := false, origin := e.1.origin, replacement := none },
    pool := r.pool, mapState := .clean }

end Sys2Proof.Machine
end

