-- ==== Sys2Proof/Machine/Watch.lean ====
section
/-! DEFINITION. The watch list (R120 to R125): reports, candidacy, expiry, eviction. -/

namespace Sys2Proof.Machine

/-- The watch slot that holds the entry of a home track of a drive. -/
def findWatch (w : List WatchSlot) (d : DriveId) (home : Track) : Option Nat :=
  w.findIdx? fun x => match x with
    | .entry e => e.drive = d ∧ e.home = home
    | .empty | .reserved => false

/-- The entry in a watch slot. -/
def watchEntry (w : List WatchSlot) (i : Nat) : Option WatchEntry :=
  match w[i]? with
  | some (.entry e) => some e
  | _ => none

/-- R120: the lowest empty slot. -/
def lowestWatch (w : List WatchSlot) : Option Nat := w.findIdx? fun x => x = .empty

/-- R124: the COUNTING entry with the earliest window start, the lower slot between equals, as (window start, slot). -/
def earliestCounting (w : List WatchSlot) : Option (Nat × Nat) :=
  w.zipIdx.foldl
    (fun best x => match x.1 with
      | .entry e =>
        if e.state = .counting then
          match best with
          | none => some (e.windowStart, x.2)
          | some b => if e.windowStart < b.1 then some (e.windowStart, x.2) else some b
        else best
      | .empty | .reserved => best)
    none

/-- R120, R124: the slot a new entry takes: the lowest empty one, else that of the COUNTING entry evicted. -/
def slotForNew (w : List WatchSlot) : Option Nat :=
  match lowestWatch w with
  | some i => some i
  | none => (earliestCounting w).map Prod.snd

/-- R125: an entry becomes CANDIDATE. -/
def WatchEntry.becomeCandidate (e : WatchEntry) (cause : Cause) (now : Nat) : WatchEntry :=
  { e with state := .candidate, cause := some cause, candTime := some now }

/-- A new COUNTING entry (R121). -/
def WatchEntry.fresh (d : DriveId) (home : Track) (now : Nat) : WatchEntry :=
  { drive := d, home := home, count := 1, windowStart := now, candTime := none, cause := none, state := .counting }

/-- A watch slot takes a content. -/
def State.setSlot (s : State) (i : Nat) (w : WatchSlot) : State := { s with watch := s.watch.set i w }

def State.setWatch (s : State) (i : Nat) (e : WatchEntry) : State := s.setSlot i (.entry e)

/-- R125: an entry that becomes CANDIDATE sets the CANDIDATE notice for its drive. -/
def State.candidate (s : State) (i : Nat) (e : WatchEntry) (cause : Cause) : State :=
  (s.setWatch i (e.becomeCandidate cause s.stringTime)).setNotice e.drive noticeCandidate

/-- R124: a report that finds no slot and nothing to evict. -/
def State.overflowWatch (s : State) : State := { s with watchOverflows := bump s.watchOverflows }

/-- R126, R136: the reassignment in flight is that of the home track. -/
def State.heldFor (s : State) (d : DriveId) (home : Track) : Bool :=
  s.reassign.state = .copying && s.reassign.held.any fun e => e.drive = d ∧ e.home = home

/-- R121: a recovered-sector report. One of a track the reassignment engine holds cannot arise, and none is acted on (log 44). -/
def State.recoveredReport (s : State) (d : DriveId) (home : Track) : State :=
  let threshold := (s.drive d).policy.threshold
  if s.heldFor d home then s else
  match findWatch s.watch d home with
  | none =>
    match slotForNew s.watch with
    | none => s.overflowWatch
    | some i =>
      let e := WatchEntry.fresh d home s.stringTime
      if threshold ≤ 1 then s.candidate i e .recovered else s.setWatch i e
  | some i =>
    match watchEntry s.watch i with
    | none => s
    | some e =>
      let e' := { e with count := min (e.count + 1) 15 }
      if e.state = .counting ∧ threshold ≤ e'.count then s.candidate i e' .recovered else s.setWatch i e'

/-- R122: an unrecovered-sector report, with the same exception (log 44). -/
def State.unrecoveredReport (s : State) (d : DriveId) (home : Track) : State :=
  if s.heldFor d home then s else
  match findWatch s.watch d home with
  | none =>
    match slotForNew s.watch with
    | none => s.overflowWatch
    | some i => s.candidate i (WatchEntry.fresh d home s.stringTime) .unrecovered
  | some i =>
    match watchEntry s.watch i with
    | none => s
    | some e =>
      match e.state with
      | .counting => s.candidate i e .unrecovered
      | .candidate => if e.cause = some .recovered then s.setWatch i { e with cause := some .unrecovered } else s
      | .stuck => s

/-- R144: a shortfall of the verification acts on the watch entry of its home track, with the same exception (log 44). -/
def State.shortfallReport (s : State) (d : DriveId) (home : Track) : State :=
  if s.heldFor d home then s else
  match findWatch s.watch d home with
  | none =>
    match slotForNew s.watch with
    | none => s.overflowWatch
    | some i => s.candidate i (WatchEntry.fresh d home s.stringTime) .verify
  | some i =>
    match watchEntry s.watch i with
    | none => s
    | some e => if e.state = .counting then s.candidate i e .verify else s

/-- R143: the watch entry of a home track just spared is removed. -/
def State.forgetWatch (s : State) (d : DriveId) (home : Track) : State :=
  match findWatch s.watch d home with
  | none => s
  | some i => s.setSlot i .empty

/-- R47: every watch entry of a drive is removed. -/
def State.forgetDrive (s : State) (d : DriveId) : State :=
  { s with watch := s.watch.map fun x => match x with
      | .entry e => if e.drive = d then .empty else x
      | .empty | .reserved => x }

/-- R123: a COUNTING entry's window has passed, with W read from its drive's policy. -/
def State.windowPassed (s : State) (e : WatchEntry) : Bool :=
  e.state = .counting && e.windowStart + (s.drive e.drive).policy.window * 1000 ≤ s.stringTime

/-- R123: the expiry of the COUNTING entry in a slot. -/
def State.expireWatch (s : State) (i : Nat) : State :=
  match watchEntry s.watch i with
  | none => s
  | some e => if s.windowPassed e then s.setSlot i .empty else s

/-- R123: at a PUT of the policy every COUNTING entry whose window has passed expires. -/
def State.expireAll (s : State) : State :=
  { s with watch := s.watch.map fun x => match x with
      | .entry e => if s.windowPassed e then .empty else x
      | .empty | .reserved => x }

end Sys2Proof.Machine
end

