-- ==== Sys2Proof/Machine/Drives.lean ====
section
/-! DEFINITION. The end of operations and orders, the abort of a reassignment, and the entries to the drive states (R8 to R20,
R52, R91, R97, R117, R118, R135). -/

namespace Sys2Proof.Machine

/-! ## The end of an operation -/

/-- A two-byte field, high byte first (9.10). -/
def half (n : Nat) : List Byte := [BitVec.ofNat 8 (n / 256), BitVec.ofNat 8 n]

/-- R146, 9.10: the ending body of a SURFACE VERIFY. -/
def VerifyEngine.body (v : VerifyEngine) : List Byte := half v.verified ++ half v.spared ++ half v.failed ++ half v.dead

/-- R146: the engine without the failures of a track that has not been dealt with whole (log 25). -/
def VerifyEngine.wholeTracks (v : VerifyEngine) : VerifyEngine := { v with failed := v.failedBefore }

/-- R139, R146: when the drive operation of a SURFACE VERIFY ends, its order takes the four counts and the tracks verified, and
the engine becomes FREE. Its other items go to their initial values here: the model's choice (log 41). -/
def State.closeVerify (s : State) (oid : Nat) : State :=
  let s1 := s.modOrder oid fun o => { o with body := s.verify.wholeTracks.body, done := s.verify.verified }
  { s1 with verify := VerifyEngine.initial }

/-- The drive's operation ends: no operation is current, its request is withdrawn uncounted (R76). -/
def State.clearOp (s : State) (d : DriveId) : State :=
  let s1 := match (s.drive d).cur with
    | some op => if op.kind = OpKind.surface then s.closeVerify op.oid else s
    | none => s
  s1.modDrive d fun x => { x with cur := none, request := false }

/-- R80, R117: an operation is to end with the transfer granted to it, or at once when it has none. A planned continuation that has
not begun is no granted transfer: the path is released and the operation ends, the model's choice (log 37). -/
def State.windDown (s : State) (d : DriveId) : State :=
  if s.path.holder = some d ∧ s.path.xfer.isSome then
    let s1 := s.modDrive d fun x =>
      { x with cur := x.cur.map fun op => { op with ended := true }, request := false }
    match s1.path.xfer with
    | some x =>
      if x.chained then (s1.release).clearOp d
      else { s1 with path := { s1.path with xfer := some { x with cont := false } } }
    | none => s1
  else s.clearOp d

/-- R117, R118, R147: what the ending of orders does to their operations. A SURFACE VERIFY finishes its track when `soft`. -/
def State.stopOps (s : State) (oids : List Nat) (soft : Bool) : State :=
  allDrives.foldl
    (fun s d =>
      match (s.drive d).cur with
      | some op =>
        if op.kind.hostOrdered ∧ op.oid ∈ oids then
          if op.kind = .surface ∧ soft then s.modOp d fun op => { op with lastTrack := true } else s.windDown d
        else s
      | none => s)
    s

/-- R117: the orders leave their drive queues. -/
def State.leaveQueues (s : State) (oids : List Nat) : State :=
  { s with drives := s.drives.map fun x => { x with queue := x.queue.filter fun o => o ∉ oids } }

/-- R91, R97, R117: orders end together with one result: they leave the wait list and the queues, their HELD slots go DISCARD,
their DATA REQUESTs are dropped, their operations end, and their write slots are freed and pass on. -/
def State.endTogether (s : State) (oids : List Nat) (r : Result) (soft : Bool) : State :=
  let s1 := oids.foldl (fun s oid => s.endOrder oid r) s
  let s2 := ((s1.leaveWaitList oids).leaveQueues oids).ringDiscard oids
  ((s2.dropRequests oids).stopOps oids soft).freeSlots oids

/-! ## Abort of a reassignment (R52, R135) -/

/-- The drive the reassignment engine works for: that of its taken entry. -/
def State.engineDrive (s : State) : Option DriveId :=
  match s.reassign.state with
  | .free => none
  | .taken => (s.reassign.slot.bind fun i => watchEntry s.watch i).map WatchEntry.drive
  | .copying => s.reassign.held.map WatchEntry.drive

/-- The reassignment engine takes a state (R126). -/
def State.setEngine (s : State) (r : ReassignEngine) : State := { s with reassign := r }

/-- R126: the engine goes FREE: nothing taken, the track buffer unused. That alternates tried and seek checks are 0 from here on, and not
only from the next REASSIGN that becomes current (R128), is the model's choice (log 41). -/
def State.engineFree (s : State) : State := s.setEngine ReassignEngine.initial

/-- R135: the engine's part of an abort for drive `d`: a queued REASSIGN is dropped, or the map and pool are restored and the
held entry returns to its reserved slot with its former fields. -/
def State.abortReassign (s : State) (d : DriveId) : State :=
  if s.engineDrive = some d then
    match s.reassign.state, s.reassign.slot, s.reassign.held with
    | .copying, some i, some e =>
      let s1 := s.modDrive d fun x => x.sparingUndone e.home
      (s1.setWatch i e).engineFree
    | _, _, _ => (s.modDrive d fun x => { x with pendReassign := false }).engineFree
  else s

/-! ## Entries to drive states -/

/-- R42: the drive's channel is stopped. -/
def State.stopChannel (s : State) (d : DriveId) : State := s.modChan d Channel.stop

/-- R16 to R19: the drive-state orders of a kind outstanding on the drive end. -/
def State.endStateOrders (s : State) (d : DriveId) (kinds : List OrderKind) (r : Result) : State :=
  s.endOrders d (fun o => o.kind ∈ kinds) r

/-- R10, R58: entry to RECALIBRATING: UNSAVED becomes DIRTY and a RECALIBRATE is placed. -/
def State.enterRecalibrating (s : State) (d : DriveId) : State :=
  (s.setDriveState d .recalibrating).modDrive d fun x =>
    { x with pendRecal := true, mapState := if x.mapState = .unsaved then .dirty else x.mapState }

/-- R11: entry to READY from another state: the mark is set, the notice is set, and the drive-state orders that waited for the
drive to settle end COMPLETE (R17, R19). -/
def State.enterReady (s : State) (d : DriveId) : State :=
  let s1 := (s.setDriveState d .ready).modDrive d fun x => { x with mapHeld := true }
  (s1.setNotice d noticeReady).endStateOrders d [.unfence, .driveReset] .complete

/-- R14: entry to MAP LOST; the held map has been emptied by the refusal (R64). -/
def State.enterMapLost (s : State) (d : DriveId) : State :=
  let s1 := (s.setDriveState d .mapLost).modDrive d fun x => x.emptyMap
  let s2 := (s1.modDrive d fun x => { x with mapHeld := false }).setNotice d noticeMapLost
  s2.endTogether (s2.ordersOf d fun o => o.kind.driveQueued && o.state = .queued || o.kind = .unfence || o.kind = .driveReset)
    .mapUnavailable false

/-- R6, R8, R9, R58: entry to SPINNING UP: the monitor is cleared, the 60 s begin, the map-held mark is cleared and the map
emptied. -/
def State.enterSpinningUp (s : State) (d : DriveId) : State :=
  (s.setDriveState d .spinningUp).modDrive d fun x =>
    { x.emptyMap with lastIndex := none, qual := 0, spinFrom := s.clock, mapHeld := false }

/-- R10: the map step that follows recalibration. -/
def State.mapStep (s : State) (d : DriveId) : State :=
  if (s.drive d).mapState = .dirty then
    (s.setDriveState d .writingMap).modDrive d fun x => { x with pendWrite := true }
  else if (s.drive d).mapHeld then s.enterReady d
  else (s.setDriveState d .loadingMap).modDrive d fun x => { x with pendLoad := true }

/-- R98: the queue is emptied of its internal operations. -/
def Drive.dropInternal (x : Drive) : Drive :=
  { x with pendRecal := false, pendLoad := false, pendWrite := false, pendReassign := false }

/-- R13, R18, R20: the map state a MAP WRITE cut off leaves. -/
def State.cutMapWrite (s : State) (d : DriveId) (st : MapState) : State :=
  match (s.drive d).cur with
  | some op => if op.kind = .mapWrite then s.modDrive d fun x => { x with mapState := st } else s
  | none => s

/-- The serial number of the drive's current operation, in a list. -/
def State.curOids (s : State) (d : DriveId) : List Nat :=
  match (s.drive d).cur with
  | some op => if op.kind.hostOrdered then [op.oid] else []
  | none => []

/-- R13, R18: the part of the two rules that is the same: a transfer is cut off, a reassignment aborted, a MAP WRITE under way
ends with the map state given, the operation and every order of the drive but `keep` end, and internal operations are
dropped. -/
def State.stopDrive (s : State) (d : DriveId) (r : Result) (ms : MapState) (keep : Option Nat) : State :=
  let oids := ((s.ordersOf d fun _ => true) ++ s.curOids d).filter fun n => keep ≠ some n
  let s1 := ((s.cutOff d).cutMapWrite d ms).abortReassign d
  let s2 := (s1.clearOp d).endTogether oids r false
  s2.modDrive d Drive.dropInternal

/-- R13: entry to NOT READY. -/
def State.enterNotReady (s : State) (d : DriveId) : State :=
  let s1 := (s.stopDrive d .notReady .unsaved none).stopChannel d
  (s1.setDriveState d .notReady).setNotice d noticeNotReady

end Sys2Proof.Machine
end

