-- ==== Sys2Proof/Machine/Positioner.lean ====
section
/-! DEFINITION. The arithmetic of one update of a positioner channel (R22 to R34, R39): a pure function of the channel, the
mode multiplier and the home sensor. What the drive sequencer does with the report is Machine/Sequencer.lean. -/

namespace Sys2Proof.Machine

/-- R34, R39: what an update reports to the drive sequencer. -/
inductive Report where
  | none
  | onCylinder
  | homeFound
  | recalFailed
deriving DecidableEq, Repr

/-- R33: the remaining distance R = |T − P|. -/
def Channel.remaining (ch : Channel) : Nat := if ch.pos ≤ ch.target then ch.target - ch.pos else ch.pos - ch.target

/-- R31: the phase and the new velocity V′ an update sets in ACCEL, CRUISE or DECEL. -/
def nextVelocity (au vmaxu cu : Nat) (phase : Phase) (v r : Nat) : Phase × Nat :=
  match phase with
  | .decel => (.decel, max (v - au) cu)
  | .cruise => if r ≤ stopping au v then (.decel, max (v - au) cu) else (.cruise, v)
  | _ =>
    if r ≤ stopping au v then (.decel, max (v - au) cu)
    else (if min (v + au) vmaxu = vmaxu then .cruise else .accel, min (v + au) vmaxu)

/-- R32: P moved by a step in the direction D. -/
def Channel.moved (ch : Channel) (n : Nat) : Nat := if ch.inward then ch.pos + n else ch.pos - n

/-- The step as it stands on the positioner drive lines, inward positive. -/
def signedStep (inward : Bool) (n : Nat) : Int := if inward then (n : Int) else -(n : Int)

/-- R33: the arrival is hard. -/
def hardArrival (au v : Nat) : Bool := 2 * au < v

/-- R31 to R33: one update of a channel in ACCEL, CRUISE or DECEL. -/
def Channel.seekStep (m : Nat) (ch : Channel) : Channel :=
  let pv := nextVelocity (ch.profile.au m) (ch.profile.vmaxu m) (ch.profile.cu m) ch.phase ch.vel ch.remaining
  let n := min pv.2 ch.remaining
  if n < ch.remaining then
    { ch with pos := ch.moved n, vel := pv.2, phase := pv.1, step := signedStep ch.inward n }
  else
    { ch with
      pos := ch.moved n, vel := 0, phase := .settling, step := signedStep ch.inward n,
      settle := if hardArrival (ch.profile.au m) pv.2 then 2 * ch.profile.settleu m else ch.profile.settleu m }

/-- R33: the update of a channel in ACCEL, CRUISE or DECEL is a hard arrival. -/
def Channel.arrivesHard (m : Nat) (ch : Channel) : Bool :=
  let pv := nextVelocity (ch.profile.au m) (ch.profile.vmaxu m) (ch.profile.cu m) ch.phase ch.vel ch.remaining
  ch.remaining ≤ pv.2 && hardArrival (ch.profile.au m) pv.2

/-- R34: one update in SETTLING lowers the settle count; at 0 the channel goes IDLE. -/
def Channel.settleStep (ch : Channel) : Channel :=
  { ch with settle := ch.settle - 1, phase := if ch.settle - 1 = 0 then .idle else .settling }

/-- R39: one update in RECAL raises the count and samples the home sensor. -/
def Channel.recalStep (m : Nat) (home : Bool) (ch : Channel) : Channel :=
  if home then
    { ch with recalCount := ch.recalCount + 1, pos := 0, vel := 0, inward := true, known := true, phase := .idle }
  else if ch.recalLimit ≤ ch.recalCount + 1 then
    { ch with recalCount := ch.recalCount + 1, phase := .stopped, vel := 0, known := false }
  else { ch with recalCount := ch.recalCount + 1, step := signedStep false (ch.profile.cu m) }

/-- R23: the work of one update. -/
def Channel.update (m : Nat) (home : Bool) (ch : Channel) : Channel :=
  match ch.phase with
  | .accel | .cruise | .decel => ch.seekStep m
  | .settling => ch.settleStep
  | .recal => ch.recalStep m home
  | .idle | .stopped => ch

/-- R34, R39: the report of one update. -/
def Channel.updateReport (home : Bool) (ch : Channel) : Report :=
  match ch.phase with
  | .settling => if ch.settle - 1 = 0 then .onCylinder else .none
  | .recal => if home then .homeFound else if ch.recalLimit ≤ ch.recalCount + 1 then .recalFailed else .none
  | .accel | .cruise | .decel | .idle | .stopped => .none

/-- R33: the update raises HARD ARRIVALS. -/
def Channel.updateHard (m : Nat) (ch : Channel) : Bool :=
  match ch.phase with
  | .accel | .cruise | .decel => ch.arrivesHard m
  | .settling | .recal | .idle | .stopped => false

end Sys2Proof.Machine
end

