-- ==== Sys2Proof/Machine/Motion.lean ====
section
/-! DEFINITION. The requests a drive sequencer makes of its positioner channel (R29, R38, R105) and the first steps they lead
to. -/

namespace Sys2Proof.Machine

def State.setOp (s : State) (d : DriveId) (op : Op) : State := s.modDrive d fun x => { x with cur := some op }

/-- An internal operation at its start (R55): it names its physical track. -/
def Op.internal (kind : OpKind) (home phys : Track) (header : HeaderKind) (pass : Pass) : Op :=
  { kind := kind, oid := 0, port := 0, tag := 0, count := 0, home := home, phys := phys, header := header, sector := 0,
    index := 0, stage := .transfer, ladder := none, checked := false, recovered := false, laddered := false, pass := pass,
    attempt := 1, record := none, got := [], ended := false, lastTrack := false }

/-- The operation goes on to another sector of its track, in a pass: a fresh first attempt. -/
def Op.wants (op : Op) (sector : Nat) (pass : Pass) : Op :=
  { op with sector := sector, pass := pass, stage := .transfer, ladder := none, checked := false }

/-- R105 step 5: on cylinder, the head is selected and the wanted sector named; a SEEK ends COMPLETE there (R109). -/
def State.reachTransfer (s : State) (d : DriveId) : State :=
  match (s.drive d).cur with
  | none => s
  | some op =>
    let s1 := s.modDrive d fun x => { x with headSel := op.phys.head, cur := some { op with stage := .transfer } }
    if op.kind = OpKind.seek then (s1.clearOp d).endOrder op.oid .complete else s1

/-- R38, R105: a recalibration asked for within an operation, or by a RECALIBRATE (`next` absent). The first request waits
while a motion left running is in flight. -/
def State.recalFor (s : State) (d : DriveId) (next : Option Nat) : State :=
  if (s.drive d).chan.phase.inFlight then s.modOp d fun op => { op with stage := .waiting (.recal next) }
  else
    match (s.drive d).geom with
    | none => s
    | some g =>
      (s.modChan d fun ch => ch.startRecal s.m g).modOp d fun op => { op with stage := .moving (.recal next) }

/-- R22, R29: a target is a fine position of the drive, 0 to (C−1) × 64; no request of the manual names one beyond it (log 44). -/
def Drive.targetIn (x : Drive) (target : Nat) : Nat := (x.geom.map fun g => min target g.maxPos).getD target

/-- R29, R45: a seek of non-zero length starts: SEEKS is raised. -/
def State.beginSeek (s : State) (d : DriveId) (target : Nat) (goal : Goal) : State :=
  let s1 := (s.modDrive d fun x => { x with chan := x.chan.startSeek (x.targetIn target) }).tallyDrive d DriveTallies.raiseSeeks
  s1.modOp d fun op => { op with stage := .moving (.seek target goal) }

/-- R29: the operation asks for a seek to the target, to transfer there. A seek of length 0 reports at once; a position not
known leads to a recalibration first (R105 step 4); a motion left running makes the request wait. -/
def State.seekTo (s : State) (d : DriveId) (target : Nat) : State :=
  let ch := (s.drive d).chan
  if ch.phase.inFlight then s.modOp d fun op => { op with stage := .waiting (.seek target .transfer) }
  else if ch.onCylinder then
    if ch.pos = target then (s.modChan d fun ch => { ch with target := target }).reachTransfer d
    else s.beginSeek d target .transfer
  else s.recalFor d (some target)

/-- R54: the move to the operation's next track: by head select on the cylinder the arm stands on, by a seek otherwise. -/
def State.moveToTrack (s : State) (d : DriveId) (fromCyl : Nat) (op : Op) : State :=
  let s1 := s.setOp d op
  if op.phys.cyl = fromCyl then s1.reachTransfer d else s1.seekTo d (centre op.phys.cyl)

end Sys2Proof.Machine
end

