-- ==== Sys2Proof/Machine/MapOps.lean ====
section
/-! DEFINITION. MAP WRITE (R60, R61, R66) and MAP LOAD (R62 to R64). -/

namespace Sys2Proof.Machine

/-- R65: the COMMIT MAP orders that wait now are bound to the MAP WRITE that starts. -/
def State.bindCommits (s : State) (d : DriveId) : State :=
  (s.ordersOf d fun o => o.kind = .commitMap).foldl (fun s oid => s.modOrder oid fun o => { o with bound := true }) s

/-- R60 steps 1 and 2: the record is composed, the map state becomes WRITING, and the arm is sent to the map track. -/
def State.startMapWrite (s : State) (d : DriveId) : State :=
  match (s.drive d).geom with
  | none => s
  | some g =>
    let op : Op := { Op.internal .mapWrite g.mapTrack g.mapTrack .map .write with
                     record := some (composeRecord g (s.drive d)) }
    let s1 := (s.bindCommits d).modDrive d fun x => { x with mapState := .writing, cur := some op }
    s1.seekTo d (centre g.mapTrack.cyl)

/-- R60 step 6: the map state a MAP WRITE leaves; one made DIRTY by a change during the write stays DIRTY. -/
def MapState.afterWrite (ok : Bool) : MapState → MapState
  | .writing => if ok then .clean else .unsaved
  | .clean => .clean
  | .dirty => .dirty
  | .unsaved => .unsaved

/-- R60 step 6, R66: the end of a MAP WRITE. A COMMIT MAP whose MAP WRITE ends in a drive that an earlier one has taken READY ends by
the same results, and the drive stays READY: the model's choice (log 34). -/
def State.endMapWrite (s : State) (d : DriveId) (ok : Bool) : State :=
  let s1 := (s.clearOp d).modDrive d fun x => { x with mapState := x.mapState.afterWrite ok }
  let s2 := if ok then s1 else s1.setNotice d noticeMapLost
  let s3 := s2.endOrders d (fun o => o.kind = .commitMap && o.bound) (if ok then .complete else .dataCheck)
  if (s3.drive d).state = .writingMap ∨ ((s3.drive d).state = .mapLost ∧ ok) then s3.enterReady d else s3

/-- R60 steps 3 and 4: the next sector of the record, then the read-back. -/
def State.mapSectorWritten (s : State) (d : DriveId) (op : Op) : State :=
  if op.sector + 1 < 3 then s.setOp d (op.wants (op.sector + 1) .write) else s.setOp d (op.wants 0 .readBack)

/-- R60 step 5: a failed read-back leads to one more writing of the whole record, or ends the operation. -/
def State.mapReadBackFailed (s : State) (d : DriveId) (op : Op) (cylinderWrong : Bool) : State :=
  let s1 := if cylinderWrong then s.tallyDrive d DriveTallies.raiseSeekChecks else s
  if op.attempt < 2 then
    let s2 := s1.setOp d { op.wants 0 .write with attempt := op.attempt + 1 }
    if cylinderWrong then s2.recalFor d (some (centre op.phys.cyl)) else s2
  else s1.endMapWrite d false

/-- R60 step 4: the read-back of a sector of the record: GOOD with the data written. -/
def State.mapReadBack (s : State) (d : DriveId) (op : Op) (out : ReadOutcome) : State :=
  match out with
  | .good p =>
    if op.record.any fun r => sameData (.record op.sector r []) p then
      if op.sector + 1 < 3 then s.setOp d (op.wants (op.sector + 1) .readBack) else s.endMapWrite d true
    else s.mapReadBackFailed d op false
  | .mismatch cyl => s.mapReadBackFailed d op cyl
  | .incomplete | .lost | .dataCheck => s.mapReadBackFailed d op false

/-- R62 step 1. -/
def State.startMapLoad (s : State) (d : DriveId) : State :=
  match (s.drive d).geom with
  | none => s
  | some g => (s.setOp d (Op.internal .mapLoad g.mapTrack g.mapTrack .map .read)).seekTo d (centre g.mapTrack.cyl)

/-- R64: the record is refused; the map is emptied and the drive goes MAP LOST (R14). -/
def State.refuseMap (s : State) (d : DriveId) : State := (s.clearOp d).enterMapLost d

/-- R62 step 4, R63: all three sectors came GOOD: the record is checked. -/
def State.checkMap (s : State) (d : DriveId) (op : Op) : State :=
  match (s.drive d).geom, assembleRecord op.got with
  | some g, some r =>
    if recordAcceptable g r then ((s.clearOp d).modDrive d fun x => x.loadRecord r).enterReady d else s.refuseMap d
  | _, _ => s.refuseMap d

/-- R62: past a sector of the record that came GOOD. -/
def State.mapLoadAdvance (s : State) (d : DriveId) (op : Op) : State :=
  if op.sector + 1 < 3 then s.setOp d (op.wants (op.sector + 1) .read) else s.checkMap d op

end Sys2Proof.Machine
end

