-- ==== Sys2Proof/Machine/Reassign.lean ====
section
/-! DEFINITION. The reassignment engine (R126 to R134) and the orders that wait on it (R137). -/

namespace Sys2Proof.Machine

/-! ## Taking a candidate (R127) -/

/-- R127: an entry the engine may take. -/
def State.eligible (s : State) (e : WatchEntry) : Bool :=
  e.state = .candidate && (s.drive e.drive).state = .ready && (e.cause = some .ordered || (s.drive e.drive).policy.auto)

/-- R127: the eligible entry with the earliest candidate time, the lower slot between equals, as (candidate time, slot). -/
def State.bestCandidate (s : State) : Option (Nat × Nat) :=
  s.watch.zipIdx.foldl
    (fun best x => match x.1 with
      | .entry e =>
        if s.eligible e then
          match best with
          | none => some (e.candTime.getD 0, x.2)
          | some b => if e.candTime.getD 0 < b.1 then some (e.candTime.getD 0, x.2) else some b
        else best
      | .empty | .reserved => best)
    none

/-- R127: the engine takes a slot: TAKEN, with a REASSIGN placed in the queue of the entry's drive. -/
def State.takeCandidate (s : State) (i : Nat) : State :=
  match watchEntry s.watch i with
  | none => s
  | some e =>
    let r : ReassignEngine := { ReassignEngine.initial with state := .taken, slot := some i }
    (s.setEngine r).modDrive e.drive fun x => { x with pendReassign := true }

/-! ## The start (R128) -/

/-- R137: the REASSIGN TRACK orders that wait on a home track end. -/
def State.endWaiting (s : State) (d : DriveId) (home : Track) (r : Result) : State :=
  s.endOrders d (fun o => o.kind = .reassignTrack && o.start.cyl = home.cyl && o.start.head = home.head) r

/-- R128, R134: the tally and the notice of a failed reassignment. -/
def State.countReassignFailure (s : State) (d : DriveId) : State :=
  (s.tallyDrive d DriveTallies.raiseReassignFailures).setNotice d noticeReassignFailed

/-- R128: no position FREE: the entry becomes STUCK and the operation ends without a seek. -/
def State.reassignStuck (s : State) (d : DriveId) (i : Nat) (e : WatchEntry) : State :=
  let s1 := (s.setWatch i { e with state := .stuck }).countReassignFailure d
  (s1.endWaiting d e.home .noAlternate).engineFree

/-- R128, R129: a position allocated: the map entry goes PENDING, the watch entry is held and its slot reserved, the map
becomes DIRTY, and the first pass begins with the lookup of the home track. -/
def State.reassignBegin (s : State) (d : DriveId) (i : Nat) (e : WatchEntry) (pos : Nat) : State :=
  let s1 := s.modDrive d fun x => (x.beginSparing e.home pos).mapChanged
  let r : ReassignEngine := { ReassignEngine.initial with state := .copying, slot := some i, held := some e, tried := 1 }
  let s2 := (s1.setSlot i .reserved).setEngine r
  let at' := lookupTrack (s2.drive d).spare e.home
  (s2.setOp d (Op.internal .reassign e.home at'.1 at'.2 .read)).seekTo d (centre at'.1.cyl)

/-- R128: the REASSIGN becomes current. -/
def State.startReassign (s : State) (d : DriveId) : State :=
  match s.reassign.state, s.reassign.slot with
  | .taken, some i =>
    match watchEntry s.watch i with
    | none => s.engineFree
    | some e =>
      match lowestFree (s.drive d).pool with
      | none => s.reassignStuck d i e
      | some pos => s.reassignBegin d i e pos
  | _, _ => s

/-! ## The copy (R129 to R131) -/

/-- R129: marks the track buffer's place of a sector. -/
def State.setPlace (s : State) (i : Nat) (p : BufPlace) : State :=
  s.setEngine { s.reassign with buffer := s.reassign.buffer.set i p }

/-- R130: the write pass on the alternate under trial. -/
def State.reassignWrite (s : State) (d : DriveId) (op : Op) : State :=
  match (s.drive d).underTrial op.home with
  | none => s
  | some t =>
    (s.setOp d { op.wants 0 .write with phys := t, header := .alternate op.home.cyl op.home.head }).seekTo d (centre t.cyl)

/-- R129: past a place that has been marked. -/
def State.reassignAdvance (s : State) (d : DriveId) (op : Op) : State :=
  if op.sector + 1 < (s.drive d).sectors then s.setOp d (op.wants (op.sector + 1) .read) else s.reassignWrite d op

/-- R130: past a sector written; after the last the read-back begins. -/
def State.reassignWritten (s : State) (d : DriveId) (op : Op) : State :=
  if op.sector + 1 < (s.drive d).sectors then s.setOp d (op.wants (op.sector + 1) .write) else s.setOp d (op.wants 0 .readBack)

/-- R134: the reassignment fails. -/
def State.reassignFail (s : State) (d : DriveId) : State :=
  match s.reassign.slot, s.reassign.held with
  | some i, some e =>
    let s1 := s.modDrive d fun x => (x.sparingUndone e.home).mapChanged
    let s2 := (s1.setWatch i { e with state := .stuck }).countReassignFailure d
    ((s2.endWaiting d e.home .reassignFailed).engineFree).clearOp d
  | _, _ => s.engineFree.clearOp d

/-- R133: the reassignment succeeds. -/
def State.reassignDone (s : State) (d : DriveId) : State :=
  match s.reassign.slot, s.reassign.held with
  | some i, some e =>
    let origin : Origin := if e.cause = some .ordered then .ordered else .auto
    let s1 := s.modDrive d fun x => (x.sparingDone e.home origin).mapChanged
    let s2 := (s1.setSlot i .empty).tallyDrive d DriveTallies.raiseReassignments
    (((s2.setNotice d noticeReassigned).endWaiting d e.home .complete).engineFree).clearOp d
  | _, _ => s.engineFree.clearOp d

/-- R131: the first sector that fails the read-back: the alternate under trial goes DEAD; the next FREE position takes its place
and the write pass is made again, or the reassignment fails. -/
def State.reassignTrialFailed (s : State) (d : DriveId) (op : Op) : State :=
  let s1 := s.modDrive d fun x => (x.killTrial op.home).mapChanged
  match (if s1.reassign.tried < 3 then lowestFree (s1.drive d).pool else none) with
  | none => s1.reassignFail d
  | some pos =>
    let s2 := s1.modDrive d fun x => x.nextTrial op.home pos
    (s2.setEngine { s2.reassign with tried := s2.reassign.tried + 1 }).reassignWrite d op

/-- R132: a header naming another cylinder in any pass. -/
def State.reassignSeekCheck (s : State) (d : DriveId) (op : Op) : State :=
  let s1 := s.tallyDrive d DriveTallies.raiseSeekChecks
  let s2 := s1.setEngine { s1.reassign with seekChecks := s1.reassign.seekChecks + 1 }
  if s2.reassign.seekChecks < 2 then
    let again := if op.pass = .read then op.wants op.sector .read else op.wants 0 .write
    (s2.setOp d again).recalFor d (some (centre op.phys.cyl))
  else s2.reassignFail d

/-- R131: a sector of the read-back passes its buffer mark. -/
def BufPlace.passes (b : BufPlace) (out : ReadOutcome) : Bool :=
  match b, out with
  | .good p, .good q => sameData p q
  | .lost, .lost => true
  | _, _ => false

/-- R131, R132: the outcome of a read-back. -/
def State.reassignReadBack (s : State) (d : DriveId) (op : Op) (out : ReadOutcome) : State :=
  if out = .mismatch true then s.reassignSeekCheck d op
  else if (s.reassign.buffer.getD op.sector .unused).passes out then
    if op.sector + 1 < (s.drive d).sectors then s.setOp d (op.wants (op.sector + 1) .readBack) else s.reassignDone d
  else s.reassignTrialFailed d op

end Sys2Proof.Machine
end

