-- ==== Sys2Proof/Machine/Verify.lean ====
section
/-! DEFINITION. The verify engine (R139 to R146): destructive and read-only SURFACE VERIFY, track by track. -/

namespace Sys2Proof.Machine

def State.modVerify (s : State) (f : VerifyEngine → VerifyEngine) : State := { s with verify := f s.verify }

/-- The verification under way is destructive. -/
def State.destructive (s : State) : Bool := (s.verify.job.map VerifyJob.destructive).getD false

/-- R139, R142, R145: what the engine holds at a track start. -/
def VerifyEngine.atTrack (v : VerifyEngine) (n : Nat) (destructive : Bool) : VerifyEngine :=
  { v with track := n, phase := some (if destructive then .trackWrite else .trackRead), trial := none, tried := 0,
           seekChecks := 0, trackFails := 0, trackFirst := none, failedBefore := v.failed }

/-- R139, R140: a selected SURFACE VERIFY makes the engine BUSY and starts as R105 gives for its first track. -/
def State.startSurface (s : State) (d : DriveId) (p : Port) (o : Order) : State :=
  match (s.drive d).geom with
  | none => s
  | some g =>
    let destr := o.flags &&& 1#8 = 1#8
    let home : Track := { cyl := o.start.cyl, head := o.start.head }
    let job : VerifyJob := { drive := d, port := p, tag := o.tag, oid := o.oid, destructive := destr,
                             first := g.trackNumber home, count := o.parameter }
    let at' := lookupTrack (s.drive d).spare home
    let op : Op := { Op.internal .surface home at'.1 at'.2 (if destr then .write else .read) with
                     oid := o.oid, port := p, tag := o.tag, count := o.parameter }
    let v : VerifyEngine := { VerifyEngine.initial with job := some job }
    let s1 := s.modVerify fun _ => v.atTrack (g.trackNumber home) destr
    (s1.setOp d op).seekTo d (centre at'.1.cyl)

/-- R146: the result and the failing address of a SURFACE VERIFY that passes its last track. -/
def VerifyEngine.verdict (v : VerifyEngine) (destructive laddered : Bool) : Result × Option SectorAddr :=
  if destructive then
    match v.shortfall with
    | none => (.complete, none)
    | some sf => (sf.1, some sf.2)
  else if v.failed = 0 then (if laddered then .recovered else .complete, none)
  else (.dataCheck, v.firstFail)

/-- The operation of a SURFACE VERIFY ends with a result of its own. -/
def State.endSurface (s : State) (d : DriveId) (op : Op) (r : Result) (failing : Option SectorAddr) : State :=
  let s1 := s.modOrder op.oid fun o => if o.live then { o with failing := failing } else o
  (s1.endOrder op.oid r).clearOp d

/-- R142, R145: the next track starts, with its lookup (R53) and the move to it (R54). -/
def State.surfaceTrack (s : State) (d : DriveId) (op : Op) (n : Nat) : State :=
  match (s.drive d).geom with
  | none => s
  | some g =>
    let home := g.userTrack n
    let at' := lookupTrack (s.drive d).spare home
    let s1 := s.modVerify fun v => v.atTrack n s.destructive
    s1.moveToTrack d op.phys.cyl
      { op.wants 0 (if s.destructive then .write else .read) with home := home, phys := at'.1, header := at'.2 }

/-- R140, R146, R147: past a track: the next one, or the end, after the last track or after the track at which the order was
cancelled. -/
def State.surfaceNext (s : State) (d : DriveId) (op : Op) : State :=
  match s.verify.job with
  | none => s.clearOp d
  | some j =>
    if op.lastTrack || j.first + j.count ≤ s.verify.track + 1 then
      s.endSurface d op (s.verify.verdict j.destructive op.laddered).1 (s.verify.verdict j.destructive op.laddered).2
    else s.surfaceTrack d op (s.verify.track + 1)

/-- A track has been dealt with whole: tracks verified rises by 1 (R142 to R145), and its failures stay counted (R146). -/
def State.trackVerified (s : State) (d : DriveId) (op : Op) : State :=
  (s.modVerify fun v => { v with verified := addHolding v.verified 1, failedBefore := v.failed }).surfaceNext d op

/-! ## Destructive mode -/

/-- R144: a shortfall: the first is recorded, the watch entry acted on, and the verification goes on. -/
def State.shortfall (s : State) (d : DriveId) (op : Op) (r : Result) : State :=
  let fa : SectorAddr := { cyl := op.home.cyl, head := op.home.head, sector := s.verify.trackFirst.getD 0 }
  let s1 := s.modVerify fun v => { v with shortfall := some (v.shortfall.getD (r, fa)), trial := none }
  (s1.shortfallReport d op.home).trackVerified d op

/-- R143 steps 1 and 2: the lowest FREE position becomes the trial position and is written. -/
def State.startTrial (s : State) (d : DriveId) (op : Op) : State :=
  match lowestFree (s.drive d).pool with
  | none => s.shortfall d op .noAlternate
  | some pos =>
    let t := (s.drive d).posTrack pos
    let s1 := s.modVerify fun v =>
      { v with trial := some pos, tried := v.tried + 1, phase := some .trialWrite, trackFails := 0 }
    s1.moveToTrack d op.phys.cyl { op.wants 0 .write with phys := t, header := .alternate op.home.cyl op.home.head }

/-- R142 step 4: the judgement of a track against the verify threshold. Its failures are added to sectors failed here; a cut-off or a
second seek check before the end of its trial takes them out again (R146, log 25). -/
def State.judgeTrack (s : State) (d : DriveId) (op : Op) : State :=
  let fails := s.verify.trackFails
  let s1 := s.modVerify fun v => { v with failed := addHolding v.failed fails }
  if fails < (s.drive d).policy.verifyThreshold then s1.trackVerified d op else s1.startTrial d op

/-- R143 step 4: in one step the position is allocated and named, by a new entry or in place of the old alternate. -/
def Drive.spareByVerify (x : Drive) (home : Track) (pos : Nat) : Drive :=
  let t := x.posTrack pos
  match x.entryFor home with
  | none => (x.markTrack t .inUse).addEntry home t false .verify
  | some e => ((x.markTrack t .inUse).markTrack e.alt .dead).modEntry home fun e => { e with alt := t, origin := .verify }

/-- R143 step 4: the trial position passes. -/
def State.trialPassed (s : State) (d : DriveId) (op : Op) (pos : Nat) : State :=
  let replaced := ((s.drive d).entryFor op.home).isSome
  let s1 := (s.modDrive d fun x => (x.spareByVerify op.home pos).mapChanged).forgetWatch d op.home
  let s2 := s1.modVerify fun v =>
    { v with spared := addHolding v.spared 1, dead := if replaced then addHolding v.dead 1 else v.dead, trial := none }
  s2.trackVerified d op

/-- R143 step 5: the trial position fails and goes DEAD. -/
def State.trialFailed (s : State) (d : DriveId) (op : Op) (pos : Nat) : State :=
  let s1 := s.modDrive d fun x => ({ x with pool := x.pool.set pos .dead } : Drive).mapChanged
  let s2 := s1.modVerify fun v => { v with dead := addHolding v.dead 1, trial := none }
  if s2.verify.tried < 3 then s2.startTrial d op else s2.shortfall d op .reassignFailed

/-- R142 step 2, R143 step 2: past a sector written; after the last the read-back begins. -/
def State.surfaceWritten (s : State) (d : DriveId) (op : Op) : State :=
  if op.sector + 1 < (s.drive d).sectors then s.setOp d (op.wants (op.sector + 1) .write)
  else
    (s.modVerify fun v =>
      { v with phase := some (if v.trial.isSome then .trialReadBack else .trackReadBack) }).setOp d (op.wants 0 .readBack)

/-- R142: a header naming another cylinder, in any pass of the track. -/
def State.surfaceSeekCheck (s : State) (d : DriveId) (op : Op) : State :=
  let s1 := (s.tallyDrive d DriveTallies.raiseSeekChecks).modVerify fun v => { v with seekChecks := v.seekChecks + 1 }
  if s1.verify.seekChecks < 2 then
    let s2 := s1.modVerify fun v =>
      { v with phase := some (if v.trial.isSome then .trialWrite else .trackWrite), trackFails := 0,
               trackFirst := if v.trial.isSome then v.trackFirst else none }
    (s2.setOp d (op.wants 0 .write)).recalFor d (some (centre op.phys.cyl))
  else s1.endSurface d op .seekCheck (some op.homeAddr)

/-- R142 step 3: a sector passes when it reads GOOD with data equal to the pattern of its physical track, whether the data are met as
the pattern or as bytes. -/
def patternPasses (d : DriveId) (op : Op) (out : ReadOutcome) : Bool :=
  match out with
  | .good p => sameData (.pattern d.val op.phys.cyl op.phys.head op.sector) p
  | .mismatch _ | .incomplete | .lost | .dataCheck => false

/-- R142, R143: a failing sector of a read-back is counted; the first of a track pass is kept. -/
def VerifyEngine.countFail (v : VerifyEngine) (sector : Nat) : VerifyEngine :=
  { v with trackFails := v.trackFails + 1,
           trackFirst := if v.trial.isSome then v.trackFirst else some (v.trackFirst.getD sector) }

/-- R142 steps 3 and 4, R143 step 3: the outcome of a read-back. -/
def State.surfaceReadBack (s : State) (d : DriveId) (op : Op) (out : ReadOutcome) : State :=
  if out = .mismatch true then s.surfaceSeekCheck d op
  else
    let s1 := if patternPasses d op out then s else s.modVerify fun v => v.countFail op.sector
    if op.sector + 1 < (s.drive d).sectors then s1.setOp d (op.wants (op.sector + 1) .readBack)
    else
      match s1.verify.trial with
      | none => s1.judgeTrack d op
      | some pos => if s1.verify.trackFails = 0 then s1.trialPassed d op pos else s1.trialFailed d op pos

/-! ## Read-only mode (R145) -/

/-- R145: a failing sector raises sectors failed; the first of the verification is kept. -/
def State.surfaceFailed (s : State) (op : Op) : State :=
  s.modVerify fun v => { v with failed := addHolding v.failed 1, firstFail := some (v.firstFail.getD op.homeAddr) }

/-- R145: past a sector dealt with, to the next sector or, past the last, the next track. -/
def State.surfaceAdvance (s : State) (d : DriveId) (op : Op) : State :=
  if op.sector + 1 < (s.drive d).sectors then s.setOp d (op.wants (op.sector + 1) .read) else s.trackVerified d op

end Sys2Proof.Machine
end

