-- ==== Sys2Proof/Machine/Sequencer.lean ====
section
/-! DEFINITION. The drive sequencer (R98 to R119): the progress of operations through their sectors, the retry ladder, seek
checks, the handling of channel reports and of sector starts and ends. -/

namespace Sys2Proof.Machine

/-! ## Completion of sectors and operations -/

/-- R99, R107: the result of an operation's order: a READ's is held until its slots are taken, another's is fixed. -/
def State.operationResult (s : State) (op : Op) (r : Result) : State :=
  if op.kind = .read then s.holdResult op.oid r else s.endOrder op.oid r

/-- R97, R106, R107: a READ, WRITE or VERIFY has completed its last sector, or ended at a failing one. A WRITE that ends leaves the
wait list, and its DATA REQUESTs still queued are removed. -/
def State.endHostOp (s : State) (d : DriveId) (op : Op) (r : Result) : State :=
  (((s.operationResult op r).leaveWaitList [op.oid]).dropRequests [op.oid]).clearOp d

/-- R106, R107, R116: past a completed sector of a READ, WRITE or VERIFY: the next sector, a track switch, or the end. The order ends
RECOVERED when an attempt of the ladder recovered a sector of it; a sector that reads GOOD as a first read, its ladder
having been abandoned at a seek check, leaves it COMPLETE: the model's choice (log 38). -/
def State.hostAdvance (s : State) (d : DriveId) (op : Op) : State :=
  if op.count ≤ op.index + 1 then s.endHostOp d op (if op.recovered then .recovered else .complete)
  else
    let next := { op with index := op.index + 1 }
    if op.sector + 1 < (s.drive d).sectors then s.setOp d (next.wants (op.sector + 1) op.pass)
    else
      let home : Track := { cyl := op.home.cyl, head := op.home.head + 1 }
      let at' := lookupTrack (s.drive d).spare home
      s.moveToTrack d op.phys.cyl { next.wants 0 op.pass with home := home, phys := at'.1, header := at'.2 }

/-- R106, R111, R145: an operation goes on past the sector just dealt with. -/
def State.advance (s : State) (d : DriveId) (op : Op) : State :=
  match op.kind with
  | .read | .write | .verify => s.hostAdvance d op
  | .surface => s.surfaceAdvance d op
  | .mapLoad => s.mapLoadAdvance d op
  | .reassign => s.reassignAdvance d op
  | .seek | .recalibrate | .mapWrite => s

/-- R62, R112, R113: an operation ends with the result a failing sector gives it. An INCOMPLETE sector is counted here. -/
def State.finish (s : State) (d : DriveId) (op : Op) (r : Result) : State :=
  match op.kind with
  | .mapLoad => s.refuseMap d
  | .read | .verify =>
    (if r = .incompleteSector then s.tallyDrive d DriveTallies.raiseIncomplete else s).endHostOp d op r
  | .surface => s.endSurface d op r (some op.homeAddr)
  | .write | .seek | .recalibrate | .mapWrite | .reassign => s.clearOp d

/-- The arm is where the operation asked for it: its goal is taken up (R105, R111 to R113). -/
def State.reachGoal (s : State) (d : DriveId) (g : Goal) : State :=
  match g with
  | .transfer => s.reachTransfer d
  | .advance =>
    match (s.drive d).cur with
    | some op => s.advance d op
    | none => s
  | .finish r =>
    match (s.drive d).cur with
    | some op => s.finish d op r
    | none => s

/-- R37, R111, R112: the ladder has ended: the arm goes back to the centre, by a seek that is of length 0 when it stands there,
and the goal is taken up on cylinder. -/
def State.toCentre (s : State) (d : DriveId) (op : Op) (g : Goal) : State :=
  let s1 := s.setOp d op
  if (s.drive d).chan.pos = centre op.phys.cyl then s1.reachGoal d g else s1.beginSeek d (centre op.phys.cyl) g

/-! ## The retry ladder (R110 to R114) -/

/-- R110: the record's highest retry step used follows the attempt made. -/
def State.noteAttempt (s : State) (op : Op) : State :=
  match op.ladder with
  | some l => s.modOrder op.oid fun o => { o with retry := max o.retry l.step }
  | none => s

/-- R119: whether the reads of the operation are reported to the sparing unit: READ, VERIFY and read-only SURFACE VERIFY. -/
def Op.reports (op : Op) : Bool := op.kind = .read || op.kind = .verify || op.kind = .surface

/-- R111: the tally and the report of a recovered sector. A MAP LOAD counts but does not report (R62), a REASSIGN does neither
(R129). -/
def State.countRecovered (s : State) (d : DriveId) (op : Op) : State :=
  if op.kind = .reassign then s
  else
    let s1 := s.tallyDrive d DriveTallies.raiseRecovered
    if op.reports then s1.recoveredReport d op.home else s1

/-- R112: the tally and the report of an unrecovered sector; MAP LOAD and REASSIGN do neither (R62, R129). -/
def State.countUnrecovered (s : State) (d : DriveId) (op : Op) : State :=
  if op.reports then (s.tallyDrive d DriveTallies.raiseUnrecovered).unrecoveredReport d op.home else s

/-- What a sector read GOOD does for its operation: the order's sectors done (R106), the map record's part (R62), or the place
of the track buffer (R129). -/
def State.keepGood (s : State) (op : Op) (p : Payload) : State :=
  match op.kind with
  | .read | .verify => s.modOrder op.oid fun o => { o with done := o.done + 1 }
  | .reassign => s.setPlace op.sector (.good p)
  | .write | .seek | .surface | .recalibrate | .mapLoad | .mapWrite => s

/-- R106, R111: a sector read GOOD, at the first read or at an attempt of its ladder. The last sector of an order too, recovered at an
offset, has the arm go back to the centre first (R111 step 4), and the operation ends at that on-cylinder report and not at the
read (R106, R107): the model's choice (log 47). -/
def State.sectorGood (s : State) (d : DriveId) (op : Op) (p : Payload) : State :=
  let op1 : Op := if op.kind = .mapLoad then { op with got := op.got ++ [p] } else op
  let s1 := s.keepGood op p
  match op.ladder with
  | none => (s1.setOp d op1).advance d op1
  | some _ =>
    let op2 := { op1 with recovered := true }
    (s1.countRecovered d op).toCentre d op2 .advance

/-- R99, R112: the failing address of the order is set to the sector's home address. -/
def State.setFailing (s : State) (op : Op) : State := s.modOrder op.oid fun o => { o with failing := some op.homeAddr }

/-- R112, R113, R129, R145: a sector that stays failing, with the result it gives an order that ends by it. A sector of the
REASSIGN read pass that ends INCOMPLETE raises no tally: the model's choice (log 40). -/
def State.sectorFailed (s : State) (d : DriveId) (op : Op) (r : Result) : State :=
  let s1 := if r = .dataCheck then s.countUnrecovered d op else s
  match op.kind with
  | .reassign => (s1.setPlace op.sector .lost).toCentre d op .advance
  | .surface =>
    let s2 := if r = .incompleteSector then s1.tallyDrive d DriveTallies.raiseIncomplete else s1
    (s2.surfaceFailed op).toCentre d op .advance
  | .read | .verify => (s1.setFailing op).toCentre d op (.finish r)
  | .mapLoad => s1.toCentre d op (.finish r)
  | .write | .seek | .recalibrate | .mapWrite => s1.clearOp d

/-- R110: a failing read leads to the next step of the ladder, or ends it. The number k is taken when the ladder starts, the
offset unit at each offset seek (R36). -/
def State.ladderNext (s : State) (d : DriveId) (op : Op) : State :=
  let x := s.drive d
  match op.ladder, x.geom with
  | none, _ => s.setOp d { op with ladder := some { k := x.chan.profile.maxOffset, step := 1 }, laddered := true }
  | some l, some g =>
    if 2 * l.k + 1 ≤ l.step then s.sectorFailed d op .dataCheck
    else
      (s.setOp d { op with ladder := some { l with step := l.step + 1 } }).seekTo d
        (ladderTarget g x.chan.profile.offsetUnit op.phys.cyl (l.step + 1))
  | some _, none => s

/-- R114: a seek check of a read with the ladder: the first of the sector recalibrates and seeks again, the second ends the
operation. -/
def State.seekCheck (s : State) (d : DriveId) (op : Op) : State :=
  let s1 := s.tallyDrive d DriveTallies.raiseSeekChecks
  if op.checked then
    match op.kind with
    | .read | .verify => (s1.setFailing op).endHostOp d op .seekCheck
    | .surface => s1.endSurface d op .seekCheck (some op.homeAddr)
    | .mapLoad => s1.refuseMap d
    | .write | .seek | .recalibrate | .mapWrite | .reassign => s1.clearOp d
  else (s1.setOp d { op with checked := true, ladder := none }).recalFor d (some (centre op.phys.cyl))

/-- R110 to R114, R129, R132: the outcome of a read made with the retry ladder. -/
def State.ladderRead (s : State) (d : DriveId) (op : Op) (out : ReadOutcome) : State :=
  match out with
  | .good p => s.sectorGood d op p
  | .mismatch false | .dataCheck => s.ladderNext d op
  | .incomplete => s.sectorFailed d op .incompleteSector
  | .lost => s.sectorFailed d op .dataLost
  | .mismatch true => if op.kind = .reassign then s.reassignSeekCheck d op else s.seekCheck d op

/-- The outcome of a read by the pass it belongs to. -/
def State.readOutcome (s : State) (d : DriveId) (op : Op) (out : ReadOutcome) : State :=
  if op.pass = .readBack then
    match op.kind with
    | .mapWrite => s.mapReadBack d op out
    | .reassign => s.reassignReadBack d op out
    | .surface => s.surfaceReadBack d op out
    | .read | .write | .verify | .seek | .recalibrate | .mapLoad => s
  else s.ladderRead d op out

/-- R80, R116, R117: the outcome of a transfer granted before its order ended: a sector GOOD or WRITTEN counts in the sectors
done, and the operation ends. A cylinder-wrong or INCOMPLETE outcome raises no tally here: the model's choice (log 36). -/
def State.lateOutcome (s : State) (d : DriveId) (op : Op) (complete : Bool) : State :=
  let s1 := if complete ∧ (op.kind = .read ∨ op.kind = .write ∨ op.kind = .verify) then
      s.modOrder op.oid fun o => if o.state = .ending then o else { o with done := o.done + 1 }
    else s
  s1.clearOp d

/-! ## The ends of sectors (R73, R78, R79) -/

/-- R78, R79: after an outcome the holder goes on with its continuation, when the operation still wants the very next sector,
or gives up the path. A sector start already passed on during the frame decides at once (R81, log 11). -/
def State.afterTransfer (s : State) (d : DriveId) (x : Xfer) (good : Bool) : State :=
  match (s.drive d).cur with
  | none => s.release
  | some op =>
    if x.cont && good && !op.ended && op.stage = .transfer && op.sector = x.sector + 1 && op.ladder.isNone then
      let next : Xfer := { sector := op.sector, begun := false, chained := true, cont := false, early := none, frame := none }
      match x.early with
      | none => { s with path := { s.path with xfer := some next } }
      | some n => if n = op.sector then s.beginTransfer d op next else s.release
    else s.release

/-- R73, R85: the end of a sector read of the holder: the outcome goes to the ring slot and to the sequencer. -/
def State.endRead (s : State) (d : DriveId) (op : Op) (x : Xfer) (out : ReadOutcome) : State :=
  let s1 :=
    if op.kind = .read then
      match out with
      | .good p => s.ringGood p
      | .mismatch _ | .incomplete | .lost | .dataCheck => s.ringBack
    else s
  let s2 := s1.noteAttempt op
  let s3 := if op.ended then s2.lateOutcome d op out.isGood else s2.readOutcome d op out
  s3.afterTransfer d x out.isGood

/-- R95, R108: a sector WRITTEN: the slot that supplied it is freed and passes on. -/
def State.writeWritten (s : State) (d : DriveId) (op : Op) : State :=
  let slot := s.slotOf op.oid op.index
  let s1 := if op.ended then s.lateOutcome d op true
    else s.modOrder op.oid fun o => { o with done := o.done + 1 }
  let s2 := match slot with
    | some i => s1.freeSlot i
    | none => s1
  if op.ended then s2 else s2.hostAdvance d op

/-- R71, R130, R142, R60: the outcome WRITTEN by the kind of operation. A SURFACE VERIFY writes in a write pass alone (R142, R145). -/
def State.writeOutcome (s : State) (d : DriveId) (op : Op) : State :=
  match op.kind with
  | .write => s.writeWritten d op
  | .mapWrite => s.mapSectorWritten d op
  | .reassign => if op.ended then s.clearOp d else s.reassignWritten d op
  | .surface => if op.ended then s.clearOp d else if op.pass = .write then s.surfaceWritten d op else s
  | .read | .verify | .seek | .recalibrate | .mapLoad => s

/-- R71: the end of a sector write of the holder: the frame has been laid down whole. -/
def State.endWrite (s : State) (d : DriveId) (op : Op) (x : Xfer) (f : Frame) : State :=
  ((s.layDown d op.phys x.sector f).writeOutcome d op).afterTransfer d x true

/-! ## Sector starts (R75, R76, R78, R81) -/

/-- A start meets the holder: a transfer under way takes note of it (R81), a granted one begins with its own sector, and the
path is given up when another sector starts (R79, log 11). -/
def State.holderStart (s : State) (d : DriveId) (op : Op) (x : Xfer) (n : Nat) : State :=
  if x.begun then
    { s with path := { s.path with xfer := some { x with early := some (x.early.getD n) } } }
  else if n = x.sector then s.beginTransfer d op x
  else
    let s1 := s.abandonGrant op x
    if op.ended then
      let s2 := s1.clearOp d
      if op.kind = .write then s2.freeSlots [op.oid] else s2
    else s1

/-- R75, R76: a start meets a drive that does not hold the path: its standing request is withdrawn and counted when its wanted
sector begins ungranted; else it considers a request when the sector before its wanted sector starts. -/
def State.seekerStart (s : State) (d : DriveId) (op : Op) (n : Nat) : State :=
  if (s.drive d).request then
    if n = op.sector then (s.modDrive d fun x => { x with request := false }).tallyDrive d DriveTallies.raiseArbiterMisses else s
  else if op.stage = .transfer ∧ n = sectorBefore (s.drive d).sectors op.sector then s.consider d op
  else s

/-- R5, R75: the start of sector `n`, passed on to the drive sequencer. -/
def State.sectorStart (s : State) (d : DriveId) (n : Nat) : State :=
  match (s.drive d).cur with
  | none => s
  | some op =>
    if s.path.holder = some d then
      match s.path.xfer with
      | some x => s.holderStart d op x n
      | none => s
    else s.seekerStart d op n

/-! ## Channel reports (R34, R39, R105, R115) -/

/-- R29, R105: a request that waited for a motion left running is made at its report. -/
def State.makeWaiting (s : State) (d : DriveId) (m : Motion) : State :=
  match m with
  | .seek t _ => s.seekTo d t
  | .recal n => s.recalFor d n

/-- R34, R35: the on-cylinder report: to the operation that asked, to one whose first request waits, or to none. -/
def State.onCylinderReport (s : State) (d : DriveId) : State :=
  match (s.drive d).cur with
  | none => s
  | some op =>
    match op.stage with
    | .waiting m => s.makeWaiting d m
    | .moving (.seek _ g) => s.reachGoal d g
    | .moving (.recal _) | .transfer => s

/-- R39, R105, R115: the home-found report: the seek the recalibration was made for, or the end of a RECALIBRATE and, in
RECALIBRATING, the map step (R10). -/
def State.homeFoundReport (s : State) (d : DriveId) : State :=
  match (s.drive d).cur with
  | none => s
  | some op =>
    match op.stage with
    | .waiting m => s.makeWaiting d m
    | .moving (.recal (some t)) => s.seekTo d t
    | .moving (.recal none) =>
      let s1 := s.clearOp d
      if (s1.drive d).state = .recalibrating then s1.mapStep d else s1
    | .moving (.seek _ _) | .transfer => s

/-- R22, R23: one update of a drive's channel, its hard arrival counted (R33, R45), and its report acted on. -/
def State.channelUpdate (s : State) (d : DriveId) (home : Bool) : State :=
  let ch := (s.drive d).chan
  let s1 := s.modChan d fun ch => ch.update s.m home
  let s2 := if ch.updateHard s.m then s1.tallyDrive d DriveTallies.raiseHardArrivals else s1
  match ch.updateReport home with
  | .none => s2
  | .onCylinder => s2.onCylinderReport d
  | .homeFound => s2.homeFoundReport d
  | .recalFailed => s2.enterNotReady d

/-! ## Selection (R100 to R104) -/

/-- R100: the internal operations the drive state allows to run. -/
def Drive.internalEligible (x : Drive) (k : OpKind) : Bool :=
  match x.state, k with
  | .recalibrating, .recalibrate => true
  | .loadingMap, .recalibrate | .loadingMap, .mapLoad => true
  | .writingMap, .recalibrate | .writingMap, .mapWrite => true
  | .ready, .recalibrate | .ready, .mapLoad | .ready, .mapWrite | .ready, .reassign => true
  | .fenced, .recalibrate | .fenced, .mapWrite => true
  | .mapLost, .recalibrate | .mapLost, .mapWrite => true
  | _, _ => false

/-- R101: the pending internal operation a selection takes, in precedence. -/
def Drive.nextInternal (x : Drive) : Option OpKind :=
  if x.pendRecal && x.internalEligible .recalibrate then some .recalibrate
  else if x.pendLoad && x.internalEligible .mapLoad then some .mapLoad
  else if x.pendWrite && x.internalEligible .mapWrite then some .mapWrite
  else if x.pendReassign && x.internalEligible .reassign then some .reassign
  else none

/-- R140: the mode of a SURFACE VERIFY order. -/
def Order.destructive (o : Order) : Bool := o.flags &&& 1#8 = 1#8

/-- R100, R139: a host-ordered entry the drive state, and for a SURFACE VERIFY the verify engine, allows to run. -/
def State.hostEligible (s : State) (d : DriveId) (o : Order) : Bool :=
  match (s.drive d).state, o.kind with
  | .ready, .read | .ready, .write | .ready, .verify | .ready, .seek => true
  | .ready, .surfaceVerify => !o.destructive && s.verify.job.isNone
  | .fenced, .surfaceVerify => o.destructive && s.verify.job.isNone
  | _, _ => false

/-- R100: the eligible host-ordered entries, oldest first. -/
def State.eligibleEntries (s : State) (d : DriveId) : List (Port × Order) :=
  (s.drive d).queue.filterMap fun oid =>
    match s.findOrder oid with
    | some e => if s.hostEligible d e.2 then some e else none
    | none => none

/-- R103, R109: the home track by which an order is placed: the track of its start address, head 0 for a SEEK. -/
def Order.firstTrack (o : Order) : Track :=
  { cyl := o.start.cyl, head := if o.kind = .seek then 0 else o.start.head }

/-- R103: the target cylinder of an order, after lookup. -/
def State.targetCyl (s : State) (d : DriveId) (o : Order) : Nat := (lookupTrack (s.drive d).spare o.firstTrack).1.cyl

/-- R103 steps 2 and 3: the nearest entry at or beyond the arm in a direction, the oldest among equals. -/
def State.nearest (s : State) (d : DriveId) (arm : Nat) (inward : Bool) (es : List (Port × Order)) : Option (Port × Order) :=
  es.foldl
    (fun best e =>
      let t := s.targetCyl d e.2
      let dist := if inward then t - arm else arm - t
      if (if inward then arm ≤ t else t ≤ arm) then
        match best with
        | none => some e
        | some b =>
          let tb := s.targetCyl d b.2
          if dist < (if inward then tb - arm else arm - tb) then some e else some b
      else best)
    none

/-- R103: the arm cylinder for the sweep, 0 when the position is not known. -/
def State.sweepArm (s : State) (d : DriveId) : Nat := ((s.drive d).chan.armCyl).getD 0

/-- The choice of a selection: the entry, the sweep direction after it, and whether it passes over older entries. -/
structure Choice where
  entry : Port × Order
  sweepIn : Bool
  passes : Bool

/-- R102 to R104: the choice among the eligible entries by the drive's queue discipline. -/
def State.chooseEntry (s : State) (d : DriveId) (es : List (Port × Order)) : Option Choice :=
  let x := s.drive d
  if !x.profile.sweep then es.head?.map fun e => { entry := e, sweepIn := x.sweepIn, passes := false }
  else
    let arm := s.sweepArm d
    match es.find? (fun e => 8 ≤ e.2.passOver) with
    | some e =>
      let t := s.targetCyl d e.2
      some { entry := e, sweepIn := if arm < t then true else if t < arm then false else x.sweepIn, passes := false }
    | none =>
      match s.nearest d arm x.sweepIn es with
      | some e => some { entry := e, sweepIn := x.sweepIn, passes := true }
      | none => (s.nearest d arm (!x.sweepIn) es).map fun e => { entry := e, sweepIn := !x.sweepIn, passes := true }

/-- R104: the eligible entries accepted before the one taken are passed over. -/
def State.passOver (s : State) (es : List (Port × Order)) (taken : Nat) : State :=
  (es.takeWhile fun e => e.2.oid ≠ taken).foldl
    (fun s e => s.modOrder e.2.oid fun o => { o with passOver := o.passOver + 1 }) s

/-- R98: the operation of an order kind. -/
def OrderKind.opKind : OrderKind → OpKind
  | .write => .write
  | .verify => .verify
  | .seek => .seek
  | _ => .read

/-- R105: a READ, WRITE, VERIFY or SEEK starts: lookup of its first track and a seek to its physical cylinder. -/
def State.startHost (s : State) (d : DriveId) (p : Port) (o : Order) : State :=
  let at' := lookupTrack (s.drive d).spare o.firstTrack
  let op : Op := { Op.internal o.kind.opKind o.firstTrack at'.1 at'.2 (if o.kind = .write then .write else .read) with
                   oid := o.oid, port := p, tag := o.tag, count := o.count, sector := o.start.sector }
  (s.setOp d op).seekTo d (centre at'.1.cyl)

/-- R100: a selected host-ordered entry leaves the queue, its record goes ACTIVE, and it starts. -/
def State.takeEntry (s : State) (d : DriveId) (es : List (Port × Order)) (c : Choice) : State :=
  let o := c.entry.2
  let s1 := if c.passes then s.passOver es o.oid else s
  let s2 := s1.modDrive d fun x => { x with queue := x.queue.filter fun n => n ≠ o.oid, sweepIn := c.sweepIn }
  let s3 := s2.modOrder o.oid fun o => { o with state := .active }
  if o.kind = .surfaceVerify then s3.startSurface d c.entry.1 o else s3.startHost d c.entry.1 o

/-- R101, R115: a selected internal operation leaves the queue and becomes current. -/
def State.startInternal (s : State) (d : DriveId) (k : OpKind) : State :=
  match k with
  | .recalibrate =>
    let s1 := s.modDrive d fun x => { x with pendRecal := false }
    (s1.setOp d (Op.internal .recalibrate ⟨0, 0⟩ ⟨0, 0⟩ .home .read)).recalFor d none
  | .mapLoad => (s.modDrive d fun x => { x with pendLoad := false }).startMapLoad d
  | .mapWrite => (s.modDrive d fun x => { x with pendWrite := false }).startMapWrite d
  | .reassign => (s.modDrive d fun x => { x with pendReassign := false }).startReassign d
  | .read | .write | .verify | .seek | .surface => s

/-- R100: a selection of a drive with no current operation; none when nothing is eligible. -/
def State.select (s : State) (d : DriveId) : Option State :=
  if (s.drive d).cur.isSome then none
  else
    match (s.drive d).nextInternal with
    | some k => some (s.startInternal d k)
    | none =>
      let es := s.eligibleEntries d
      (s.chooseEntry d es).map fun c => s.takeEntry d es c

end Sys2Proof.Machine
end

