-- ==== Sys2Proof/Machine/Settle.lean ====
section
/-! DEFINITION. What the part does "at once", without a command of its own: the boundary moves over finished ring slots (R88),
slots are offered (R87) and write slots taken (R93), ENDINGs become due (R153), the engines take their work (R127, R100), the
path is granted (R77), the spin-up turn is granted (R8) and the transmitters start frames (R159). Each is one action; `settle`
runs them to quiescence inside the command that enabled them (log 5). -/

namespace Sys2Proof.Machine

/-- R88: the slot at the boundary is DONE or DISCARD: it goes EMPTY and the boundary advances. -/
def State.actBoundary (s : State) : Option State :=
  match s.ring.run with
  | [] => none
  | x :: rest =>
    match x.state with
    | .done | .discard => some { s with ring := { boundary := (s.ring.boundary + 1) % 24, run := rest } }
    | .filling | .held => none

/-- R87: the sector of the offered slot a port has. -/
def PortCtl.offers (c : PortCtl) : Option (Nat × Nat) := c.offered.map fun o => (o.oid, o.index)

/-- R87, R90: a slot becomes the offered slot of its port, and its 2 s begin. -/
def State.actOffer (s : State) : Option State :=
  match allPorts.find? (fun p => (s.port p).offers ≠ (s.ring.offer p).map fun x => (x.oid, x.index)) with
  | none => none
  | some p => some (s.modPort p fun c =>
      { c with offered := (s.ring.offer p).map fun x => { oid := x.oid, index := x.index, since := s.clock } })

/-- R93: the order of a drive's WRITE operation that begins to want a slot: it is on no wait list. -/
def State.newlyWanting (s : State) (d : DriveId) : Option (Port × Order) :=
  match (s.drive d).cur with
  | none => none
  | some op =>
    if op.kind = .write ∧ !op.ended ∧ op.oid ∉ s.waitList then (s.findOrder op.oid).filter fun e => s.wantsSlot e.2 else none

/-- R93: an order that begins to want a slot takes the lowest-numbered FREE one, or joins the wait list at its end. -/
def State.actSlots (s : State) : Option State :=
  match allDrives.findSome? fun d => s.newlyWanting d with
  | none => none
  | some e =>
    match ([0, 1, 2, 3, 4, 5, 6, 7] : List (Fin 8)).find? (fun i => (s.wslots.get i).state = .free) with
    | some i => some (s.giveSlot i e.1 e.2)
    | none => some { s with waitList := s.waitList ++ [e.2.oid] }

/-- R16: a FENCE is done: the drive is FENCED with no host-ordered operation or REASSIGN current. -/
def State.fenceDone (s : State) (o : Order) : Bool :=
  o.kind = .fence && o.live &&
    match o.drive with
    | none => false
    | some d =>
      (s.drive d).state = .fenced &&
        match (s.drive d).cur with
        | none => true
        | some op => !op.kind.hostOrdered && op.kind ≠ .reassign

/-- R16: a FENCE order ends COMPLETE. -/
def State.actFence (s : State) : Option State :=
  (s.orderList.find? fun e => s.fenceDone e.2).map fun e => s.endOrder e.2.oid .complete

/-- R99, R153: the ENDING of an order is due: its result is fixed or held, its operation has ended, and no slot of it is HELD or
FILLING. -/
def State.dueResult (s : State) (o : Order) : Option Result :=
  if (allDrives.all fun d => (s.drive d).cur.all fun op => op.oid ≠ o.oid) && !s.ring.serves o.oid then
    match o.result with
    | some r => some r
    | none => o.held
  else none

/-- R153: a due ENDING is queued at its port's transmitter and the order goes to state ENDING. -/
def State.queueEnding (s : State) (p : Port) (o : Order) (r : Result) : State :=
  let f : OutFrame := .ending o.oid o.tag r o.done o.retry o.clamped (if r.hasFailing then o.failing else none) o.body
  let s1 := s.modOrder o.oid fun x => { x with result := some (x.result.getD r), state := .ending }
  let s2 := s1.modPort p fun c => { c with endings := c.endings ++ [f] }
  { s2 with closing := s2.closing.filter fun n => n ≠ o.oid }

/-- An order still waits for its ENDING to become due: a slot holds it, and it has not gone to state ENDING. -/
def State.waitsEnding (s : State) (oid : Nat) : Bool := (s.findOrder oid).any fun e => e.2.state ≠ .ending

/-- R153: the first of the closing orders whose ENDING is due. Orders whose slot was freed by PORT RESET leave the list first, all at
once. -/
def State.actEnding (s : State) : Option State :=
  if s.closing.all s.waitsEnding then
    s.closing.findSome? fun oid => (s.findOrder oid).bind fun e => (s.dueResult e.2).map fun r => s.queueEnding e.1 e.2 r
  else some { s with closing := s.closing.filter s.waitsEnding }

/-- R127: the FREE engine takes the eligible candidate of the earliest time. -/
def State.actCandidate (s : State) : Option State :=
  if s.reassign.state = .free then s.bestCandidate.map fun b => s.takeCandidate b.2 else none

/-- R100: a drive with no current operation makes its selection. Lowest drive address first (log 5). -/
def State.actSelect (s : State) : Option State := allDrives.findSome? fun d => s.select d

/-- R77: the free path is granted to the first requester after the last grantee. A request whose place is no longer ready is
withdrawn and its miss counted (log 13). -/
def State.actGrant (s : State) : Option State :=
  if s.path.holder.isSome then none
  else
    match s.nextGrantee with
    | none => none
    | some d =>
      match (s.drive d).cur with
      | none => some (s.modDrive d fun x => { x with request := false })
      | some op =>
        if s.placeReady op op.index then some (s.grant d op)
        else some ((s.modDrive d fun x => { x with request := false }).countMiss d op)

/-- R8: the free spin-up turn goes to the lowest-addressed WAITING SPIN drive. -/
def State.actSpin (s : State) : Option State :=
  if allDrives.any fun d => (s.drive d).state = .spinningUp then none
  else (allDrives.find? fun d => (s.drive d).state = .waitingSpin).map fun d => s.enterSpinningUp d

/-- R161: the lowest logical drive whose pending set holds a kind the mask leaves open, with those kinds. -/
def PortCtl.nextNotice (c : PortCtl) : Option (Fin 8 × Byte) :=
  allDrives.findSome? fun n =>
    let open' := c.notices.get n &&& ~~~c.access.mask
    if open' = 0 then none else some (n, open')

/-- R159: the transmitter of a port starts the frame at the head of its highest-priority source. -/
def State.startFrame (s : State) (p : Port) : Option State :=
  let c := s.port p
  if c.sending.isSome then none
  else
    match c.replies, c.endings, c.dataReqs, s.ring.offer p, c.nextNotice with
    | f :: rest, _, _, _, _ => some (s.modPort p fun c => { c with replies := rest, sending := some f })
    | [], f :: rest, _, _, _ => some (s.modPort p fun c => { c with endings := rest, sending := some f })
    | [], [], f :: rest, _, _ => some (s.modPort p fun c => { c with dataReqs := rest, sending := some f })
    | [], [], [], some x, _ =>
      some (s.modPort p fun c => { c with sending := some (.data x.oid x.tag x.index (x.data.getD (.bytes []))) })
    | [], [], [], none, some n =>
      some (s.modPort p fun c =>
        { c with sending := some (.notice n.1 n.2), notices := c.notices.set n.1 (c.notices.get n.1 &&& ~~~n.2) })
    | [], [], [], none, none => none

def State.actSend (s : State) : Option State := allPorts.findSome? fun p => s.startFrame p

/-- One immediate action, the first that is enabled. -/
def State.act (s : State) : Option State :=
  s.actBoundary <|> s.actOffer <|> s.actSlots <|> s.actFence <|> s.actEnding <|> s.actCandidate <|> s.actSelect <|> s.actGrant <|>
    s.actSpin <|> s.actSend

/-- The immediate actions run until none is enabled, at most `fuel` of them; what the bound would leave is taken up after the
next command (log 5). -/
def settle : Nat → State → State
  | 0, s => s
  | n + 1, s =>
    match s.act with
    | some t => settle n t
    | none => s

/-- The bound on the immediate actions of one command. -/
def settleFuel : Nat := 2000

/-- A command's effect on a controller that has power: its own effect and the immediate actions that follow. A controller
without power does nothing (R21, log 2). -/
def State.run (s : State) (f : State → State) : Host.Outcome State Fault Refusal :=
  if s.powered then .next (settle settleFuel (f s)) else .next s

end Sys2Proof.Machine
end

