-- ==== Sys2Proof/Machine/Reset.lean ====
section
/-! DEFINITION. Power-on, power failure (R21, R168) and the string reset (R20, R158, R170). -/

namespace Sys2Proof.Machine

/-! ## Power-on (R1 to R4, R21, R168) -/

/-- R3: the geometry entry of the built-in types; unset for every other code. -/
def builtinGeometry (type : Nat) : Option Geometry :=
  match type with
  | 1 => some { type := 1, c := 408, h := 10, s := 32, a := 8, period := 1667 }
  | 2 => some { type := 2, c := 808, h := 16, s := 32, a := 8, period := 1667 }
  | _ => none

/-- R3: the motion profile entry of the built-in types; the type 1 values for every other code. -/
def builtinProfile (type : Nat) : Profile :=
  match type with
  | 2 => { a := 3, vmax := 48, c := 2, settle := 8, offsetUnit := 4, maxOffset := 3, burst := 32, sweep := false }
  | _ => Profile.initial

/-- R168: the power-on defaults of a drive address, from what the poll reads at it. -/
def Drive.defaults (seen : Option (Fin 16)) : Drive :=
  match seen with
  | some t => { Drive.initial with plugType := t.val, geom := builtinGeometry t.val, profile := builtinProfile t.val }
  | none => Drive.initial

/-- R162: the entries of an address put while it was not served take effect, in place of the defaults of R168, at a power-on in
channel mode 8 (log 43). A policy that does so has its verify threshold clamped to the S of the geometry then in force (log 46). -/
def Drive.withLater (x old : Drive) : Drive :=
  let y : Drive :=
    { x with
      geom := if old.geomLater then old.geom else x.geom, profile := if old.profileLater then old.profile else x.profile }
  { y with policy := if old.policyLater then old.policy.within y.sectors else y.policy }

/-- R2, R4, R21, R162, R168: a drive address at power-on, from what the poll reads at it and the entries it held. -/
def Drive.atPowerOn (mode8 isServed : Bool) (seen : Option (Fin 16)) (old : Drive) : Drive :=
  let found := if isServed then seen else none
  let x := if mode8 then (Drive.defaults found).withLater old else Drive.defaults found
  { x with
    present := found.isSome, state := if found.isSome then .waitingSpin else .absent, chan := Channel.initial x.profile,
    pool := x.freshPool }

/-- R69, R71, R21: the sector write in transfer when power is lost is left TORN. -/
def State.tearWrite (s : State) : State :=
  match s.path.holder with
  | some d => s.cutOff d
  | none => s

/-- R21, R168: all controller state rebuilt at power-on; the media stay. The defaults of R168 give way to the entries R162 says take
effect: the model's choice between the rules (log 43). -/
def State.poweredOn (s : State) (plugs : Plugs) (poll : Poll) : State :=
  { State.reset with
    plugs := plugs, drives := Oct.of fun d => Drive.atPowerOn plugs.mode8 (served plugs.mode8 d) (poll.get d) (s.drive d),
    ports := Quad.of fun p => PortCtl.initial (p = plugs.maintenance), media := s.media, cuts := s.cuts, pending := s.pending }

/-- R21: power-on. Power that comes back to a controller holding it has failed in between (log 2). -/
def State.powerOn (s : State) (plugs : Plugs) (poll : Poll) : State :=
  settle settleFuel ((if s.powered then s.tearWrite else s).poweredOn plugs poll)

/-- R21: a power failure. -/
def State.powerFail (s : State) : State := { s.tearWrite with powered := false }

/-! ## String reset: the orders and the ports (R158) -/

/-- R99, R158: an order at a string reset: one already in state ENDING is kept; another goes to ENDING, RESET unless its result
was fixed before; the STRING RESET order itself is COMPLETE. -/
def Order.atReset (own : Option Nat) (o : Order) : Order :=
  if o.state = .ending then o
  else
    let r := o.result.getD (if own = some o.oid then .complete else .reset)
    { o with state := .ending, result := some r, failing := if r.hasFailing then o.failing else none }

/-- R153, 9.10: the ENDING frame of an order whose result is fixed. -/
def Order.endingFrame (o : Order) : OutFrame :=
  .ending o.oid o.tag (o.result.getD .reset) o.done o.retry o.clamped o.failing o.body

/-- R158: the ENDING frames queued at a string reset: every occupied slot whose ENDING is not already queued, in rising tag
order, the STRING RESET order's after the others. -/
def PortCtl.resetEndings (own : Option Nat) (c : PortCtl) : List OutFrame :=
  let os := (c.slots.toList.filterMap id).filter fun o => o.state ≠ .ending
  ((os.filter fun o => own ≠ some o.oid) ++ os.filter fun o => own = some o.oid).map fun o => (o.atReset own).endingFrame

/-- R158: a frame in transmission is abandoned; a REPLY or an ENDING goes back to the head of its source. -/
def PortCtl.abandonSending (c : PortCtl) : PortCtl :=
  match c.sending with
  | some (.reply t k v) => { c with sending := none, replies := .reply t k v :: c.replies }
  | some (.ending o t r d y cl fa b) => { c with sending := none, endings := .ending o t r d y cl fa b :: c.endings }
  | some (.data _ _ _ _) | some (.dataRequest _ _ _) | some (.notice _ _) | none => { c with sending := none }

/-- R158: a port controller at a string reset. -/
def PortCtl.atReset (own : Option Nat) (c : PortCtl) : PortCtl :=
  let e := c.resetEndings own
  let k := c.abandonSending
  { k with
    slots := c.slots.map fun o => o.map (Order.atReset own), endings := k.endings ++ e, dataReqs := [], offered := none,
    notices := Oct.all 0, window := Window.cleared }

/-! ## String reset: the drives (R20) -/

/-- R20, R98, R103, R118, R154: what a string reset does to a drive sequencer and its channel before the poll. -/
def Drive.atReset (x : Drive) : Drive :=
  { x.dropInternal with queue := [], cur := none, request := false, sweepIn := true, holder := none, chan := x.chan.stop }

/-- R2: what a poll records at a served address. -/
def Drive.polled (x : Drive) (seen : Option (Fin 16)) : Drive :=
  match seen with
  | none => { x with present := false }
  | some t => { x with present := true, plugType := t.val }

/-- R20: the new state of a served address from the poll and its state and type before. -/
def State.applyPoll (s : State) (d : DriveId) (seen : Option (Fin 16)) : State :=
  let x := s.drive d
  let s1 := s.modDrive d fun x => x.polled seen
  match seen with
  | none => s1.setDriveState d .absent
  | some t =>
    match x.state with
    | .absent | .waitingSpin | .spinningUp => s1.setDriveState d .waitingSpin
    | .recalibrating | .loadingMap | .writingMap | .ready =>
      if t.val = x.plugType then s1.enterRecalibrating d else s1.setDriveState d .waitingSpin
    | .mapLost | .fenced =>
      if t.val = x.plugType then s1.modDrive d fun x => { x with pendRecal := x.geom.isSome }
      else s1.setDriveState d .waitingSpin
    | .notReady => if t.val = x.plugType then s1 else s1.setDriveState d .waitingSpin

/-- R20: the poll's result takes effect for all served addresses together (R2). -/
def State.applyPolls (s : State) (poll : Poll) : State :=
  allDrives.foldl (fun s d => if served s.plugs.mode8 d then s.applyPoll d (poll.get d) else s) s

/-! ## String reset: the whole (R170) -/

/-- R20, R135: the transfer is cut off, a REASSIGN in flight aborted, a MAP WRITE cut off leaves the map DIRTY, and the
operations end. -/
def State.cutString (s : State) : State :=
  let s1 := s.tearWrite
  allDrives.foldl (fun s d => (((s.cutMapWrite d .dirty).abortReassign d).clearOp d)) s1

/-- R170: a string reset; `own` is the serial number of the STRING RESET order that took it. -/
def State.stringReset (s : State) (cause : StartCause) (own : Option Nat) (poll : Poll) : State :=
  let s1 := s.cutString
  let s2 : State :=
    { s1 with
      startCause := cause, drives := s1.drives.map Drive.atReset, ports := s1.ports.map fun c => c.atReset own,
      path := DataPath.initial, ring := Ring.initial, wslots := Oct.all WriteSlot.free, waitList := [],
      watch := List.replicate 16 .empty, reassign := ReassignEngine.initial, verify := VerifyEngine.initial, closing := [] }
  s2.applyPolls poll

end Sys2Proof.Machine
end

