-- ==== Sys2Proof/Machine/Events.lean ====
section
/-! DEFINITION. The commands that are events of the plugs and power, of the drives' lines and of the controller's own timers
(R5 to R9, R21, R22, R71, R72, R123, R170). -/

namespace Sys2Proof.Machine

/-! ## Power and the reset line -/

/-- R21: power-on. -/
def execPowerOn (plugs : Plugs) (poll : Poll) (s : State) : Host.Outcome State Fault Refusal := .next (s.powerOn plugs poll)

/-- R21: power failure. A controller without power has nothing left to stop (log 2). -/
def execPowerFailure (s : State) : Host.Outcome State Fault Refusal := if s.powered then .next s.powerFail else .next s

/-- R170: the reset line of a host port cable. Every port's line takes the same reset. -/
def execStringResetLine (_ : Port) (poll : Poll) (s : State) : Host.Outcome State Fault Refusal :=
  s.run fun s => s.stringReset .resetLine none poll

/-! ## Rotation (R5 to R9) -/

/-- R9: 60 s in units of 10 µs. -/
def spinUpLimit : Nat := 6000000

/-- R9: a qualified drive leaves SPINNING UP; with its geometry unset it goes FENCED, and a DRIVE RESET settles there (R19). -/
def State.qualified (s : State) (d : DriveId) : State :=
  if (s.drive d).geom.isSome then s.enterRecalibrating d
  else (s.setDriveState d .fenced).endStateOrders d [.driveReset] .fenced

/-- R9: a measured interval goes to spin-up qualification. -/
def State.qualify (s : State) (d : DriveId) (interval : Nat) : State :=
  let x := s.drive d
  let q := if inTolerance x.period interval then x.qual + 1 else 0
  let s1 := s.modDrive d fun x => { x with qual := q }
  if 3 ≤ q then s1.qualified d else s1

/-- R5, R6, R7: an index pulse: the counter goes to 0, the pulse time is recorded, the interval goes to qualification in
SPINNING UP, the watchdog starts again, and sector 0 starts. In ABSENT the counter does not count (R5), and the pulse
time alone is recorded. -/
def State.indexPulse (s : State) (d : DriveId) : State :=
  let x := s.drive d
  if x.state = .absent then s.modDrive d fun x => { x with lastIndex := some s.clock }
  else
    let s1 := s.modDrive d fun x => { x with counter := 0, lastIndex := some s.clock }
    let s2 := if x.state.armed then s1.modDrive d fun x => { x with watchFrom := s.clock, watchLimit := x.twoPeriods } else s1
    let s3 := match x.lastIndex with
      | some t => if x.state = DriveState.spinningUp then s2.qualify d (s.clock - t) else s2
      | none => s2
    s3.sectorStart d 0

/-- R5: a sector pulse: the counter rises by 1 up to S−1, and the sector it names starts. A counter that a GEOMETRY PUT has left
above S−1 stays there, with no start, until the next index pulse: the model's choice (log 33). -/
def State.sectorPulse (s : State) (d : DriveId) : State :=
  let x := s.drive d
  if x.state ≠ .absent ∧ x.counter + 1 < x.sectors then
    (s.modDrive d fun x => { x with counter := x.counter + 1 }).sectorStart d (x.counter + 1)
  else s

/-- R9: the drive is in SPINNING UP and its 60 s have passed. -/
def State.spinDue (s : State) (d : DriveId) : Bool :=
  (s.drive d).state = .spinningUp && (s.drive d).spinFrom + spinUpLimit ≤ s.clock

/-- R7: the watchdog is armed and its two revolution periods have passed. -/
def State.watchdogDue (s : State) (d : DriveId) : Bool :=
  (s.drive d).state.armed && (s.drive d).watchFrom + (s.drive d).watchLimit ≤ s.clock

def execIndexPulse (d : DriveId) (s : State) : Host.Outcome State Fault Refusal := s.run fun s => s.indexPulse d

def execSectorPulse (d : DriveId) (s : State) : Host.Outcome State Fault Refusal := s.run fun s => s.sectorPulse d

/-- R9, R13; before the limit is due the command does nothing (log 29). -/
def execSpinUpLimitExpiry (d : DriveId) (s : State) : Host.Outcome State Fault Refusal :=
  s.run fun s => if s.spinDue d then s.enterNotReady d else s

/-- R7, R13; before the watchdog is due the command does nothing (log 29). -/
def execIndexWatchdogExpiry (d : DriveId) (s : State) : Host.Outcome State Fault Refusal :=
  s.run fun s => if s.watchdogDue d then s.enterNotReady d else s

/-! ## The positioner channels (R22, R34, R39) -/

/-- R22: one update of the channel of a served address. -/
def State.positionerUpdate (s : State) (d : DriveId) (home : Bool) : State :=
  if served s.plugs.mode8 d then s.channelUpdate d home else s

/-- R34: the next update of the drive's channel gives the on-cylinder report. -/
def State.reportNext (s : State) (d : DriveId) : Bool :=
  (s.drive d).chan.phase = .settling && (s.drive d).chan.settle ≤ 1

/-- R39: the next update of the drive's channel without the home sensor reaches the recalibration limit. -/
def State.limitNext (s : State) (d : DriveId) : Bool :=
  (s.drive d).chan.phase = .recal && (s.drive d).chan.recalLimit ≤ (s.drive d).chan.recalCount + 1

def execPositionerUpdate (d : DriveId) (home : Bool) (s : State) : Host.Outcome State Fault Refusal :=
  s.run fun s => s.positionerUpdate d home

/-- R34: the update whose settle count reaches 0 (log 26). -/
def execOnCylinderReport (d : DriveId) (s : State) : Host.Outcome State Fault Refusal :=
  s.run fun s => if s.reportNext d then s.channelUpdate d false else s

/-- R39: the update whose recalibration count reaches the limit without the home sensor (log 26). -/
def execRecalibrationFailed (d : DriveId) (s : State) : Host.Outcome State Fault Refusal :=
  s.run fun s => if s.limitNext d then s.channelUpdate d false else s

/-! ## The ends of sectors (R71, R72) -/

/-- The transfer under way on a drive, with its operation: the drive holds the path and its sector has begun. -/
def State.transferOf (s : State) (d : DriveId) : Option (Op × Xfer) :=
  if s.path.holder = some d then
    match (s.drive d).cur, s.path.xfer with
    | some op, some x => if x.begun then some (op, x) else none
    | _, _ => none
  else none

/-- R69: the frame the reading circuits meet: what the command says they meet, or what was laid down there (log 6). -/
def State.metFrame (s : State) (d : DriveId) (op : Op) (x : Xfer) (seen : Option Frame) : Frame :=
  seen.getD (mediaGet s.media (mediaKey d op.phys x.sector))

/-- R72: the end of a sector read. -/
def State.sectorReadEnd (s : State) (d : DriveId) (seen : Option Frame) : State :=
  match s.transferOf d with
  | some (op, x) =>
    if x.frame.isNone then s.endRead d op x (judgeFrame (op.expected d false) (s.metFrame d op x seen)) else s
  | none => s

/-- R71: the end of a sector write. -/
def State.sectorWriteEnd (s : State) (d : DriveId) : State :=
  match s.transferOf d with
  | some (op, x) =>
    match x.frame with
    | some f => s.endWrite d op x f
    | none => s
  | none => s

def execSectorReadEnd (d : DriveId) (seen : Option Frame) (s : State) : Host.Outcome State Fault Refusal :=
  s.run fun s => s.sectorReadEnd d seen

def execSectorWriteEnd (d : DriveId) (s : State) : Host.Outcome State Fault Refusal := s.run fun s => s.sectorWriteEnd d

/-! ## The watch list's windows (R123) -/

/-- R123; an entry whose window has not passed stays (log 29). -/
def execWatchWindowExpiry (slot : Fin 16) (s : State) : Host.Outcome State Fault Refusal := s.run fun s => s.expireWatch slot.val

end Sys2Proof.Machine
end

