-- ==== Sys2Proof/Machine/Frames.lean ====
section
/-! DEFINITION. The codes and byte layouts of 9.10: the frames of the part and the entry bodies of the tables. Every frame also
ends with its two-byte frame check, whose rule is not given; it is not shown here, as in 9.10. -/

namespace Sys2Proof.Machine

/-! ## Codes -/

/-- 9.10: the codes of the order kinds. -/
def OrderKind.code : OrderKind → Byte
  | .read => 0x10#8
  | .write => 0x11#8
  | .verify => 0x12#8
  | .seek => 0x13#8
  | .reserve => 0x20#8
  | .release => 0x21#8
  | .sense => 0x22#8
  | .tableSelect => 0x30#8
  | .tablePut => 0x31#8
  | .tableGet => 0x32#8
  | .readTallies => 0x33#8
  | .reassignTrack => 0x34#8
  | .surfaceVerify => 0x35#8
  | .fence => 0x36#8
  | .unfence => 0x37#8
  | .driveReset => 0x38#8
  | .commitMap => 0x39#8
  | .stringReset => 0x3A#8

/-- 9.10: the codes of the REPLY outcomes. -/
def Verdict.code : Verdict → Byte
  | .accepted => 0x00#8
  | .tagBusy => 0x01#8
  | .badOrder => 0x02#8
  | .notPermitted => 0x03#8
  | .noAccess => 0x04#8
  | .driveAbsent => 0x05#8
  | .reservedElsewhere => 0x06#8
  | .addressRange => 0x07#8
  | .driveState => 0x08#8

/-- 9.10: the codes of the ENDING results. -/
def Result.code : Result → Byte
  | .complete => 0x00#8
  | .recovered => 0x01#8
  | .dataCheck => 0x10#8
  | .dataLost => 0x11#8
  | .incompleteSector => 0x12#8
  | .seekCheck => 0x13#8
  | .notReady => 0x20#8
  | .fenced => 0x21#8
  | .mapUnavailable => 0x22#8
  | .cancelled => 0x30#8
  | .reset => 0x31#8
  | .portTimeout => 0x32#8
  | .noAlternate => 0x40#8
  | .reassignFailed => 0x41#8

/-- 9.10, SENSE codes. -/
def DriveState.code : DriveState → Byte
  | .absent => 0#8
  | .waitingSpin => 1#8
  | .spinningUp => 2#8
  | .recalibrating => 3#8
  | .loadingMap => 4#8
  | .writingMap => 5#8
  | .ready => 6#8
  | .mapLost => 7#8
  | .fenced => 8#8
  | .notReady => 9#8

def Phase.code : Phase → Byte
  | .idle => 0#8
  | .accel => 1#8
  | .cruise => 2#8
  | .decel => 3#8
  | .settling => 4#8
  | .recal => 5#8
  | .stopped => 6#8

def MapState.code : MapState → Byte
  | .clean => 0#8
  | .dirty => 1#8
  | .writing => 2#8
  | .unsaved => 3#8

def StartCause.code : StartCause → Byte
  | .powerOn => 0#8
  | .resetLine => 1#8
  | .resetOrder => 2#8

def poolCode : PoolState → Byte
  | .free => 0#8
  | .inUse => 1#8
  | .dead => 2#8
  | .map => 3#8

def originCode : Origin → Byte
  | .auto => 0#8
  | .ordered => 1#8
  | .verify => 2#8
  | .loaded => 3#8

def Cause.code : Cause → Byte
  | .recovered => 0#8
  | .unrecovered => 1#8
  | .ordered => 2#8
  | .verify => 3#8

def WatchState.code : WatchState → Byte
  | .counting => 0#8
  | .candidate => 1#8
  | .stuck => 2#8

def Right.code : Right → Nat
  | .none => 0
  | .read => 1
  | .write => 2

/-- 9.10: the table identifiers 1 to 7. -/
def TableId.ofCode : Nat → Option TableId
  | 1 => some .portAccess
  | 2 => some .geometry
  | 3 => some .motionProfile
  | 4 => some .sparingPolicy
  | 5 => some .spareMap
  | 6 => some .alternatePool
  | 7 => some .watchList
  | _ => none

def byteOf (n : Nat) : Byte := BitVec.ofNat 8 n

/-- A four-byte field, high byte first, of the lowest 32 bits of a time (9.10). -/
def word4 (n : Nat) : List Byte := half (n / 65536) ++ half n

/-! ## Frames of the part -/

/-- 9.10: the bytes of a frame of the part, without its frame check. -/
def OutFrame.encode : OutFrame → List Byte
  | .reply tag kind v => [0x81#8, byteOf tag.val, kind, v.code]
  | .ending _ tag r done retry clamped failing body =>
    let fa := failing.getD ⟨0, 0, 0⟩
    [0x82#8, byteOf tag.val, r.code] ++ half done ++
      [byteOf retry, byteOf ((if failing.isSome then 1 else 0) + (if clamped then 2 else 0))] ++ half fa.cyl ++
      [byteOf fa.head, byteOf fa.sector, byteOf body.length] ++ body
  | .data _ tag index p => [0x83#8, byteOf tag.val, byteOf index] ++ payloadBytes p
  | .dataRequest _ tag index => [0x84#8, byteOf tag.val, byteOf index]
  | .notice n kinds => [0x85#8, byteOf n.val, kinds]

/-! ## Ending bodies -/

/-- R155, 9.10: the SENSE body of a drive as a port sees it under a logical drive. -/
def State.senseBody (s : State) (p : Port) (logical : Fin 8) (d : DriveId) : List Byte :=
  let x := s.drive d
  [x.state.code] ++ (match x.chan.armCyl with | some c => half c | none => [0xFF#8, 0xFF#8]) ++
  [x.chan.phase.code, (match x.holder with | some q => byteOf q.val | none => 0xFF#8), x.mapState.code,
   byteOf (x.queue.length + x.pendRecal.toNat + x.pendLoad.toNat + x.pendWrite.toNat + x.pendReassign.toNat),
   (s.port p).notices.get logical, byteOf ((x.geom.map Geometry.type).getD x.plugType), byteOf s.plugs.identity.val,
   s.startCause.code]

/-- R169: the 11 per-drive counters in body order. -/
def DriveTallies.counters (t : DriveTallies) : List Nat :=
  [t.seeks, t.hardArrivals, t.seekChecks, t.recoveredReads, t.unrecoveredReads, t.incompleteSectors, t.arbiterMisses,
   t.ringMisses, t.slotMisses, t.reassignments, t.reassignFailures]

/-- R169: the 3 per-port counters in body order. -/
def PortCtl.counters (c : PortCtl) : List Nat := [c.refusals, c.timeouts, c.protocolErrors]

/-- R169, 9.10: the READ TALLIES body, 202 bytes. -/
def State.tallyBody (s : State) : List Byte :=
  (s.drives.toList.flatMap fun x => x.tally.counters.flatMap half) ++
    (s.ports.toList.flatMap fun c => c.counters.flatMap half) ++ half s.watchOverflows

/-! ## Entry bodies -/

/-- The value of a byte of a body. -/
def byteAt (b : List Byte) (i : Nat) : Nat := (b.getD i 0#8).toNat

/-- The value of a two-byte field of a body, high byte first. -/
def halfAt (b : List Byte) (i : Nat) : Nat := byteAt b i * 256 + byteAt b (i + 1)

/-- 9.10: one byte of a PORT ACCESS entry body. -/
def Access.encode (a : Access) : Byte :=
  byteOf (a.right.code * 16 + (match a.phys with | some d => d.val | none => 15))

/-- 9.10: one byte of a PORT ACCESS entry body read, none when a code is not one of the table's (R165). -/
def Access.decode (b : Nat) : Option Access :=
  let phys : Option (Option DriveId) :=
    if h : b % 16 < 8 then some (some ⟨b % 16, h⟩) else if b % 16 = 15 then some none else none
  let right : Option Right := match b / 16 with
    | 0 => some .none
    | 1 => some .read
    | 2 => some .write
    | _ => none
  match phys, right with
  | some ph, some r => some { phys := ph, right := r }
  | _, _ => none

def PortAccess.encode (a : PortAccess) : List Byte :=
  a.logical.toList.map Access.encode ++ [byteOf a.maintenance.toNat, a.mask]

/-- R165, 9.10: a PORT ACCESS body read; the mask keeps the bits of the six kinds (log 22). -/
def PortAccess.decode (b : List Byte) : Option PortAccess :=
  match (List.range 8).mapM fun i => Access.decode (byteAt b i) with
  | some [a0, a1, a2, a3, a4, a5, a6, a7] =>
    if byteAt b 8 ≤ 1 then
      some { logical := ⟨a0, a1, a2, a3, a4, a5, a6, a7⟩, maintenance := byteAt b 8 = 1, mask := b.getD 9 0#8 &&& 0x3F#8 }
    else none
  | _ => none

/-- R166, 9.10: a GEOMETRY body; type FFH and every other field 0 while unset. -/
def Geometry.encode : Option Geometry → List Byte
  | none => [0xFF#8, 0#8, 0#8, 0#8, 0#8, 0#8, 0#8, 0#8]
  | some g => [byteOf g.type] ++ half g.c ++ [byteOf g.h, byteOf g.s, byteOf g.a] ++ half g.period

def Geometry.decode (b : List Byte) : Geometry :=
  { type := byteAt b 0, c := halfAt b 1, h := byteAt b 3, s := byteAt b 4, a := byteAt b 5, period := halfAt b 6 }

def Profile.encode (p : Profile) : List Byte :=
  [byteOf p.a, byteOf p.vmax, byteOf p.c, byteOf p.settle, byteOf p.offsetUnit, byteOf p.maxOffset, byteOf p.burst,
   byteOf p.sweep.toNat]

def Profile.decode (b : List Byte) : Profile :=
  { a := byteAt b 0, vmax := byteAt b 1, c := byteAt b 2, settle := byteAt b 3, offsetUnit := byteAt b 4,
    maxOffset := byteAt b 5, burst := byteAt b 6, sweep := byteAt b 7 = 1 }

def Policy.encode (p : Policy) : List Byte :=
  [byteOf p.auto.toNat, byteOf p.threshold, byteOf p.window, byteOf p.verifyThreshold]

def Policy.decode (b : List Byte) : Policy :=
  { auto := byteAt b 0 = 1, threshold := byteAt b 1, window := byteAt b 2, verifyThreshold := byteAt b 3 }

/-- 9.10: a SPARE MAP body of GET, 11 bytes; an absent replacement has the cylinder FFFFH and a head left open (log 23). -/
def SpareEntry.encode (e : SpareEntry) : List Byte :=
  half e.home.cyl ++ [byteOf e.home.head] ++ half e.alt.cyl ++ [byteOf e.alt.head, byteOf e.pending.toNat, originCode e.origin] ++
    (match e.replacement with
     | some t => half t.cyl ++ [byteOf t.head]
     | none => [0xFF#8, 0xFF#8, Config.absentReplacementHead e.slot])

/-- 9.10: a WATCH LIST body of GET, 15 bytes. -/
def WatchEntry.encode (e : WatchEntry) : List Byte :=
  [byteOf e.drive.val] ++ half e.home.cyl ++ [byteOf e.home.head, byteOf e.count] ++ word4 e.windowStart ++
    (match e.candTime with
     | some t => word4 t
     | none => [0xFF#8, 0xFF#8, 0xFF#8, 0xFF#8]) ++
    [(match e.cause with | some c => c.code | none => 0xFF#8), e.state.code]

end Sys2Proof.Machine
end

