-- ==== Sys2Proof/Machine/Tables.lean ====
section
/-! DEFINITION. The table store through the table windows (R162 to R168, R67, R68): what each PUT changes and each GET
returns, with the conditions under which it is refused. -/

namespace Sys2Proof.Machine

/-! ## The window (R162, R164) -/

/-- R162: the last index of a table. -/
def TableId.lastIndex : TableId → Nat
  | .portAccess => 3
  | .geometry | .motionProfile | .sparingPolicy => 7
  | .spareMap | .alternatePool => 127
  | .watchList => 15

/-- R164 step 2: whether a body has the length a PUT to the table calls for (9.10). The watch list takes no PUT. -/
def TableId.lengthOk : TableId → Nat → Bool
  | .portAccess, n => n = 10
  | .geometry, n | .motionProfile, n => n = 8
  | .sparingPolicy, n => n = 4
  | .spareMap, n => n = 6 || n = 0
  | .alternatePool, n => n = 1
  | .watchList, _ => true

/-- The drive address an index of a settings table names (R162). -/
def driveOf (n : Nat) : DriveId := ⟨n % 8, Nat.mod_lt n (by decide)⟩

/-- The port an index of the PORT ACCESS table names (R162). -/
def portOf (n : Nat) : Port := ⟨n % 4, Nat.mod_lt n (by decide)⟩

/-- R164 step 3: the drive an entry of the table belongs to. -/
def Window.entryDrive (w : Window) : Option DriveId :=
  match w.table with
  | some .geometry | some .motionProfile | some .sparingPolicy => some (driveOf w.index)
  | some .spareMap | some .alternatePool => some w.drive
  | some .portAccess | some .watchList | none => none

/-- R164 step 5: the index moves on, and stays at the last index of the table. -/
def Window.step (w : Window) : Window :=
  match w.table with
  | some t => if w.advance && w.index < t.lastIndex then { w with index := w.index + 1 } else w
  | none => w

/-- R150 check 7, R164 step 3: a port other than this one holds the drive's reservation. -/
def State.reservedElsewhere (s : State) (p : Port) (d : DriveId) : Bool :=
  match (s.drive d).holder with
  | some q => q ≠ p
  | none => false

/-- R151: the coded fields of a PUT body hold codes of 9.10, judged at check 2 on a body of the table's length (log 20). -/
def codedOk (t : TableId) (b : List Byte) : Bool :=
  match t with
  | .portAccess => (PortAccess.decode b).isSome
  | .motionProfile => byteAt b 7 ≤ 1
  | .sparingPolicy => byteAt b 0 ≤ 1
  | .alternatePool => byteAt b 0 ≤ 3
  | .geometry | .spareMap | .watchList => true

/-! ## PORT ACCESS (R165) -/

/-- R165: a logical drive is mapped. -/
def Access.mapped (a : Access) : Bool := a.phys.isSome && a.right ≠ .none

/-- R165: the drives the mapped logical drives of an entry name. -/
def PortAccess.names (a : PortAccess) : List DriveId :=
  a.logical.toList.filterMap fun x => if x.mapped then x.phys else none

/-- R165: the entry of another port grants the maintenance right. -/
def State.othersMaintain (s : State) (q : Port) : Bool :=
  allPorts.any fun p => p ≠ q && (s.port p).access.maintenance

/-- R165: why a PUT of the entry of port `q` is refused. One that names a drive twice and takes away the last maintenance right is BAD
ORDER, as its values are judged first: the model's choice (log 45). -/
def State.portAccessRefusal (s : State) (q : Port) (a : PortAccess) : Option Verdict :=
  if ¬ a.names.Nodup then some .badOrder
  else if (s.port q).access.maintenance && !a.maintenance && !s.othersMaintain q then some .notPermitted
  else none

/-- R165: the entry of port `q` is stored: notices of logical drives whose physical drive changes are cleared, and the port's
reservations of drives it no longer names end. -/
def State.putPortAccess (s : State) (q : Port) (a : PortAccess) : State :=
  let s1 := s.modPort q fun c =>
    { c with
      access := a,
      notices := Oct.of fun n => if (c.access.logical.get n).phys = (a.logical.get n).phys then c.notices.get n else 0 }
  { s1 with drives := Oct.of fun d =>
      if (s1.drive d).holder = some q ∧ d ∉ a.names then { s1.drive d with holder := none } else s1.drive d }

/-! ## GEOMETRY (R166) -/

/-- A SURFACE VERIFY is queued on the drive. -/
def State.surfaceQueued (s : State) (d : DriveId) : Bool :=
  (s.drive d).queue.any fun oid => (s.findOrder oid).any fun e => e.2.kind = .surfaceVerify

/-- R166: the drive conditions of a GEOMETRY PUT. -/
def State.geometryOpen (s : State) (d : DriveId) : Bool :=
  ((s.drive d).state = .fenced || (s.drive d).geom.isNone) && (s.drive d).cur.isNone && !(s.drive d).pendWrite &&
    !s.surfaceQueued d

/-- R166: the values a GEOMETRY PUT must carry. -/
def Geometry.acceptable (g : Geometry) : Bool := g.type ≤ 15 && g.consistent && 500 ≤ g.period && g.period ≤ 5000

/-- R166: why a GEOMETRY PUT is refused. -/
def State.geometryRefusal (s : State) (d : DriveId) (g : Geometry) : Option Verdict :=
  if !s.geometryOpen d then some .driveState else if !g.acceptable then some .badOrder else none

/-- R47: the five values of the division are equal. -/
def Geometry.sameDivision (g h : Geometry) : Bool := g.type = h.type && g.c = h.c && g.h = h.h && g.s = h.s && g.a = h.a

/-- R44, R47, R166: what a stored geometry does at an address with a channel: the channel stops, a queued RECALIBRATE is dropped, the
verify threshold is clamped to the new S, and R47 decides on the map. -/
def State.newGeometry (s : State) (d : DriveId) (g : Geometry) : State :=
  let same := ((s.drive d).geom.map fun h => g.sameDivision h).getD false
  let s1 := (s.stopChannel d).modDrive d fun x =>
    { x with pendRecal := false, geom := some g, geomLater := false, policy := x.policy.within g.s }
  if same then s1 else (s1.modDrive d Drive.emptyMap).forgetDrive d

/-- R166: an accepted GEOMETRY PUT. At an address with no channel the table entry alone changes (R44), to take effect later (R162). -/
def State.putGeometry (s : State) (d : DriveId) (g : Geometry) : State :=
  if served s.plugs.mode8 d then s.newGeometry d g else s.modDrive d fun x => { x with geom := some g, geomLater := true }

/-! ## MOTION PROFILE and SPARING POLICY (R167) -/

/-- R167: the clamped motion profile: vmax first, then c into 1 to 15 and not above vmax. -/
def Profile.clamped (p : Profile) : Profile :=
  { a := clampTo 1 15 p.a, vmax := clampTo 1 255 p.vmax, c := min (clampTo 1 15 p.c) (clampTo 1 255 p.vmax),
    settle := clampTo 1 63 p.settle, offsetUnit := clampTo 1 8 p.offsetUnit, maxOffset := clampTo 0 7 p.maxOffset,
    burst := clampTo 1 32 p.burst, sweep := p.sweep }

/-- R167: the clamped policy for a drive with the given sectors per track. -/
def Policy.clamped (sectors : Nat) (p : Policy) : Policy :=
  { auto := p.auto, threshold := clampTo 1 15 p.threshold, window := clampTo 1 255 p.window,
    verifyThreshold := clampTo 1 sectors p.verifyThreshold }

/-- R27: what a channel does with a stored profile: in force at once in IDLE and STOPPED, staged otherwise. -/
def Channel.takeProfile (p : Profile) (ch : Channel) : Channel :=
  match ch.phase with
  | .idle | .stopped => { ch with profile := p, staged := none }
  | .accel | .cruise | .decel | .settling | .recal => { ch with staged := some p }

/-- R167, R27: a clamped profile is stored and handed to the drive's channel; an address with no channel in the channel mode has
its table entry changed alone, to take effect later (R162). -/
def State.putProfile (s : State) (d : DriveId) (p : Profile) : State :=
  s.modDrive d fun x =>
    { x with
      profile := p, profileLater := !served s.plugs.mode8 d,
      chan := if served s.plugs.mode8 d then x.chan.takeProfile p else x.chan }

/-- R167, R123: a clamped policy is stored; COUNTING entries whose window has passed expire. -/
def State.putPolicy (s : State) (d : DriveId) (p : Policy) : State :=
  (s.modDrive d fun x => { x with policy := p, policyLater := !served s.plugs.mode8 d }).expireAll

/-! ## SPARE MAP and ALTERNATE POOL (R67, R68) -/

/-- R67: the drive conditions of a PUT to the spare map or the pool. -/
def State.mapEditable (s : State) (d : DriveId) : Bool :=
  ((s.drive d).state = .fenced || (s.drive d).state = .mapLost) && (s.drive d).geom.isSome &&
    ((s.drive d).cur.all fun op => !op.kind.hostOrdered) && !s.surfaceQueued d

/-- The entry in a slot of a spare map. -/
def Drive.slotEntry (x : Drive) (i : Nat) : Option SpareEntry := x.spare.find? fun e => e.slot = i

/-- The state of the pool position of a track. -/
def Drive.trackState (x : Drive) (g : Geometry) (t : Track) : Option PoolState := x.pool[g.trackPos t]?

/-- R67: the entry a PUT carries for a slot: ASSIGNED, LOADED, with no pending replacement. -/
def loadedEntry (i : Nat) (b : List Byte) : SpareEntry :=
  { slot := i, home := { cyl := halfAt b 0, head := byteAt b 2 }, alt := { cyl := halfAt b 3, head := byteAt b 5 },
    pending := false, origin := .loaded, replacement := none }

/-- R67: the cases in which a PUT of an entry is refused BAD ORDER. -/
def Drive.entryBad (x : Drive) (g : Geometry) (e : SpareEntry) : Bool :=
  !g.isUser e.home || (x.spare.any fun f => f.slot ≠ e.slot && f.home = e.home) || !g.isPool e.alt || e.alt = g.mapTrack ||
    (x.trackState g e.alt ≠ some .free && (x.slotEntry e.slot).map SpareEntry.alt ≠ some e.alt)

/-- R67: why a SPARE MAP PUT is refused. An empty body is refused by the drive conditions alone. -/
def State.spareRefusal (s : State) (d : DriveId) (i : Nat) (b : List Byte) : Option Verdict :=
  if !s.mapEditable d then some .driveState
  else
    match (s.drive d).geom with
    | none => some .driveState
    | some g => if b ≠ [] ∧ (s.drive d).entryBad g (loadedEntry i b) then some .badOrder else none

/-- R67: an entry is written into its slot; a different alternate the slot held becomes FREE in the same step. -/
def Drive.storeEntry (x : Drive) (e : SpareEntry) : Drive :=
  let y := match x.slotEntry e.slot with
    | some o => if o.alt = e.alt then x else x.markTrack o.alt .free
    | none => x
  { y.markTrack e.alt .inUse with spare := putEntry x.spare e }

/-- R67: a slot's entry is removed and its alternate becomes FREE. -/
def Drive.removeSlot (x : Drive) (o : SpareEntry) : Drive :=
  { x.markTrack o.alt .free with spare := x.spare.filter fun e => e.slot ≠ o.slot }

/-- R67: an accepted SPARE MAP PUT; one that changes the slot makes the map DIRTY. -/
def Drive.putSlot (x : Drive) (i : Nat) (b : List Byte) : Drive :=
  match b, x.slotEntry i with
  | [], none => x
  | [], some o => (x.removeSlot o).mapChanged
  | _, o => if o = some (loadedEntry i b) then x else (x.storeEntry (loadedEntry i b)).mapChanged

/-- R68: the state an ALTERNATE POOL PUT carries, FREE or DEAD. -/
def poolPutState (b : List Byte) : Option PoolState :=
  match byteAt b 0 with
  | 0 => some .free
  | 2 => some .dead
  | _ => none

/-- R68: why an ALTERNATE POOL PUT is refused. -/
def State.poolRefusal (s : State) (d : DriveId) (i : Nat) (b : List Byte) : Option Verdict :=
  if !s.mapEditable d then some .driveState
  else
    match (s.drive d).geom with
    | none => some .driveState
    | some g =>
      if g.poolSize ≤ i ∨ i = g.mapPos ∨ (s.drive d).pool[i]? = some .inUse ∨ (poolPutState b).isNone then some .badOrder
      else none

/-- R68: an accepted ALTERNATE POOL PUT; one that differs from the state held makes the map DIRTY. -/
def Drive.putPool (x : Drive) (i : Nat) (st : PoolState) : Drive :=
  if x.pool[i]? = some st then x else ({ x with pool := x.pool.set i st } : Drive).mapChanged

/-! ## PUT and GET (R164) -/

/-- R164 step 3: the table's own conditions of a PUT. -/
def State.putRefusal (s : State) (w : Window) (t : TableId) (b : List Byte) : Option Verdict :=
  match t with
  | .portAccess =>
    match PortAccess.decode b with
    | none => some .badOrder
    | some a => s.portAccessRefusal (portOf w.index) a
  | .geometry => s.geometryRefusal (driveOf w.index) (Geometry.decode b)
  | .motionProfile | .sparingPolicy => none
  | .spareMap => s.spareRefusal w.drive w.index b
  | .alternatePool => s.poolRefusal w.drive w.index b
  | .watchList => some .badOrder

/-- R164 steps 1 to 3: why a PUT of a body through a port's window is refused. -/
def State.tablePutRefusal (s : State) (p : Port) (b : List Byte) : Option Verdict :=
  let w := (s.port p).window
  match w.table with
  | none => some .badOrder
  | some t =>
    if !t.lengthOk b.length then some .badOrder
    else if (w.entryDrive.any fun d => s.reservedElsewhere p d) then some .reservedElsewhere
    else s.putRefusal w t b

/-- R164 step 4: the entry stored by an accepted PUT, and whether a clamp changed a value of the body. -/
def State.storePut (s : State) (w : Window) (t : TableId) (b : List Byte) : State × Bool :=
  match t with
  | .portAccess =>
    match PortAccess.decode b with
    | none => (s, false)
    | some a => (s.putPortAccess (portOf w.index) a, false)
  | .geometry => (s.putGeometry (driveOf w.index) (Geometry.decode b), false)
  | .motionProfile =>
    let p := Profile.decode b
    (s.putProfile (driveOf w.index) p.clamped, p.clamped ≠ p)
  | .sparingPolicy =>
    let p := Policy.decode b
    let q := p.clamped (s.drive (driveOf w.index)).sectors
    (s.putPolicy (driveOf w.index) q, q ≠ p)
  | .spareMap => (s.modDrive w.drive fun x => x.putSlot w.index b, false)
  | .alternatePool =>
    match poolPutState b with
    | none => (s, false)
    | some st => (s.modDrive w.drive fun x => x.putPool w.index st, false)
  | .watchList => (s, false)

/-- R164 step 5: the window of a port moves on. -/
def State.stepWindow (s : State) (p : Port) : State := s.modPort p fun c => { c with window := c.window.step }

/-- R164: an accepted PUT: the entry stored and the window moved on, with the CLAMPED flag. -/
def State.tablePut (s : State) (p : Port) (b : List Byte) : State × Bool :=
  let w := (s.port p).window
  match w.table with
  | none => (s, false)
  | some t => ((s.storePut w t b).1.stepWindow p, (s.storePut w t b).2)

/-- R68, R168: the state of a pool position of a geometry: the one held, else that of the power-on default, FREE but for the map track. The
pool of an address whose geometry was put while it was not served holds none (log 46). -/
def Drive.poolState (x : Drive) (g : Geometry) (i : Nat) : PoolState := x.pool[i]?.getD (if i = g.mapPos then .map else .free)

/-- R164 to R168, R67, R68: the entry body a GET returns, or why it is refused. -/
def State.getBody (s : State) (w : Window) (t : TableId) : Except Verdict (List Byte) :=
  match t with
  | .portAccess => .ok (s.port (portOf w.index)).access.encode
  | .geometry => .ok (Geometry.encode (s.drive (driveOf w.index)).geom)
  | .motionProfile => .ok (s.drive (driveOf w.index)).profile.encode
  | .sparingPolicy => .ok (s.drive (driveOf w.index)).policy.encode
  | .spareMap =>
    .ok (if (s.drive w.drive).geom.isNone then []
      else (((s.drive w.drive).slotEntry w.index).map SpareEntry.encode).getD [])
  | .alternatePool =>
    match (s.drive w.drive).geom with
    | none => .error .badOrder
    | some g => if w.index < g.poolSize then .ok [poolCode ((s.drive w.drive).poolState g w.index)] else .error .badOrder
  | .watchList => .ok (((watchEntry s.watch w.index).map WatchEntry.encode).getD [])

/-- R164: what a GET through a port's window answers. -/
def State.tableGet (s : State) (p : Port) : Except Verdict (List Byte) :=
  let w := (s.port p).window
  match w.table with
  | none => .error .badOrder
  | some t =>
    if (w.entryDrive.any fun d => s.reservedElsewhere p d) then .error .reservedElsewhere else s.getBody w t

end Sys2Proof.Machine
end

