-- ==== Sys2Proof/Machine/Accept.lean ====
section
/-! DEFINITION. Acceptance of ORDER frames (R148 to R153): the nine checks in their order, the refusal, the acceptance and the
order record made. -/

namespace Sys2Proof.Machine

/-! ## Fields (R148, R151) -/

/-- R148: the tag a tag byte names, none outside 0 to 3. -/
def tagOf (b : Byte) : Option Tag := if h : b.toNat < 4 then some ⟨b.toNat, h⟩ else none

/-- The logical drive a byte names, none outside 0 to 7. -/
def logicalOf (b : Byte) : Option (Fin 8) := if h : b.toNat < 8 then some ⟨b.toNat, h⟩ else none

/-- 9.10: the flag bits an order kind defines. -/
def OrderKind.flagBits : OrderKind → Byte
  | .surfaceVerify => 1#8
  | .tableSelect => 2#8
  | .read | .write | .verify | .seek | .reserve | .release | .sense | .tablePut | .tableGet | .readTallies | .reassignTrack
  | .fence | .unfence | .driveReset | .commitMap | .stringReset => 0#8

/-- R140: the flags select destructive mode. -/
def destructiveFlag (f : OrderFrame) : Bool := f.flags &&& 1#8 = 1#8

/-- R163: the table and the index of a TABLE SELECT are in range. -/
def selectOk (f : OrderFrame) : Bool :=
  match TableId.ofCode f.sector.toNat with
  | some t => f.parameter.toNat ≤ t.lastIndex
  | none => false

/-- R151, R164: the coded fields of the entry body of a TABLE PUT, judged against the window's table when the body has its
length (log 20). -/
def PortCtl.putCodesOk (c : PortCtl) (f : OrderFrame) : Bool :=
  match c.window.table with
  | some t => !t.lengthOk f.body.length || codedOk t f.body
  | none => true

/-- R151: check 2. -/
def State.fieldsOk (s : State) (k : OrderKind) (f : OrderFrame) : Bool :=
  f.logical.toNat ≤ 7 && f.flags &&& ~~~k.flagBits = 0#8 && f.body.length ≤ 16 &&
    match k with
    | .read | .write | .verify => f.body.isEmpty && 1 ≤ f.count.toNat
    | .surfaceVerify => f.body.isEmpty && 1 ≤ f.parameter.toNat
    | .tableSelect => f.body.isEmpty && selectOk f
    | .tablePut => (s.port f.port).putCodesOk f
    | .seek | .reserve | .release | .sense | .tableGet | .readTallies | .reassignTrack | .fence | .unfence | .driveReset
    | .commitMap | .stringReset => f.body.isEmpty

/-- R151: check 8. An order that carries an address is out of range while the geometry is unset. -/
def addressOk (g : Option Geometry) (k : OrderKind) (f : OrderFrame) : Bool :=
  match k, g with
  | .read, some g | .write, some g | .verify, some g =>
    f.cyl.toNat < g.userCyls && f.head.toNat < g.h && f.sector.toNat < g.s &&
      f.head.toNat * g.s + f.sector.toNat + f.count.toNat ≤ g.h * g.s
  | .seek, some g => f.cyl.toNat < g.userCyls
  | .surfaceVerify, some g =>
    f.cyl.toNat < g.userCyls && f.head.toNat < g.h && f.cyl.toNat * g.h + f.head.toNat + f.parameter.toNat ≤ g.userTracks
  | .reassignTrack, some g => f.cyl.toNat < g.userCyls && f.head.toNat < g.h
  | .read, none | .write, none | .verify, none | .seek, none | .surfaceVerify, none | .reassignTrack, none => false
  | .reserve, _ | .release, _ | .sense, _ | .tableSelect, _ | .tablePut, _ | .tableGet, _ | .readTallies, _ | .fence, _
  | .unfence, _ | .driveReset, _ | .commitMap, _ | .stringReset, _ => true

/-- R17: nothing of the drive is current or queued, and no FENCE order of it is outstanding. -/
def State.idleForUnfence (s : State) (d : DriveId) : Bool :=
  let x := s.drive d
  x.cur.isNone && x.queue.isEmpty && !x.pendRecal && !x.pendLoad && !x.pendWrite && !x.pendReassign &&
    (s.ordersOf d fun o => o.kind = .fence).isEmpty

/-- R152: check 9, with the conditions beyond the drive state. -/
def State.stateAllows (s : State) (d : DriveId) (k : OrderKind) (f : OrderFrame) : Bool :=
  let x := s.drive d
  match k with
  | .read | .write | .verify | .seek => x.state.takesHostData
  | .surfaceVerify => if destructiveFlag f then x.state = .fenced else x.state = .ready
  | .reassignTrack => x.state = .ready
  | .fence => x.state = .ready || x.state = .mapLost || x.state = .notReady
  | .unfence => x.state = .fenced && x.geom.isSome && s.idleForUnfence d
  | .commitMap => (x.state = .fenced || x.state = .mapLost) && x.geom.isSome
  | .driveReset | .reserve | .release | .sense | .tableSelect | .tablePut | .tableGet | .readTallies | .stringReset => true

/-- R150 check 6: the kinds that need the WRITE right. -/
def needsWrite (k : OrderKind) (f : OrderFrame) : Bool :=
  k = .write || k = .reserve || (k = .surfaceVerify && destructiveFlag f)

/-- R150: the port's access entry for the frame's logical drive. -/
def State.accessOf (s : State) (f : OrderFrame) : Access :=
  match logicalOf f.logical with
  | some n => (s.port f.port).access.logical.get n
  | none => { phys := none, right := .none }

/-- R150: checks 4 to 9, for an order that names a drive. -/
def State.judgeDrive (s : State) (k : OrderKind) (f : OrderFrame) : Option Verdict :=
  match (s.accessOf f).phys with
  | none => some .noAccess
  | some d =>
    if (s.accessOf f).right = .none then some .noAccess
    else if (s.drive d).state = .absent then some .driveAbsent
    else if needsWrite k f && (s.accessOf f).right ≠ .write then some .noAccess
    else if s.reservedElsewhere f.port d then some .reservedElsewhere
    else if !addressOk (s.drive d).geom k f then some .addressRange
    else if !s.stateAllows d k f then some .driveState
    else none

/-- The own conditions of the table orders (R150, R164). -/
def State.judgeTable (s : State) (k : OrderKind) (f : OrderFrame) : Option Verdict :=
  match k with
  | .tablePut => s.tablePutRefusal f.port f.body
  | .tableGet =>
    match s.tableGet f.port with
    | .error v => some v
    | .ok _ => none
  | .tableSelect | .readTallies | .stringReset | .read | .write | .verify | .seek | .surfaceVerify | .reserve | .release | .sense
  | .reassignTrack | .fence | .unfence | .driveReset | .commitMap => none

/-- R150: the checks in their order; the first that fails gives the refusal. -/
def State.judge (s : State) (k : OrderKind) (f : OrderFrame) (tag : Tag) : Option Verdict :=
  if ((s.port f.port).slots.get tag).isSome then some .tagBusy
  else if !s.fieldsOk k f then some .badOrder
  else if k.maintenance && !(s.port f.port).access.maintenance then some .notPermitted
  else if k.namesDrive then s.judgeDrive k f
  else s.judgeTable k f

/-! ## Refusal and acceptance -/

/-- A REPLY is queued at a port's transmitter (R150, R159). -/
def State.queueReply (s : State) (p : Port) (tag : Tag) (kind : Byte) (v : Verdict) : State :=
  s.modPort p fun c => { c with replies := c.replies ++ [.reply tag kind v] }

/-- R150: a refusal raises REFUSALS and queues a REPLY with the reason. -/
def State.refuse (s : State) (p : Port) (tag : Tag) (kind : Byte) (v : Verdict) : State :=
  (s.countRefusal p).queueReply p tag kind v

/-- R99, R153: the order record made at acceptance. A SURFACE VERIFY's body holds its four counts from the start (R147). -/
def newOrder (oid : Nat) (tag : Tag) (k : OrderKind) (f : OrderFrame) (d : Option DriveId) : Order :=
  { oid := oid, tag := tag, kind := k, logical := f.logical.toNat, drive := d,
    start := { cyl := f.cyl.toNat, head := f.head.toNat, sector := f.sector.toNat }, count := f.count.toNat, flags := f.flags,
    parameter := f.parameter.toNat, state := if k.driveQueued then .queued else .active, done := 0, retry := 0, passOver := 0,
    failing := none, result := none, held := none, clamped := false,
    body := if k = .surfaceVerify then List.replicate 8 0#8 else [], bound := false }

/-- R149, R150: an acceptance: the order in its slot and a REPLY queued with ACCEPTED. -/
def State.accept (s : State) (k : OrderKind) (f : OrderFrame) (tag : Tag) (d : Option DriveId) : State :=
  let o := newOrder s.nextOid tag k f d
  State.queueReply { s with ports := (s.modPort f.port fun c => { c with slots := c.slots.set tag (some o) }).ports,
                            nextOid := s.nextOid + 1 } f.port tag k.code .accepted

/-- R148, R150: a received ORDER frame. One with a bad check or a tag outside 0 to 3 is discarded and counted; a refused one
gets its REPLY; an accepted one is handed on (R153) with its serial number and physical drive. -/
def State.receiveOrder (s : State) (k : OrderKind) (f : OrderFrame) (go : Nat → DriveId → State → State) : State :=
  match f.checkOk, tagOf f.tag with
  | true, some tag =>
    match s.judge k f tag with
    | some v => s.refuse f.port tag k.code v
    | none =>
      let d := (s.accessOf f).phys.getD 0
      go s.nextOid d (s.accept k f tag (if k.namesDrive then some d else none))
  | _, _ => s.protocolError f.port

end Sys2Proof.Machine
end

