-- ==== Sys2Proof/Machine/Link.lean ====
section
/-! DEFINITION. The commands of the link that are no accepted order: host DATA (R94), CANCEL (R156), PORT RESET (R157), the taking
of a frame (R149, R159), the two timeouts of the staging store (R90, R96), and frames of no known kind (R148). -/

namespace Sys2Proof.Machine

/-- R90, R96: 2 s in units of 10 µs. -/
def twoSeconds : Nat := 200000

/-! ## Host DATA (R94) -/

/-- R94: the REQUESTED slot of a port for a tag and a sector index. -/
def State.requestedSlot (s : State) (p : Port) (tag : Tag) (index : Nat) : Option (Fin 8) :=
  ([0, 1, 2, 3, 4, 5, 6, 7] : List (Fin 8)).find? fun i =>
    (s.wslots.get i).state = .requested && (s.wslots.get i).port = p && (s.wslots.get i).tag = tag &&
      (s.wslots.get i).index = index

/-- R94: a good DATA frame fills the slot it matches; any other DATA frame is discarded and counted. -/
def State.receiveData (s : State) (f : DataFrame) : State :=
  match f.checkOk, tagOf f.tag with
  | true, some tag =>
    match s.requestedSlot f.port tag f.index.toNat with
    | some i => s.setWslot i { s.wslots.get i with state := .full, data := f.data }
    | none => s.protocolError f.port
  | _, _ => s.protocolError f.port

def execHostDataFrame (f : DataFrame) (s : State) : Host.Outcome State Fault Refusal := s.run fun s => s.receiveData f

/-! ## CANCEL (R156) -/

/-- R156: what a CANCEL does to the order its tag's slot holds. A drive-state order, REASSIGN TRACK or COMMIT MAP whose ENDING is
queued is taken by row 4, with nothing counted: the model's choice (log 42). -/
def State.cancelOrder (s : State) (p : Port) (o : Order) : State :=
  if o.state = .ending || o.kind.immediate then s
  else if o.kind.driveQueued then (if o.live then s.endTogether [o.oid] .cancelled true else s)
  else s.protocolError p

/-- R148, R156: a received CANCEL. -/
def State.receiveCancel (s : State) (f : CancelFrame) : State :=
  match f.checkOk, tagOf f.tag with
  | true, some tag =>
    match (s.port f.port).slots.get tag with
    | some o => s.cancelOrder f.port o
    | none => s.protocolError f.port
  | _, _ => s.protocolError f.port

def execCancel (f : CancelFrame) (s : State) : Host.Outcome State Fault Refusal := s.run fun s => s.receiveCancel f

/-! ## PORT RESET (R157) -/

/-- R157: the port's drive-queued orders that have no fixed result. -/
def PortCtl.liveQueued (c : PortCtl) : List Nat :=
  ((c.slots.toList.filterMap id).filter fun o => o.live && o.kind.driveQueued).map Order.oid

/-- R157: a port controller cleared: its slots, frames, window and notices. Its entry and its tallies are kept. -/
def PortCtl.cleared (c : PortCtl) : PortCtl :=
  { c with
    slots := Quad.all none, window := Window.cleared, notices := Oct.all 0, replies := [], endings := [], dataReqs := [],
    sending := none, offered := none }

/-- R157: all work of a port ends: its drive-queued orders as for a cancel, its other orders at the port alone, and its
reservations. -/
def State.portReset (s : State) (p : Port) : State :=
  let s1 := (s.endTogether (s.port p).liveQueued .reset true).modPort p PortCtl.cleared
  { s1 with drives := s1.drives.map fun x => if x.holder = some p then { x with holder := none } else x }

/-- R148, R157: a received PORT RESET. -/
def State.receiveReset (s : State) (f : ResetFrame) : State := if f.checkOk then s.portReset f.port else s.protocolError f.port

def execPortReset (f : ResetFrame) (s : State) : Host.Outcome State Fault Refusal := s.run fun s => s.receiveReset f

/-! ## The taking of a frame (R88, R149, R159) -/

/-- R149: the slot that holds the order of a taken ENDING becomes free. -/
def PortCtl.freeTag (c : PortCtl) (tag : Tag) (oid : Nat) : PortCtl :=
  if (c.slots.get tag).any fun o => o.oid = oid then { c with slots := c.slots.set tag none } else c

/-- R88, R149: what the taking of a frame does beyond the transmitter. -/
def State.frameEffect (s : State) (p : Port) (f : OutFrame) : State :=
  match f with
  | .ending oid tag _ _ _ _ _ _ => s.modPort p fun c => c.freeTag tag oid
  | .data oid _ index _ => s.ringTaken oid index
  | .reply _ _ _ | .dataRequest _ _ _ | .notice _ _ => s

/-- R159: the host accepts the last byte of the frame in transmission. With none in transmission there is nothing to take. -/
def State.takeFrame (s : State) (p : Port) : State :=
  match (s.port p).sending with
  | none => s
  | some f => (s.modPort p fun c => { c with sending := none }).frameEffect p f

def execFrameTaken (p : Port) (s : State) : Host.Outcome State Fault Refusal := s.run fun s => s.takeFrame p

/-! ## Timeouts (R90, R96) -/

/-- R90, R96: an order ends PORT TIMEOUT and its port's TIMEOUTS is raised. -/
def State.timeOut (s : State) (p : Port) (oid : Nat) : State := (s.countTimeout p).endTogether [oid] .portTimeout true

/-- R90: 2 s have passed since the port's offered slot became offered. -/
def State.deliveryDue (s : State) (p : Port) : Bool :=
  match (s.port p).offered with
  | some o => o.since + twoSeconds ≤ s.clock
  | none => false

/-- R90: the delivery timeout of a port; before it is due it does nothing (log 29). -/
def State.deliveryExpiry (s : State) (p : Port) : State :=
  match (s.port p).offered with
  | some o => if s.deliveryDue p then s.timeOut p o.oid else s
  | none => s

/-- R96: 2 s have passed with a slot REQUESTED. -/
def State.requestDue (s : State) (i : Fin 8) : Bool :=
  (s.wslots.get i).state = .requested && (s.wslots.get i).since + twoSeconds ≤ s.clock

/-- R96: the data-request timeout of a slot; before it is due it does nothing (log 29). -/
def State.requestExpiry (s : State) (i : Fin 8) : State :=
  if s.requestDue i then s.timeOut (s.wslots.get i).port (s.wslots.get i).oid else s

def execDeliveryTimeout (p : Port) (s : State) : Host.Outcome State Fault Refusal := s.run fun s => s.deliveryExpiry p

def execDataRequestTimeout (i : Fin 8) (s : State) : Host.Outcome State Fault Refusal := s.run fun s => s.requestExpiry i

/-! ## Frames of no known kind (R148, R151) -/

/-- R148, R150, R151: a kind byte that names no host frame kind is discarded and counted; an ORDER frame of an unknown kind
fails check 1 or check 2. -/
def State.receiveUnknown (s : State) (u : UnknownFrame) : State :=
  match u with
  | .kindByte p _ _ => s.protocolError p
  | .orderKind code f =>
    match f.checkOk, tagOf f.tag with
    | true, some tag =>
      s.refuse f.port tag code (if ((s.port f.port).slots.get tag).isSome then .tagBusy else .badOrder)
    | _, _ => s.protocolError f.port

def execUnknownFrameKind (u : UnknownFrame) (s : State) : Host.Outcome State Fault Refusal := s.run fun s => s.receiveUnknown u

end Sys2Proof.Machine
end

