-- ==== Sys2Proof/Machine/Orders.lean ====
section
/-! DEFINITION. The commands that are ORDER frames, one meaning for each order kind (R153), over what an accepted order of the
kind does. -/

namespace Sys2Proof.Machine

/-! ## Drive-queued orders (R98, R153) -/

/-- R98: an accepted drive-queued order joins its drive queue at the end. -/
def joinQueue (oid : Nat) (d : DriveId) (s : State) : State := s.modDrive d fun x => { x with queue := x.queue ++ [oid] }

def execRead (f : OrderFrame) (s : State) : Host.Outcome State Fault Refusal :=
  s.run fun s => s.receiveOrder .read f joinQueue

def execWrite (f : OrderFrame) (s : State) : Host.Outcome State Fault Refusal :=
  s.run fun s => s.receiveOrder .write f joinQueue

def execVerify (f : OrderFrame) (s : State) : Host.Outcome State Fault Refusal :=
  s.run fun s => s.receiveOrder .verify f joinQueue

def execSeek (f : OrderFrame) (s : State) : Host.Outcome State Fault Refusal :=
  s.run fun s => s.receiveOrder .seek f joinQueue

/-- R140. -/
def execSurfaceVerify (f : OrderFrame) (s : State) : Host.Outcome State Fault Refusal :=
  s.run fun s => s.receiveOrder .surfaceVerify f joinQueue

/-! ## Reservations and SENSE (R154, R155) -/

/-- R154: the port becomes the holder of a drive no port holds. Check 7 has refused every port but the holder. -/
def reserveDrive (p : Port) (oid : Nat) (d : DriveId) (s : State) : State :=
  (s.modDrive d fun x => { x with holder := some p }).endOrder oid .complete

/-- R154: the holder becomes none. -/
def releaseDrive (oid : Nat) (d : DriveId) (s : State) : State :=
  (s.modDrive d fun x => { x with holder := none }).endOrder oid .complete

/-- R155: the drive as it stands at acceptance is the ending body. -/
def senseDrive (f : OrderFrame) (oid : Nat) (d : DriveId) (s : State) : State :=
  let body := s.senseBody f.port ((logicalOf f.logical).getD 0) d
  (s.modOrder oid fun o => { o with body := body }).endOrder oid .complete

def execReserve (f : OrderFrame) (s : State) : Host.Outcome State Fault Refusal :=
  s.run fun s => s.receiveOrder .reserve f (reserveDrive f.port)

def execRelease (f : OrderFrame) (s : State) : Host.Outcome State Fault Refusal :=
  s.run fun s => s.receiveOrder .release f releaseDrive

def execSense (f : OrderFrame) (s : State) : Host.Outcome State Fault Refusal :=
  s.run fun s => s.receiveOrder .sense f (senseDrive f)

/-! ## Table orders and tallies (R163, R164, R169) -/

/-- R163: the four window items a TABLE SELECT carries. -/
def windowOf (f : OrderFrame) : Window :=
  { table := TableId.ofCode f.sector.toNat, drive := driveOf f.logical.toNat, index := f.parameter.toNat,
    advance := f.flags &&& 2#8 = 2#8 }

/-- R163: the window is set. -/
def selectTable (f : OrderFrame) (oid : Nat) (_ : DriveId) (s : State) : State :=
  (s.modPort f.port fun c => { c with window := windowOf f }).endOrder oid .complete

/-- R164: the entry is stored and the window moves on; the ENDING tells of a clamp. -/
def putTable (f : OrderFrame) (oid : Nat) (_ : DriveId) (s : State) : State :=
  let r := s.tablePut f.port f.body
  (r.1.modOrder oid fun o => { o with clamped := r.2 }).endOrder oid .complete

/-- R164: the entry is the ending body and the window moves on. -/
def getTable (f : OrderFrame) (oid : Nat) (_ : DriveId) (s : State) : State :=
  match s.tableGet f.port with
  | .ok body => ((s.stepWindow f.port).modOrder oid fun o => { o with body := body }).endOrder oid .complete
  | .error _ => s

/-- R169: every counter is set to 0. -/
def State.clearTallies (s : State) : State :=
  { s with
    drives := s.drives.map fun x => { x with tally := DriveTallies.zero },
    ports := s.ports.map fun c => { c with refusals := 0, timeouts := 0, protocolErrors := 0 }, watchOverflows := 0 }

/-- R169: every counter's value is taken into the ending body, and in the same step every counter is cleared. -/
def readAllTallies (oid : Nat) (_ : DriveId) (s : State) : State :=
  (s.clearTallies.modOrder oid fun o => { o with body := s.tallyBody }).endOrder oid .complete

def execTableSelect (f : OrderFrame) (s : State) : Host.Outcome State Fault Refusal :=
  s.run fun s => s.receiveOrder .tableSelect f (selectTable f)

def execTablePut (f : OrderFrame) (s : State) : Host.Outcome State Fault Refusal :=
  s.run fun s => s.receiveOrder .tablePut f (putTable f)

def execTableGet (f : OrderFrame) (s : State) : Host.Outcome State Fault Refusal :=
  s.run fun s => s.receiveOrder .tableGet f (getTable f)

def execReadTallies (f : OrderFrame) (s : State) : Host.Outcome State Fault Refusal :=
  s.run fun s => s.receiveOrder .readTallies f readAllTallies

/-! ## REASSIGN TRACK (R136) -/

/-- R136: the order acts on the watch entry of its home track. -/
def reassignTrackOn (home : Track) (oid : Nat) (d : DriveId) (s : State) : State :=
  if s.heldFor d home then
    s.setEngine { s.reassign with held := s.reassign.held.map fun e => { e with cause := some .ordered } }
  else
    match findWatch s.watch d home with
    | none =>
      match slotForNew s.watch with
      | none => s.overflowWatch.endOrder oid .reassignFailed
      | some i => s.candidate i (WatchEntry.fresh d home s.stringTime) .ordered
    | some i =>
      match watchEntry s.watch i with
      | none => s
      | some e =>
        match e.state with
        | .counting | .stuck => s.candidate i e .ordered
        | .candidate => s.setWatch i { e with cause := some .ordered }

def execReassignTrack (f : OrderFrame) (s : State) : Host.Outcome State Fault Refusal :=
  s.run fun s => s.receiveOrder .reassignTrack f (reassignTrackOn { cyl := f.cyl.toNat, head := f.head.toNat })

/-! ## Drive-state orders and COMMIT MAP (R15, R17, R18, R65) -/

/-- R15, R147: a host-ordered operation or a REASSIGN that is current stops with the sector granted to it, also that of an order
whose result is fixed already (a SURFACE VERIFY that finishes its track after a CANCEL or PORT RESET). -/
def State.windDownCurrent (s : State) (d : DriveId) : State :=
  match (s.drive d).cur with
  | some op => if op.kind.hostOrdered || op.kind = OpKind.reassign then s.windDown d else s
  | none => s

/-- R15, R118: the drive is FENCED at once; a REASSIGN is aborted; every host order of the drive and the REASSIGN TRACK orders end
FENCED (R91, R137), and the current operation stops. The FENCE itself ends by R16 when nothing is left current. -/
def fenceDrive (_ : Nat) (d : DriveId) (s : State) : State :=
  let s1 := (s.setDriveState d .fenced).abortReassign d
  (s1.endTogether (s1.ordersOf d fun o => o.kind.driveQueued || o.kind = .reassignTrack) .fenced false).windDownCurrent d

/-- R17: the map-held mark is cleared, the channel stopped, and the drive goes RECALIBRATING. -/
def unfenceDrive (_ : Nat) (d : DriveId) (s : State) : State :=
  ((s.modDrive d fun x => { x with mapHeld := false }).stopChannel d).enterRecalibrating d

/-- R18: the drive is reset and its new state follows from its state at acceptance. -/
def resetDrive (oid : Nat) (d : DriveId) (s : State) : State :=
  let before := s.drive d
  let s1 := (s.stopDrive d .reset .dirty (some oid)).stopChannel d
  let s2 := s1.modDrive d fun x => { x with mapHeld := false, sweepIn := true }
  match before.state with
  | .notReady | .waitingSpin | .spinningUp => s2.setDriveState d .waitingSpin
  | .fenced => if before.geom.isNone then s2.endOrder oid .fenced else s2.enterRecalibrating d
  | .absent | .recalibrating | .loadingMap | .writingMap | .ready | .mapLost => s2.enterRecalibrating d

/-- R65: a MAP WRITE is queued for the order unless one is pending; the order waits on it. -/
def commitMapOf (_ : Nat) (d : DriveId) (s : State) : State := s.modDrive d fun x => { x with pendWrite := true }

def execFence (f : OrderFrame) (s : State) : Host.Outcome State Fault Refusal :=
  s.run fun s => s.receiveOrder .fence f fenceDrive

def execUnfence (f : OrderFrame) (s : State) : Host.Outcome State Fault Refusal :=
  s.run fun s => s.receiveOrder .unfence f unfenceDrive

def execDriveReset (f : OrderFrame) (s : State) : Host.Outcome State Fault Refusal :=
  s.run fun s => s.receiveOrder .driveReset f resetDrive

def execCommitMap (f : OrderFrame) (s : State) : Host.Outcome State Fault Refusal :=
  s.run fun s => s.receiveOrder .commitMap f commitMapOf

/-! ## STRING RESET (R170) -/

/-- R170: the order takes a string reset; its own ENDING is COMPLETE, after the others of its port (R158). -/
def resetString (poll : Poll) (oid : Nat) (_ : DriveId) (s : State) : State := s.stringReset .resetOrder (some oid) poll

def execStringReset (f : OrderFrame) (poll : Poll) (s : State) : Host.Outcome State Fault Refusal :=
  s.run fun s => s.receiveOrder .stringReset f (resetString poll)

end Sys2Proof.Machine
end

