-- ==== Sys2Proof/Machine/Dispatch.lean ====
section
/-! DEFINITION. The meaning of every command, one arm each. -/

namespace Sys2Proof.Machine

def exec (i : Instr) (s : State) : Host.Outcome State Fault Refusal :=
  match i with
  | .powerOn plugs poll => Sys2Proof.Machine.execPowerOn plugs poll s
  | .powerFailure => Sys2Proof.Machine.execPowerFailure s
  | .stringResetLine p poll => Sys2Proof.Machine.execStringResetLine p poll s
  | .indexPulse d => Sys2Proof.Machine.execIndexPulse d s
  | .sectorPulse d => Sys2Proof.Machine.execSectorPulse d s
  | .spinUpLimitExpiry d => Sys2Proof.Machine.execSpinUpLimitExpiry d s
  | .indexWatchdogExpiry d => Sys2Proof.Machine.execIndexWatchdogExpiry d s
  | .positionerUpdate d home => Sys2Proof.Machine.execPositionerUpdate d home s
  | .onCylinderReport d => Sys2Proof.Machine.execOnCylinderReport d s
  | .recalibrationFailed d => Sys2Proof.Machine.execRecalibrationFailed d s
  | .sectorReadEnd d seen => Sys2Proof.Machine.execSectorReadEnd d seen s
  | .sectorWriteEnd d => Sys2Proof.Machine.execSectorWriteEnd d s
  | .watchWindowExpiry slot => Sys2Proof.Machine.execWatchWindowExpiry slot s
  | .read f => Sys2Proof.Machine.execRead f s
  | .write f => Sys2Proof.Machine.execWrite f s
  | .verify f => Sys2Proof.Machine.execVerify f s
  | .seek f => Sys2Proof.Machine.execSeek f s
  | .surfaceVerify f => Sys2Proof.Machine.execSurfaceVerify f s
  | .reserve f => Sys2Proof.Machine.execReserve f s
  | .release f => Sys2Proof.Machine.execRelease f s
  | .sense f => Sys2Proof.Machine.execSense f s
  | .tableSelect f => Sys2Proof.Machine.execTableSelect f s
  | .tablePut f => Sys2Proof.Machine.execTablePut f s
  | .tableGet f => Sys2Proof.Machine.execTableGet f s
  | .readTallies f => Sys2Proof.Machine.execReadTallies f s
  | .reassignTrack f => Sys2Proof.Machine.execReassignTrack f s
  | .fence f => Sys2Proof.Machine.execFence f s
  | .unfence f => Sys2Proof.Machine.execUnfence f s
  | .driveReset f => Sys2Proof.Machine.execDriveReset f s
  | .commitMap f => Sys2Proof.Machine.execCommitMap f s
  | .stringReset f poll => Sys2Proof.Machine.execStringReset f poll s
  | .hostDataFrame f => Sys2Proof.Machine.execHostDataFrame f s
  | .cancel f => Sys2Proof.Machine.execCancel f s
  | .portReset f => Sys2Proof.Machine.execPortReset f s
  | .frameTaken p => Sys2Proof.Machine.execFrameTaken p s
  | .deliveryTimeout p => Sys2Proof.Machine.execDeliveryTimeout p s
  | .dataRequestTimeout slot => Sys2Proof.Machine.execDataRequestTimeout slot s
  | .unknownFrameKind u => Sys2Proof.Machine.execUnknownFrameKind u s

end Sys2Proof.Machine
end

