-- ==== Sys2Proof/Machine/Tick.lean ====
section
/-! DEFINITION. The passing of time: the part's clock advances by 10 µs when no command waits, and the timers that are then due
put their commands in the queue (log 10). -/

namespace Sys2Proof.Machine

/-- R123: the COUNTING entry of a watch slot has seen its window pass. -/
def State.windowDue (s : State) (i : Fin 16) : Bool :=
  match watchEntry s.watch i.val with
  | some e => s.windowPassed e
  | none => false

/-- The sixteen watch slots in rising order. -/
def allWatchSlots : List (Fin 16) := [0, 1, 2, 3, 4, 5, 6, 7, 8, 9, 10, 11, 12, 13, 14, 15]

/-- R7, R9, R90, R96, R123: the commands of the timers that are due. -/
def State.dueTimers (s : State) : List Instr :=
  ((allDrives.filter fun d => s.spinDue d).map Instr.spinUpLimitExpiry) ++
    ((allDrives.filter fun d => s.watchdogDue d).map Instr.indexWatchdogExpiry) ++
    ((allPorts.filter fun p => s.deliveryDue p).map Instr.deliveryTimeout) ++
    ((allDrives.filter fun i => s.requestDue i).map Instr.dataRequestTimeout) ++
    ((allWatchSlots.filter fun i => s.windowDue i).map Instr.watchWindowExpiry)

/-- 10 µs pass with no command waiting; a controller without power keeps no time. -/
def State.tick (s : State) : State :=
  if s.powered then
    let t := { s with clock := s.clock + 1 }
    { t with pending := t.dueTimers }
  else s

end Sys2Proof.Machine
end

