-- ==== Sys2Proof/Safety.lean ====
section
/-! DEFINITION. What a safe run keeps: the laws the manual states of the whole part, and the words the statements about single
commands use. -/

namespace Sys2Proof.Machine

/-! ## The laws of the part -/

/-- R84: the read ring never holds more than 24 non-EMPTY slots; its boundary names a slot. -/
def State.ringLaw (s : State) : Prop := s.ring.run.length ≤ 24 ∧ s.ring.boundary < 24

/-- R169: every tally lies between 0 and 65535. -/
def State.tallyLaw (s : State) : Prop :=
  (∀ d, ∀ n ∈ (s.drive d).tally.counters, n ≤ 65535) ∧ (∀ p, ∀ n ∈ (s.port p).counters, n ≤ 65535) ∧ s.watchOverflows ≤ 65535

/-- R120, R128: the watch list has 16 slots and no two entries for one home track of one drive, the entry the reassignment engine
holds while it copies counted in; it holds none at any other time. -/
structure State.watchLaw (s : State) : Prop where
  slots : s.watch.length = 16
  homes : ∀ (i j : Nat) (e f : WatchEntry), s.watch[i]? = some (.entry e) → s.watch[j]? = some (.entry f) →
    e.drive = f.drive → e.home = f.home → i = j
  held : s.reassign.state = .copying → ∀ e, s.reassign.held = some e →
    ∀ f : WatchEntry, .entry f ∈ s.watch → ¬(f.drive = e.drive ∧ f.home = e.home)
  idle : s.reassign.state ≠ .copying → s.reassign.held = none

/-- R25: the creep velocity is not above the top velocity. -/
def Profile.fits (p : Profile) : Prop := p.c ≤ p.vmax

/-- R31: the velocity does not exceed vmax_u of the profile in force, and is 0 in IDLE, SETTLING and STOPPED. -/
structure Channel.law (m : Nat) (ch : Channel) : Prop where
  profile : ch.profile.fits
  staged : ∀ p, ch.staged = some p → p.fits
  velocity : ch.vel ≤ ch.profile.vmaxu m
  rest : (ch.phase = .idle ∨ ch.phase = .settling ∨ ch.phase = .stopped) → ch.vel = 0

/-- R25, R31: the velocity law of every channel, and of every MOTION PROFILE entry a channel can take. -/
def State.velocityLaw (s : State) : Prop := ∀ d, (s.drive d).chan.law s.m ∧ (s.drive d).profile.fits

/-- R22, R29, R32: a known fine position lies within the drive, and so does the target of a seek under way, ahead of the arm in its
direction; a stopped channel's position is not known (R42). -/
structure Drive.positionLaw (x : Drive) : Prop where
  stopped : x.chan.phase = .stopped → x.chan.known = false
  position : ∀ g, x.geom = some g → x.chan.known = true → x.chan.pos ≤ g.maxPos
  target : ∀ g, x.geom = some g → x.chan.known = true →
    x.chan.phase = .accel ∨ x.chan.phase = .cruise ∨ x.chan.phase = .decel →
    x.chan.target ≤ g.maxPos ∧ (x.chan.inward = true → x.chan.pos ≤ x.chan.target) ∧
      (x.chan.inward = false → x.chan.target ≤ x.chan.pos)

/-- R32: the position law of every served drive. -/
def State.positionLaw (s : State) : Prop := ∀ d, served s.plugs.mode8 d = true → (s.drive d).positionLaw

/-- R1, R22, R44: an address not served is held ABSENT, with no channel in use, no operation queued or current, and no spare map entry or
pool position held. -/
def State.unservedLaw (s : State) : Prop :=
  ∀ d, served s.plugs.mode8 d = false → (s.drive d).state = .absent ∧ (s.drive d).chan.phase = .stopped ∧ (s.drive d).cur = none ∧
    (s.drive d).pendRecal = false ∧ (s.drive d).pendLoad = false ∧ (s.drive d).pendWrite = false ∧ (s.drive d).pendReassign = false ∧
    (s.drive d).spare = [] ∧ (s.drive d).pool = []

/-- R110: the attempt of a retry ladder under way has a step of 1 or more. -/
def State.ladderLaw (s : State) : Prop := ∀ d op l, (s.drive d).cur = some op → op.ladder = some l → 1 ≤ l.step

/-- R8: at most one drive is SPINNING UP. -/
def State.spinLaw (s : State) : Prop :=
  ∀ d e, (s.drive d).state = .spinningUp → (s.drive e).state = .spinningUp → d = e

/-- R139: the verify engine is BUSY exactly while the SURFACE VERIFY of its order is current on its drive, so that at most one is
current in the string. -/
def State.verifyLaw (s : State) : Prop :=
  (∀ j, s.verify.job = some j → ∃ op, (s.drive j.drive).cur = some op ∧ op.kind = .surface ∧ op.oid = j.oid) ∧
    ∀ d op, (s.drive d).cur = some op → op.kind = .surface → ∃ j, s.verify.job = some j ∧ j.drive = d ∧ j.oid = op.oid

/-- R126, R127, R135: a REASSIGN is queued for a drive only while the engine is TAKEN by a CANDIDATE of it, and is current on a drive
only while the engine is COPYING an entry of that drive; one that has been aborted may still finish its sector. A drive whose
geometry is unset goes no further than FENCED and has no internal operation (R9, R17, R19). A SURFACE VERIFY that writes or reads
back is destructive, and the drive of a destructive one is FENCED (R140, R142, R145). -/
structure State.engineLaw (s : State) : Prop where
  geometry : ∀ d, (s.drive d).geom = none → (s.drive d).state ∈ [.absent, .waitingSpin, .spinningUp, .notReady, .fenced] ∧
    (s.drive d).cur = none ∧ (s.drive d).pendRecal = false ∧ (s.drive d).pendLoad = false ∧ (s.drive d).pendWrite = false
  queued : ∀ d, (s.drive d).pendReassign = true → (s.drive d).geom.isSome = true ∧ (s.drive d).state ≠ .fenced ∧
    s.reassign.state = .taken ∧
    ∃ i e, s.reassign.slot = some i ∧ watchEntry s.watch i = some e ∧ e.state = .candidate ∧ e.drive = d
  current : ∀ d op, (s.drive d).cur = some op → op.kind = .reassign → op.ended = false →
    s.reassign.state = .copying ∧ ∃ e, s.reassign.held = some e ∧ e.drive = d
  surface : ∀ d op, (s.drive d).cur = some op → op.kind = .surface → op.pass ≠ .read ∨ s.destructive = true →
    s.destructive = true ∧ (s.drive d).state = .fenced

/-- R168: at least one port holds the maintenance right. -/
def State.maintenanceLaw (s : State) : Prop := ∃ p, (s.port p).access.maintenance = true

/-- The media are kept in their one form (log 6). -/
def State.mediaLaw (s : State) : Prop := mediaSorted s.media

/-- R149: every order in a slot has a serial number of its own, one already given out (log 7). -/
structure State.numberLaw (s : State) : Prop where
  next : 0 < s.nextOid
  range : ∀ p g o, (s.port p).slots.get g = some o → 0 < o.oid ∧ o.oid < s.nextOid
  distinct : ∀ p g o q h r, (s.port p).slots.get g = some o → (s.port q).slots.get h = some r → o.oid = r.oid → p = q ∧ g = h

/-- R49, R50: the laws of a drive's spare map and pool while no reassignment is in flight on it. -/
structure Drive.mapLaw (x : Drive) (g : Geometry) : Prop where
  size : x.pool.length = g.poolSize
  map : ∀ p, x.pool[p]? = some .map ↔ p = g.mapPos
  settled : ∀ e ∈ x.spare, e.pending = false ∧ e.replacement = none
  place : ∀ e ∈ x.spare, g.isUser e.home = true ∧ g.isPool e.alt = true ∧ e.alt ≠ g.mapTrack
  slots : (x.spare.map SpareEntry.slot).Pairwise fun a b => a < b
  homes : (x.spare.map SpareEntry.home).Nodup
  alts : (x.spare.map SpareEntry.alt).Nodup
  named : ∀ p, x.pool[p]? = some .inUse ↔ ∃ e ∈ x.spare, g.trackPos e.alt = p

/-- R50: the tracks of the pool an entry names: its alternate and its pending replacement. -/
def SpareEntry.tracks (e : SpareEntry) : List Track := e.alt :: e.replacement.toList

/-- R49, R50: the laws of a drive's spare map and pool at all times, with the home track of the reassignment in flight on it, if any:
the entry of that track alone is PENDING, and a pending replacement is named beside the alternate. That home tracks are user tracks
is not part of it: `State.namesUserTracks`. -/
structure Drive.sparingLaw (x : Drive) (g : Geometry) (flight : Option Track) : Prop where
  size : x.pool.length = g.poolSize
  map : ∀ p, x.pool[p]? = some .map ↔ p = g.mapPos
  pending : ∀ e ∈ x.spare, e.pending = true ↔ flight = some e.home
  held : ∀ h, flight = some h → ∃ e ∈ x.spare, e.home = h
  settled : ∀ e ∈ x.spare, e.pending = false → e.replacement = none
  place : ∀ e ∈ x.spare, ∀ t ∈ e.tracks, g.isPool t = true ∧ t ≠ g.mapTrack
  slots : (x.spare.map SpareEntry.slot).Pairwise fun a b => a < b
  homes : (x.spare.map SpareEntry.home).Nodup
  tracks : (x.spare.flatMap SpareEntry.tracks).Nodup
  named : ∀ p, x.pool[p]? = some .inUse ↔ ∃ e ∈ x.spare, ∃ t ∈ e.tracks, g.trackPos t = p

/-- R126: the home track of the reassignment in flight on a drive. -/
def State.flight (s : State) (d : DriveId) : Option Track :=
  if s.reassign.state = .copying then (s.reassign.held.filter fun e => e.drive = d).map WatchEntry.home else none

/-- What a REASSIGN asks of its channel: a recalibration to seek again, and no seek to end by (R129, R132). -/
def Stage.copies : Stage → Bool
  | .moving (.seek _ (.finish _)) | .moving (.recal none) | .waiting (.recal none) => false
  | _ => true

/-- R49, R50, R128, R143: the laws of the spare map and the pool of every served drive with its geometry set; a reassignment in
flight is the REASSIGN current on a READY drive, for the entry held; a verify trial is made on a FREE position. -/
structure State.sparingLaw (s : State) : Prop where
  drives : ∀ d g, served s.plugs.mode8 d = true → (s.drive d).geom = some g →
    g.consistent = true ∧ (s.drive d).sparingLaw g (s.flight d)
  copying : s.reassign.state = .copying → ∃ i e op, s.reassign.slot = some i ∧ s.reassign.held = some e ∧
    (s.drive e.drive).state = .ready ∧ (s.drive e.drive).cur = some op ∧ op.kind = .reassign ∧ op.ended = false ∧
    op.home = e.home ∧ op.stage.copies = true
  trial : ∀ j pos, s.verify.job = some j → j.destructive = true → s.verify.trial = some pos →
    (s.drive j.drive).pool[pos]? = some .free

/-- R50: what a spare map entry can come from names user tracks: the entries there are, the operations that report or spare a track, and
the watch entries, with the one held. -/
def State.namesUserTracks (s : State) : Prop :=
  ∀ d g, served s.plugs.mode8 d = true → (s.drive d).geom = some g →
    (∀ e ∈ (s.drive d).spare, g.isUser e.home = true) ∧
    (∀ op, (s.drive d).cur = some op → op.kind ∈ [.read, .verify, .surface, .reassign] → g.isUser op.home = true) ∧
    (∀ e : WatchEntry, .entry e ∈ s.watch → e.drive = d → g.isUser e.home = true) ∧
    ∀ e, s.reassign.held = some e → e.drive = d → g.isUser e.home = true

/-! ## The words of the statements -/

/-- The command that an order frame of a kind is. -/
def orderCommand (k : OrderKind) (f : OrderFrame) (poll : Poll) : Instr :=
  match k with
  | .read => .read f
  | .write => .write f
  | .verify => .verify f
  | .seek => .seek f
  | .reserve => .reserve f
  | .release => .release f
  | .sense => .sense f
  | .tableSelect => .tableSelect f
  | .tablePut => .tablePut f
  | .tableGet => .tableGet f
  | .readTallies => .readTallies f
  | .reassignTrack => .reassignTrack f
  | .surfaceVerify => .surfaceVerify f
  | .fence => .fence f
  | .unfence => .unfence f
  | .driveReset => .driveReset f
  | .commitMap => .commitMap f
  | .stringReset => .stringReset f poll

/-- R148, R150: a good ORDER frame that passes every check. -/
structure Accepted (s : State) (k : OrderKind) (f : OrderFrame) (tag : Tag) : Prop where
  power : s.powered = true
  good : f.checkOk = true
  tagged : tagOf f.tag = some tag
  checks : s.judge k f tag = none

/-- The order of a serial number stands in a slot with its result fixed (R99). -/
def Ended (t : State) (p : Port) (tag : Tag) (oid : Nat) (r : Result) : Prop :=
  ∃ o, (t.port p).slots.get tag = some o ∧ o.oid = oid ∧ o.result = some r

/-- The frames a port has still to send: the one in transmission and the queued REPLYs and ENDINGs (R159). -/
def PortCtl.toSend (c : PortCtl) : List OutFrame := c.sending.toList ++ c.replies ++ c.endings

/-- R149, R150: what an acceptance leaves at the port: the order in the tag's slot as the frame gives it, under the next serial
number, a REPLY ACCEPTED to be sent, and the other slots as they were. -/
structure Taken (s t : State) (k : OrderKind) (f : OrderFrame) (tag : Tag) (d : Option DriveId) (o : Order) : Prop where
  slot : (t.port f.port).slots.get tag = some o
  oid : o.oid = s.nextOid
  next : t.nextOid = s.nextOid + 1
  names : o.tag = tag ∧ o.kind = k ∧ o.logical = f.logical.toNat ∧ o.drive = d
  start : o.start = { cyl := f.cyl.toNat, head := f.head.toNat, sector := f.sector.toNat }
  fields : o.count = f.count.toNat ∧ o.flags = f.flags ∧ o.parameter = f.parameter.toNat
  reply : OutFrame.reply tag k.code .accepted ∈ (t.port f.port).toSend
  others : ∀ g, g ≠ tag → ((t.port f.port).slots.get g).map Order.oid = ((s.port f.port).slots.get g).map Order.oid

/-- R7, R9, R90, R96, R123: the expiry commands whose timers are due. -/
def TimerDue (s : State) : Instr → Prop
  | .spinUpLimitExpiry d => s.spinDue d = true
  | .indexWatchdogExpiry d => s.watchdogDue d = true
  | .deliveryTimeout p => s.deliveryDue p = true
  | .dataRequestTimeout i => s.requestDue i = true
  | .watchWindowExpiry i => s.windowDue i = true
  | _ => False

/-- The commands that may change the settings: power-on and TABLE PUT (R162, R168). -/
def setsTables : Instr → Bool
  | .powerOn _ _ | .tablePut _ => true
  | _ => false

/-- The parts of the state that hold settings: the plugs, the clock and the four settings tables (R1, R165 to R168). -/
structure SettingsKept (s t : State) : Prop where
  plugs : t.plugs = s.plugs
  clock : t.clock = s.clock
  access : ∀ p, (t.port p).access = (s.port p).access
  geom : ∀ d, (t.drive d).geom = (s.drive d).geom
  profile : ∀ d, (t.drive d).profile = (s.drive d).profile
  policy : ∀ d, (t.drive d).policy = (s.drive d).policy

/-- A port's window and tallies are as they were. -/
structure PortKept (s t : State) (p : Port) : Prop where
  window : (t.port p).window = (s.port p).window
  refusals : (t.port p).refusals = (s.port p).refusals
  timeouts : (t.port p).timeouts = (s.port p).timeouts
  protocolErrors : (t.port p).protocolErrors = (s.port p).protocolErrors

/-- A port's slots hold the orders they held. -/
def SlotsKept (s t : State) (p : Port) : Prop :=
  ∀ g, ((t.port p).slots.get g).map Order.oid = ((s.port p).slots.get g).map Order.oid

/-- What a command leaves as it was, but for the drives in `D` and the ports in `P`: power, the start cause, the settings, the bus
records, sector counters and reservations of the drives, and the windows, tallies and orders of the ports. The immediate actions
that follow a command (log 5) change none of these. -/
structure Untouched (s t : State) (D : List DriveId) (P : List Port) : Prop where
  powered : t.powered = s.powered
  startCause : t.startCause = s.startCause
  settings : SettingsKept s t
  bus : ∀ d, (t.drive d).present = (s.drive d).present ∧ (t.drive d).plugType = (s.drive d).plugType
  drive : ∀ d, d ∉ D → (t.drive d).counter = (s.drive d).counter ∧ (t.drive d).holder = (s.drive d).holder
  port : ∀ p, p ∉ P → PortKept s t p ∧ SlotsKept s t p

/-- R71: what a command that cuts transfers off leaves of the media. A sector write in transfer on a drive of `P` leaves its sector
TORN (where the cut falls is left open, log 6), and every other sector as it was; with no such write the media are as they
were. -/
structure Torn (s t : State) (P : DriveId → Prop) : Prop where
  torn : ∀ d op x fr, P d → s.transferOf d = some (op, x) → x.frame = some fr →
    ∃ laid, mediaGet t.media (mediaKey d op.phys x.sector) = tornFrame laid fr
  others : ∀ d op x fr, P d → s.transferOf d = some (op, x) → x.frame = some fr →
    ∀ k, k ≠ mediaKey d op.phys x.sector → mediaGet t.media k = mediaGet s.media k
  whole : (∀ d op x, P d → s.transferOf d = some (op, x) → x.frame = none) → t.media = s.media

/-- R13, R42, R91: what a drive's entry to NOT READY leaves: nothing current, its channel stopped, and every order outstanding on it
ended NOT READY. -/
structure TakenOut (s t : State) (d : DriveId) : Prop where
  state : (t.drive d).state = .notReady
  cur : (t.drive d).cur = none
  phase : (t.drive d).chan.phase = .stopped
  orders : s.numberLaw → ∀ p g o, (s.port p).slots.get g = some o → o.drive = some d → o.live = true →
    Ended t p g o.oid .notReady

/-- R160: a kind has been added to the pending sets of a drive in every port that names it with a right, and to no other. -/
def Noticed (s t : State) (d : DriveId) (kind : Byte) : Prop :=
  ∀ p n, (t.port p).notices.get n =
    if ((s.port p).access.logical.get n).phys = some d ∧ ((s.port p).access.logical.get n).right ≠ .none then
      (s.port p).notices.get n ||| kind
    else (s.port p).notices.get n

/-- R74, R75: the place that a sector index of an operation needs is ready: for a READ the slot at the fill pointer is EMPTY, for a
WRITE the order's slot for the index is FULL; the other operations need none. -/
def PlaceReady (s : State) (op : Op) (index : Nat) : Prop :=
  (op.kind = .read → s.ring.run.length < 24) ∧
    (op.kind = .write → ∃ i, s.slotOf op.oid index = some i ∧ (s.wslots.get i).state = .full)

/-- The ring and the write slots are as they were. -/
def PlacesWhole (s t : State) : Prop := t.ring = s.ring ∧ t.wslots = s.wslots

/-- R74, R85, R95: the place of the sector an operation wants is taken: a READ's slot at the fill pointer goes FILLING and the pointer
advances, a WRITE's slot goes WRITING; the others take none. -/
structure PlaceTaken (s t : State) (op : Op) : Prop where
  read : op.kind = .read → t.wslots = s.wslots ∧ t.ring = { s.ring with run := s.ring.run ++
    [{ state := .filling, port := op.port, tag := op.tag, oid := op.oid, index := op.index, data := none }] }
  write : op.kind = .write → t.ring = s.ring ∧ ∀ i, s.slotOf op.oid op.index = some i →
    t.wslots = s.wslots.set i { s.wslots.get i with state := .writing }
  none : op.kind ≠ .read → op.kind ≠ .write → PlacesWhole s t

/-- R75, R83: a place that is not ready is counted in RING MISSES for a READ and in SLOT MISSES for a WRITE, and nothing else. -/
def MissCounted (s t : State) (d : DriveId) (op : Op) : Prop :=
  let c := (s.drive d).tally
  (t.drive d).tally = { c with
    ringMisses := if op.kind = .read then bump c.ringMisses else c.ringMisses,
    slotMisses := if op.kind = .write then bump c.slotMisses else c.slotMisses }

/-- R136: the watch slot and the entry that a REASSIGN TRACK order of a home track leads to. -/
def State.orderedEntry (s : State) (d : DriveId) (home : Track) : Option (Nat × WatchEntry) :=
  match findWatch s.watch d home with
  | none => (slotForNew s.watch).map fun i =>
      (i, { drive := d, home := home, count := 1, windowStart := s.stringTime, candTime := some s.stringTime,
            cause := some .ordered, state := .candidate })
  | some i => (watchEntry s.watch i).map fun e =>
      (i, { e with state := .candidate, cause := some .ordered,
                   candTime := if e.state = .candidate then e.candTime else some s.stringTime })

/-- R2, R20, R120, R154, R158, R162: what a string reset leaves, with the result `own` for the order that took it. -/
structure StringReset (s t : State) (poll : Poll) : Prop where
  settings : SettingsKept s t
  watch : t.watch = List.replicate 16 .empty
  window : ∀ p, (t.port p).window = Window.cleared
  holder : ∀ d, (t.drive d).holder = none
  absent : ∀ d, served s.plugs.mode8 d = true → poll.get d = none → (t.drive d).present = false ∧ (t.drive d).state = .absent
  found : ∀ d n, served s.plugs.mode8 d = true → poll.get d = some n →
    (t.drive d).present = true ∧ (t.drive d).plugType = n.val
  same : ∀ d n, served s.plugs.mode8 d = true → poll.get d = some n → n.val = (s.drive d).plugType →
    ((s.drive d).state = .recalibrating ∨ (s.drive d).state = .loadingMap ∨ (s.drive d).state = .writingMap ∨
      (s.drive d).state = .ready → (t.drive d).state = .recalibrating) ∧
    ((s.drive d).state = .mapLost ∨ (s.drive d).state = .fenced ∨ (s.drive d).state = .notReady →
      (t.drive d).state = (s.drive d).state)
  other : ∀ d n, served s.plugs.mode8 d = true → poll.get d = some n →
    n.val ≠ (s.drive d).plugType ∨ (s.drive d).state = .absent ∨ (s.drive d).state = .waitingSpin ∨
      (s.drive d).state = .spinningUp → (t.drive d).state = .waitingSpin ∨ (t.drive d).state = .spinningUp
  orders : ∀ p g o, (s.port p).slots.get g = some o → o.state ≠ .ending →
    Ended t p g o.oid (o.result.getD .reset) ∧
      ∃ n y c fa b, OutFrame.ending o.oid o.tag (o.result.getD .reset) n y c fa b ∈ (t.port p).toSend

/-- R94, R148, R156: the host frames that are discarded and counted. -/
def Discarded (s : State) : Instr → Prop
  | .read f | .write f | .verify f | .seek f | .surfaceVerify f | .reserve f | .release f | .sense f | .tableSelect f
  | .tablePut f | .tableGet f | .readTallies f | .reassignTrack f | .fence f | .unfence f | .driveReset f | .commitMap f
  | .stringReset f _ | .unknownFrameKind (.orderKind _ f) => f.checkOk = false ∨ tagOf f.tag = none
  | .hostDataFrame f =>
    f.checkOk = false ∨ tagOf f.tag = none ∨ ∃ g, tagOf f.tag = some g ∧ s.requestedSlot f.port g f.index.toNat = none
  | .cancel f =>
    f.checkOk = false ∨ tagOf f.tag = none ∨ ∃ g, tagOf f.tag = some g ∧
      ((s.port f.port).slots.get g = none ∨
        ∃ o, (s.port f.port).slots.get g = some o ∧ o.state ≠ .ending ∧ o.kind.immediate = false ∧ o.kind.driveQueued = false)
  | .portReset f => f.checkOk = false
  | .unknownFrameKind (.kindByte _ _ _) => True
  | .powerOn _ _ | .powerFailure | .stringResetLine _ _ | .indexPulse _ | .sectorPulse _ | .spinUpLimitExpiry _
  | .indexWatchdogExpiry _ | .positionerUpdate _ _ | .onCylinderReport _ | .recalibrationFailed _ | .sectorReadEnd _ _
  | .sectorWriteEnd _ | .watchWindowExpiry _ | .frameTaken _ | .deliveryTimeout _ | .dataRequestTimeout _ => False

/-! ## Drives the immediate actions leave alone -/

/-- The drive states in which nothing is selected (R100), WAITING SPIN apart. -/
def DriveState.dormant : DriveState → Bool
  | .absent | .spinningUp | .notReady => true
  | .waitingSpin | .recalibrating | .loadingMap | .writingMap | .ready | .mapLost | .fenced => false

/-- A drive whose next selection finds nothing: it has a current operation, or its state lets nothing run. -/
def Drive.takesNoWork (x : Drive) : Bool := (x.cur.isSome && x.state ≠ .waitingSpin) || x.state.dormant

/-- R80, R91, R97, R117, R147: what is left of the work of a drive-queued order that a CANCEL or a PORT RESET has ended. It is in no queue and
has no HELD ring slot, and no write slot but one in the transfer under way. Its operation ends with the transfer granted to it, or at
once when it has none (a planned continuation that has not begun is none, log 37); a SURFACE VERIFY finishes its track. -/
structure WorkEnds (s t : State) (oid : Nat) : Prop where
  queues : ∀ d, oid ∉ (t.drive d).queue
  ring : ∀ x ∈ t.ring.run, x.oid = oid → x.state ≠ .held
  slots : ∀ i, (t.wslots.get i).oid = oid → (t.wslots.get i).state = .writing ∨ (t.wslots.get i).state = .free
  surface : ∀ d op, (s.drive d).cur = some op → op.oid = oid → op.kind = .surface → (s.drive d).state ≠ .waitingSpin →
    (t.drive d).cur = some { op with lastTrack := true }
  granted : ∀ d op x, (s.drive d).cur = some op → op.oid = oid → op.kind.hostOrdered = true → op.kind ≠ .surface →
    (s.drive d).state ≠ .waitingSpin → s.path.holder = some d → s.path.xfer = some x → x.chained = false →
    (t.drive d).cur = some { op with ended := true } ∧ t.path.holder = some d ∧ t.path.xfer = some { x with cont := false }
  atOnce : ∀ d op, (s.drive d).cur = some op → op.oid = oid → op.kind.hostOrdered = true → op.kind ≠ .surface →
    (s.path.holder = some d → ∀ x, s.path.xfer = some x → x.chained = true) →
    ∀ op', (t.drive d).cur = some op' → op'.kind.hostOrdered = true → op'.oid ≠ oid

/-- A drive without what grants and the reassignment engine change. -/
def Drive.kept (x : Drive) : Drive := { x with request := false, pendReassign := false, tally := DriveTallies.zero }

/-- Every drive but those in `D` that takes no new work is whole, but for a grant and a REASSIGN placed. -/
def BusyWhole (s t : State) (D : List DriveId) : Prop :=
  ∀ d, d ∉ D → (s.drive d).takesNoWork = true → (t.drive d).kept = (s.drive d).kept

end Sys2Proof.Machine
end

