-- ==== Sys2Proof/Certificates/Slice0/Obligations.lean ====
section
/-! DEFINITION. The statements for the provers. Each speaks of a command through `exec`, or of a rule's computation through the
operation that carries it out. After a command's own effect the immediate actions run (log 5): what a statement says of the next
state holds after them. Where the model chose what the manual leaves open, the docstring names the log entry. -/

open Sys2Proof Sys2Proof.Machine

/-! ## The step -/

/-- A step takes the command at the front of the queue and runs it on the rest of the queue. -/
def Obligations.StepRunsFrontCommand : Prop :=
  ∀ (c : Instr) (rest : List Instr) (s : State), s.pending = c :: rest → step s = exec c { s with pending := rest }

/-- With no command waiting 10 µs pass and nothing else happens but that the commands of the timers then due are queued (the
model's choice, log 10). -/
def Obligations.IdleStepTicks : Prop :=
  ∀ s : State, s.pending = [] → s.powered = true →
    ∃ t, step s = .next t ∧ t.clock = s.clock + 1 ∧ (∀ c, c ∈ t.pending ↔ TimerDue t c) ∧
      { t with clock := s.clock, pending := [] } = s

/-- Every command answers with a next state and leaves the queue of commands alone; without power none but power-on does anything
(the model's choice, log 2). -/
def Obligations.EveryCommandAnswers : Prop :=
  ∀ (c : Instr) (s : State), ∃ t, exec c s = .next t ∧ t.pending = s.pending ∧
    (s.powered = false → (∀ plugs poll, c ≠ .powerOn plugs poll) → t = s)

/-- R162, R165 to R168: no command but power-on and TABLE PUT changes a setting. That none moves the clock either, and that a command
without power changes nothing, are the model's choices (logs 10 and 2). -/
def Obligations.SettingsChangeByTablePut : Prop :=
  ∀ (c : Instr) (s t : State), setsTables c = false → exec c s = .next t → SettingsKept s t

/-! ## Power and the string reset -/

/-- R1 to R4, R8, R21, R22, R77, R84, R92, R126, R139, R149, R158, R162, R168, R169: POWER_ON rebuilds all controller state from the
plugs and the poll, and the lowest-addressed drive found takes the spin-up turn. That a channel's step lines and recalibration
limit stand at 0 is the model's choice (log 3). It keeps the media (the model's, log 6), where the controller has power it stands
for a failure and a power-on (the model's choice, log 2), and in channel mode 8 the entries put at an address not served before
win over the defaults (the model's choice, log 43), a policy among them with its verify threshold clamped to the S then in force (the
model's choice, log 46). -/
def Obligations.PowerOnRebuilds : Prop :=
  ∀ (plugs : Plugs) (poll : Poll) (s : State), ∃ t, exec (.powerOn plugs poll) s = .next t ∧
    let found := fun d => served plugs.mode8 d = true ∧ (poll.get d).isSome = true
    t.powered = true ∧ t.startCause = .powerOn ∧ t.plugs = plugs ∧ t.clock = 0 ∧ t.watchOverflows = 0 ∧
    t.watch = List.replicate 16 .empty ∧ (s.powered = false → t.media = s.media) ∧ (s.powered = true → Torn s t fun _ => True) ∧
    t.path = DataPath.initial ∧ t.ring = Ring.initial ∧ t.waitList = [] ∧ (∀ i, (t.wslots.get i).state = .free) ∧
    t.reassign = ReassignEngine.initial ∧ t.verify = VerifyEngine.initial ∧
    (∀ p, (t.port p).window = Window.cleared ∧ (t.port p).access = PortAccess.initial (p = plugs.maintenance) ∧
      (∀ g, (t.port p).slots.get g = none) ∧ (t.port p).counters = [0, 0, 0] ∧ (t.port p).notices = Oct.all 0 ∧
      (t.port p).toSend = [] ∧ (t.port p).dataReqs = []) ∧
    (∀ d, (t.drive d).holder = none ∧ (t.drive d).counter = 0 ∧ (t.drive d).present = (decide (found d)) ∧
      (t.drive d).tally = DriveTallies.zero ∧ (t.drive d).spare = [] ∧ (t.drive d).mapState = .clean ∧
      (t.drive d).mapHeld = false ∧ (t.drive d).pool = (t.drive d).freshPool ∧ (t.drive d).cur = none ∧ (t.drive d).queue = [] ∧
      (t.drive d).sweepIn = true ∧ (t.drive d).chan = Channel.initial (t.drive d).profile ∧
      (t.drive d).policy = if plugs.mode8 = true ∧ (s.drive d).policyLater = true then
        { (s.drive d).policy with
          verifyThreshold := min (max (s.drive d).policy.verifyThreshold 1) (((t.drive d).geom.map Geometry.s).getD 32) }
        else Policy.initial) ∧
    (∀ d n, served plugs.mode8 d = true → poll.get d = some n → (t.drive d).plugType = n.val ∧
      (t.drive d).geom =
        (if plugs.mode8 = true ∧ (s.drive d).geomLater = true then (s.drive d).geom else builtinGeometry n.val) ∧
      (t.drive d).profile =
        (if plugs.mode8 = true ∧ (s.drive d).profileLater = true then (s.drive d).profile else builtinProfile n.val)) ∧
    ∀ d, (¬found d → (t.drive d).state = .absent) ∧
      (found d → (∀ e, e < d → ¬found e) → (t.drive d).state = .spinningUp) ∧
      (found d → (∃ e, e < d ∧ found e) → (t.drive d).state = .waitingSpin)

/-- R21, R71: POWER_FAILURE takes the power; a sector write in transfer is left TORN (where in the frame is left open, log 6), and
every other sector as it was. That the settings stand until the next power-on is the model's choice (log 2). -/
def Obligations.PowerFailureTearsWrite : Prop :=
  ∀ s : State, s.powered = true → ∃ t, exec .powerFailure s = .next t ∧ t.powered = false ∧ SettingsKept s t ∧
    Torn s t fun _ => True

/-- R20, R71, R158, R170: STRING_RESET_LINE resets the string with the start cause RESET LINE, and an accepted STRING RESET order with
the start cause RESET ORDER, the order itself ending COMPLETE. A sector write in transfer is left TORN (log 6). -/
def Obligations.StringResets : Prop :=
  (∀ (p : Port) (poll : Poll) (s : State), s.powered = true →
    ∃ t, exec (.stringResetLine p poll) s = .next t ∧ t.startCause = .resetLine ∧ StringReset s t poll ∧
      Torn s t (fun _ => True) ∧ ∀ q, (t.port q).refusals = (s.port q).refusals ∧ (t.port q).timeouts = (s.port q).timeouts ∧
        (t.port q).protocolErrors = (s.port q).protocolErrors ∧ SlotsKept s t q) ∧
  ∀ (f : OrderFrame) (poll : Poll) (tag : Tag) (s : State), Accepted s .stringReset f tag → s.numberLaw →
    ∃ t, exec (.stringReset f poll) s = .next t ∧ t.startCause = .resetOrder ∧ StringReset s t poll ∧
      Torn s t (fun _ => True) ∧ Ended t f.port tag s.nextOid .complete

/-! ## Rotation -/

/-- R5, R6, R7, R9: INDEX_PULSE sets the sector counter to 0, records the pulse time, and starts an armed watchdog again with two
revolution periods; in ABSENT the counter does not count and the pulse time alone is recorded. In SPINNING UP an interval
within tolerance raises the qualification count and another clears it; at three in a row the drive goes RECALIBRATING, or
FENCED with its geometry unset. -/
def Obligations.IndexPulseCounts : Prop :=
  (∀ (d : DriveId) (s : State), s.powered = true → (s.drive d).state ≠ .absent →
    ∃ t, exec (.indexPulse d) s = .next t ∧ (t.drive d).counter = 0 ∧
      ((s.drive d).state ≠ .waitingSpin → (t.drive d).lastIndex = some s.clock) ∧
      ((s.drive d).state.armed = true →
        (t.drive d).watchFrom = s.clock ∧ (t.drive d).watchLimit = 2 * (s.drive d).period) ∧
      (t.drive d).holder = (s.drive d).holder ∧ t.media = s.media ∧ Untouched s t [d] []) ∧
  (∀ (d : DriveId) (s : State), s.powered = true → (s.drive d).state = .absent →
    ∃ t, exec (.indexPulse d) s = .next t ∧ (t.drive d).lastIndex = some s.clock ∧ (t.drive d).state = .absent ∧
      (t.drive d).counter = (s.drive d).counter ∧ t.media = s.media ∧ Untouched s t [] [] ∧ BusyWhole s t [d]) ∧
  ∀ (d : DriveId) (s : State) (last : Nat), s.powered = true → (s.drive d).state = .spinningUp →
    (s.drive d).lastIndex = some last → last ≤ s.clock →
    ∃ t, exec (.indexPulse d) s = .next t ∧
      ((s.clock - last : Int) - (s.drive d).period > (s.drive d).period / 32 ∨
          ((s.drive d).period : Int) - (s.clock - last) > (s.drive d).period / 32 →
        (t.drive d).state = .spinningUp ∧ (t.drive d).qual = 0) ∧
      ((s.clock - last : Int) - (s.drive d).period ≤ (s.drive d).period / 32 →
        ((s.drive d).period : Int) - (s.clock - last) ≤ (s.drive d).period / 32 →
          ((s.drive d).qual < 2 → (t.drive d).state = .spinningUp ∧ (t.drive d).qual = (s.drive d).qual + 1) ∧
          (2 ≤ (s.drive d).qual → (t.drive d).state = if (s.drive d).geom.isSome then .recalibrating else .fenced))

/-- R5: SECTOR_PULSE raises the sector counter, which stays at S−1 whatever pulses follow. A counter above S−1, left by a GEOMETRY
PUT of fewer sectors, stays where it is: the model's choice (log 33). -/
def Obligations.SectorPulseCounts : Prop :=
  ∀ (d : DriveId) (s : State), s.powered = true → (s.drive d).state ≠ .absent →
    ∃ t, exec (.sectorPulse d) s = .next t ∧
      (t.drive d).counter =
        (if (s.drive d).counter + 1 < (s.drive d).sectors then (s.drive d).counter + 1 else (s.drive d).counter) ∧
      (t.drive d).holder = (s.drive d).holder ∧ t.media = s.media ∧ Untouched s t [d] []

/-- R7, R9, R13, R39: the spin-up limit and the index watchdog, when due on the clock (the model's choice, log 29), and
RECALIBRATION_FAILED, the update that gives the report (the model's choice, log 26), take their drive to NOT READY. A sector
write the drive has in transfer is left TORN (R71, log 6). -/
def Obligations.FailureTakesDriveOut : Prop :=
  ∀ (d : DriveId) (s : State), s.powered = true →
    (s.spinDue d = true → ∃ t, exec (.spinUpLimitExpiry d) s = .next t ∧ TakenOut s t d ∧ Torn s t (· = d) ∧
      Untouched s t [] []) ∧
    (s.watchdogDue d = true → ∃ t, exec (.indexWatchdogExpiry d) s = .next t ∧ TakenOut s t d ∧ Torn s t (· = d) ∧
      Untouched s t [] []) ∧
    (s.limitNext d = true → ∃ t, exec (.recalibrationFailed d) s = .next t ∧ TakenOut s t d ∧ Torn s t (· = d) ∧
      Untouched s t [] [])

/-! ## The positioner channels -/

/-- R26, R28 to R30, R38, R40: the per-update quantities of a profile in the two channel modes; the stopping distance, its sum at a
multiple of a_u, and the decision it makes in ACCEL and CRUISE; and the start of a motion. A seek asked for on cylinder starts unless
its length is 0, when it reports at once and adopts nothing; with the position not known a recalibration comes first; and a motion in
flight makes the request wait (R105). Fine position and target keep their values at the start of a recalibration (log 24). -/
def Obligations.MotionArithmetic : Prop :=
  (∀ (mode8 : Bool) (p : Profile), let m := if mode8 then 2 else 1
    p.au (multiplier mode8) = p.a * m ^ 2 ∧ p.vmaxu (multiplier mode8) = p.vmax * m ∧ p.cu (multiplier mode8) = p.c * m ∧
      (p.settleu (multiplier mode8) : ℤ) = ⌈(p.settle : ℚ) / (m : ℚ)⌉) ∧
  (∀ au v : Nat, 0 < au → (stopping au v : ℤ) = ⌊(v : ℚ) * (v + au) / (2 * au)⌋) ∧
  (∀ au n : Nat, 0 < au → stopping au (n * au) = ((List.range n).map fun i => n * au - i * au).sum) ∧
  (∀ au : Nat, stopping au 0 = 0) ∧
  (∀ (m : Nat) (ch : Channel), ch.phase = .accel ∨ ch.phase = .cruise →
    ((nextVelocity (ch.profile.au m) (ch.profile.vmaxu m) (ch.profile.cu m) ch.phase ch.vel ch.remaining).1 = .decel ↔
      ch.remaining ≤ stopping (ch.profile.au m) ch.vel)) ∧
  ∀ (s : State) (d : DriveId) (op : Op) (g : Geometry), (s.drive d).geom = some g → (s.drive d).cur = some op →
    let ch := (s.drive d).chan
    let p := ch.staged.getD ch.profile
    (∀ target, target ≤ g.maxPos →
      let t := s.seekTo d target
      (ch.phase = .idle → ch.known = true → target ≠ ch.pos →
        (t.drive d).chan = { ch with profile := p, staged := none, target := target, inward := decide (ch.pos < target), vel := 0,
                                     phase := .accel } ∧
          (t.drive d).tally.seeks = bump (s.drive d).tally.seeks ∧
          (t.drive d).cur = some { op with stage := .moving (.seek target .transfer) }) ∧
      (ch.phase = .idle → ch.known = true → target = ch.pos →
        (t.drive d).chan = { ch with target := target } ∧ (t.drive d).tally = (s.drive d).tally ∧
          (op.kind ≠ .seek → (t.drive d).cur = some { op with stage := .transfer })) ∧
      (ch.phase = .stopped ∨ (ch.phase = .idle ∧ ch.known = false) → t = s.recalFor d (some target)) ∧
      (ch.phase.inFlight = true → (t.drive d).chan = ch ∧
        (t.drive d).cur = some { op with stage := .waiting (.seek target .transfer) })) ∧
    ∀ next,
      let t := s.recalFor d next
      (ch.phase.inFlight = true → (t.drive d).chan = ch ∧ (t.drive d).cur = some { op with stage := .waiting (.recal next) }) ∧
      (ch.phase.inFlight = false → (t.drive d).cur = some { op with stage := .moving (.recal next) } ∧ ∃ limit,
        (t.drive d).chan = { ch with profile := p, staged := none, known := false, phase := .recal, vel := p.cu s.m, inward := false,
                                     settle := 0, recalCount := 0, recalLimit := limit } ∧
          (0 < p.cu s.m → ∀ k, g.maxPos ≤ k * p.cu s.m ↔ limit ≤ k + 64))

/-- R23, R31 to R34, R39, R45: one POSITIONER_UPDATE, phase by phase. In ACCEL, CRUISE and DECEL it is a seek step; a hard arrival
doubles the settle count and is counted. In SETTLING it lowers the settle count, and at 0 the channel goes IDLE and reports: to the
operation that asked, which transfers, goes on or ends as it asked for the seek, to one whose first request waits, or to none. In
RECAL without the home sensor it raises the count and sends a creep step outward, or fails at the limit. In IDLE and STOPPED it does
nothing: what runs are the immediate actions alone (log 5). That fine position and target keep their values in RECAL and the step
lines theirs in SETTLING is the model's choice (log 24). -/
def Obligations.SeekUpdate : Prop :=
  ∀ (d : DriveId) (home : Bool) (s : State), s.powered = true → served s.plugs.mode8 d = true →
    let ch := (s.drive d).chan
    let au := ch.profile.au s.m
    let vm := ch.profile.vmaxu s.m
    let cu := ch.profile.cu s.m
    let r := if ch.pos ≤ ch.target then ch.target - ch.pos else ch.pos - ch.target
    let brake := ch.phase = .decel ∨ r ≤ stopping au ch.vel
    let v := if brake then max (ch.vel - au) cu else if ch.phase = .cruise then ch.vel else min (ch.vel + au) vm
    (ch.phase = .accel ∨ ch.phase = .cruise ∨ ch.phase = .decel →
      ∃ t, exec (.positionerUpdate d home) s = .next t ∧ Untouched s t [] [] ∧ t.media = s.media ∧
        (t.drive d).chan.pos = (if ch.inward then ch.pos + min v r else ch.pos - min v r) ∧
        (t.drive d).chan.step = (if ch.inward then (min v r : Int) else -(min v r : Int)) ∧
        (v < r → (t.drive d).chan.vel = v ∧ (t.drive d).chan.phase =
          (if brake then .decel else if ch.phase = .cruise ∨ v = vm then .cruise else .accel) ∧
            (t.drive d).chan.settle = ch.settle) ∧
        (r ≤ v → (t.drive d).chan.vel = 0 ∧ (t.drive d).chan.phase = .settling ∧
          (t.drive d).chan.settle = if 2 * au < v then 2 * ch.profile.settleu s.m else ch.profile.settleu s.m) ∧
        (t.drive d).tally.hardArrivals =
          (if r ≤ v ∧ 2 * au < v then bump (s.drive d).tally.hardArrivals else (s.drive d).tally.hardArrivals) ∧
        (t.drive d).chan.target = ch.target ∧ (t.drive d).chan.inward = ch.inward ∧ (t.drive d).chan.known = ch.known ∧
        (t.drive d).chan.profile = ch.profile ∧ (t.drive d).chan.staged = ch.staged) ∧
    (ch.phase = .settling →
      ∃ t, exec (.positionerUpdate d home) s = .next t ∧ Untouched s t [] [] ∧ t.media = s.media ∧
        (1 < ch.settle → (t.drive d).chan = { ch with settle := ch.settle - 1 }) ∧
        (ch.settle = 1 → (s.drive d).state ≠ .waitingSpin → ∀ op target, (s.drive d).cur = some op → op.kind ≠ .seek →
          op.stage = .moving (.seek target .transfer) →
          (t.drive d).chan = { ch with settle := 0, phase := .idle } ∧ (t.drive d).cur = some { op with stage := .transfer })) ∧
    (ch.phase = .settling → ch.settle = 1 →
      let u := s.modChan d fun ch => { ch with settle := 0, phase := .idle }
      let goesOn := fun (v : State) => exec (.positionerUpdate d home) s = .next (settle settleFuel v)
      ((s.drive d).cur = none → goesOn u) ∧
      ∀ op, (s.drive d).cur = some op →
        (∀ target g, op.stage = .waiting (.seek target g) → goesOn (u.seekTo d target)) ∧
        (∀ next, op.stage = .waiting (.recal next) → goesOn (u.recalFor d next)) ∧
        (∀ target, op.stage = .moving (.seek target .advance) → goesOn (u.advance d op)) ∧
        ∀ target r, op.stage = .moving (.seek target (.finish r)) → goesOn (u.finish d op r)) ∧
    (ch.phase = .recal → home = false →
      ∃ t, exec (.positionerUpdate d home) s = .next t ∧ Untouched s t [] [] ∧
        (ch.recalCount + 1 < ch.recalLimit → t.media = s.media ∧
          (t.drive d).chan = { ch with recalCount := ch.recalCount + 1, step := -(cu : Int) }) ∧
        (ch.recalLimit ≤ ch.recalCount + 1 → TakenOut s t d ∧ (t.drive d).chan.known = false ∧ Torn s t (· = d))) ∧
    (ch.phase = .idle ∨ ch.phase = .stopped → exec (.positionerUpdate d home) s = .next (settle settleFuel s))

/-- R34, R35, R105, R109: ON_CYLINDER_REPORT, the update that gives the report (the model's choice, log 26), puts the
channel IDLE. An operation that asked for the seek to transfer selects its head
and names its wanted sector; a SEEK ends COMPLETE. -/
def Obligations.OnCylinderReportMeets : Prop :=
  ∀ (d : DriveId) (op : Op) (target : Nat) (s : State), s.powered = true → s.reportNext d = true →
    (s.drive d).state ≠ .waitingSpin → (s.drive d).cur = some op → op.stage = .moving (.seek target .transfer) →
    ∃ t, exec (.onCylinderReport d) s = .next t ∧ Untouched s t [] [] ∧ t.media = s.media ∧
      (op.kind ≠ .seek → (t.drive d).chan.phase = .idle ∧ (t.drive d).chan.pos = (s.drive d).chan.pos ∧
        (t.drive d).headSel = op.phys.head ∧ (t.drive d).cur = some { op with stage := .transfer }) ∧
      (op.kind = .seek → s.numberLaw → ∀ p g o, (s.port p).slots.get g = some o → o.oid = op.oid → o.live = true →
        Ended t p g o.oid .complete)

/-- R10, R39, R43, R105, R114, R115: POSITIONER_UPDATE with the home sensor seen sets the fine position to 0, the direction inward and
the position known. In a RECALIBRATE of a drive in RECALIBRATING it takes the map step; in an operation that recalibrated to seek
again it starts that seek, or, where the target is 0, ends it at once. What the channel holds after a RECALIBRATE is said of a drive
whose geometry is consistent and that has no further RECALIBRATE queued, since the next operation starts at once. -/
def Obligations.HomeFoundGoesOn : Prop :=
  ∀ (d : DriveId) (op : Op) (s : State), s.powered = true → served s.plugs.mode8 d = true →
    (s.drive d).chan.phase = .recal → (s.drive d).cur = some op →
    let ch := (s.drive d).chan
    ((s.drive d).state = .recalibrating → op.stage = .moving (.recal none) →
      ∃ t, exec (.positionerUpdate d true) s = .next t ∧ Untouched s t [] [] ∧ t.media = s.media ∧
        (t.drive d).state =
          (if (s.drive d).mapState = .dirty then .writingMap else if (s.drive d).mapHeld then .ready else .loadingMap) ∧
        ((s.drive d).pendRecal = false → (∃ g, (s.drive d).geom = some g ∧ g.consistent = true) →
          (t.drive d).chan.pos = 0 ∧ (t.drive d).chan.known = true ∧ (t.drive d).chan.inward = true)) ∧
    ∀ target, op.stage = .moving (.recal (some target)) → (s.drive d).state ≠ .waitingSpin →
      let found := { ch with recalCount := ch.recalCount + 1, pos := 0, vel := 0, inward := true, known := true, target := target }
      ∃ t, exec (.positionerUpdate d true) s = .next t ∧ Untouched s t [] [] ∧ t.media = s.media ∧
        (target = 0 → op.kind ≠ .seek → (t.drive d).chan = { found with phase := .idle } ∧ (t.drive d).headSel = op.phys.head ∧
          (t.drive d).cur = some { op with stage := .transfer } ∧ (t.drive d).tally.seeks = (s.drive d).tally.seeks) ∧
        ∀ g, (s.drive d).geom = some g → 0 < target → target ≤ g.maxPos →
          (t.drive d).chan = { found with profile := ch.staged.getD ch.profile, staged := none, phase := .accel } ∧
            (t.drive d).cur = some { op with stage := .moving (.seek target .transfer) } ∧
            (t.drive d).tally.seeks = bump (s.drive d).tally.seeks

/-! ## Laws every step keeps -/

/-- R25, R31, R32, R110: the velocity does not exceed the top velocity of the profile in force and is 0 in IDLE, SETTLING and STOPPED; a
served drive's known fine position stays within 0 to (C−1) × 64, and short of the target of the seek under way; the attempt of a retry ladder
has a step of 1 or more. -/
def Obligations.MotionLawsKept : Prop :=
  ∀ s t : State, step s = .next t →
    (s.velocityLaw → t.velocityLaw) ∧ (s.positionLaw → t.positionLaw) ∧ (s.ladderLaw → t.ladderLaw)

/-- R8, R126, R127, R139: at most one drive is SPINNING UP; the verify engine is BUSY exactly while the SURFACE VERIFY of its order is
current on its drive, one in the string; a REASSIGN is queued or current only on the drive whose entry the reassignment engine
has taken, one in the string; a SURFACE VERIFY writes on a FENCED drive alone (R140). The law of the reassignment engine is kept
together with that of the verify engine, which says that no other drive has a SURFACE VERIFY current. -/
def Obligations.TurnsKept : Prop :=
  ∀ s t : State, step s = .next t →
    (s.spinLaw → t.spinLaw) ∧ (s.verifyLaw → t.verifyLaw) ∧ (s.verifyLaw → s.engineLaw → t.engineLaw)

/-- R84, R120, R128: the read ring never holds more than its 24 slots; the watch list keeps its 16 slots and never has two entries for
one home track of one drive, the entry that the reassignment engine holds while it copies counted in; the media keep their one
form (log 6). -/
def Obligations.StoreFormsKept : Prop :=
  ∀ s t : State, step s = .next t →
    (s.ringLaw → t.ringLaw) ∧ (s.watchLaw → t.watchLaw) ∧ (s.mediaLaw → t.mediaLaw)

/-- R165, R168, R169: no tally goes above 65535, and at least one port holds the maintenance right. -/
def Obligations.TalliesAndRightKept : Prop :=
  ∀ s t : State, step s = .next t → (s.tallyLaw → t.tallyLaw) ∧ (s.maintenanceLaw → t.maintenanceLaw)

/-- R149: no two orders held have the same serial number, whatever is accepted and ended (log 7). -/
def Obligations.NumberLawKept : Prop := ∀ s t : State, s.numberLaw → step s = .next t → t.numberLaw

/-- R21, R84, R120, R168, R169: the laws hold right after reset. The reset state is that of a power-on with the plugs and the poll
the model chose (log 1), with blank media (log 6) and no serial number given out (log 7). -/
def Obligations.LawsHoldAtReset : Prop :=
  State.reset.velocityLaw ∧ State.reset.positionLaw ∧ State.reset.ladderLaw ∧ State.reset.spinLaw ∧ State.reset.verifyLaw ∧
    State.reset.engineLaw ∧ State.reset.ringLaw ∧ State.reset.watchLaw ∧ State.reset.mediaLaw ∧ State.reset.tallyLaw ∧
    State.reset.maintenanceLaw ∧ State.reset.numberLaw ∧ State.reset.sparingLaw ∧ State.reset.unservedLaw

/-! ## The sparing unit -/

/-- R48, R53: the lookup of a home track, and the allocation of an alternate: the lowest-numbered FREE position, none when no position
is FREE. -/
def Obligations.LookupAndAllocation : Prop :=
  (∀ (spare : List SpareEntry) (t : Track), (spare.map SpareEntry.home).Nodup →
    ((∀ e ∈ spare, e.home ≠ t) → lookupTrack spare t = (t, .home)) ∧
    ∀ e ∈ spare, e.home = t →
      lookupTrack spare t = if e.pending = true ∧ e.replacement = none then (t, .home) else (e.alt, .alternate t.cyl t.head)) ∧
  ∀ pool : List PoolState,
    (∀ p, lowestFree pool = some p ↔ pool[p]? = some .free ∧ ∀ q, q < p → pool[q]? ≠ some .free) ∧
    (lowestFree pool = none ↔ .free ∉ pool)

/-- R52, R131, R135: after an abort the spare map and the pool are as they were before the reassignment began, but that the positions
whose trials failed are DEAD, whether or not the last of them has a successor. The abort of a reassignment is that of the drive
the engine works for: a queued REASSIGN is dropped, with its entry in the list as it was; or the map is restored and the held
entry returns to its slot. The engine goes FREE, its items at their initial values (log 41), and no notice, no tally and no other drive
changes. -/
def Obligations.AbortRestoresMap : Prop :=
  (∀ (x : Drive) (g : Geometry) (home : Track) (pos : Nat) (more : List Nat), x.geom = some g → g.consistent = true → x.mapLaw g →
    (lowestSlot x.spare).isSome = true → (∀ p ∈ pos :: more, x.pool[p]? = some .free) → (pos :: more).Nodup →
    let y := more.foldl (fun z q => (z.killTrial home).nextTrial home q) (x.beginSparing home pos)
    let killed := fun (l : List Nat) => ({ x with pool := l.foldl (fun pool p => pool.set p .dead) x.pool } : Drive)
    y.sparingUndone home = killed (pos :: more).dropLast ∧ (y.killTrial home).sparingUndone home = killed (pos :: more)) ∧
  ∀ (s : State) (d : DriveId),
    (s.engineDrive ≠ some d → s.abortReassign d = s) ∧
    (s.engineDrive = some d → let t := s.abortReassign d
      t.reassign = ReassignEngine.initial ∧ t.ports = s.ports ∧ (∀ e, e ≠ d → t.drive e = s.drive e) ∧
      (s.reassign.state = .taken → t.watch = s.watch ∧ t.drive d = { s.drive d with pendReassign := false }) ∧
      ∀ i e, s.reassign.state = .copying → s.reassign.slot = some i → s.reassign.held = some e →
        t.watch = s.watch.set i (.entry e) ∧ t.drive d = (s.drive d).sparingUndone e.home)

/-- R59, R63: a record composed from a lawful map passes every check, and loading it gives the pool and every lookup back. It fits the
three sectors, and the sectors that hold it give it back whether they are met by its fields or as bytes, whatever filler follows
it: sectors past its end may hold anything, the end of another record too (how its fields are written as bytes is left open,
log 9). -/
def Obligations.MapRecordRoundTrip : Prop :=
  (∀ (x y : Drive) (g : Geometry), g.consistent = true → x.mapLaw g →
    recordAcceptable g (composeRecord g x) = true ∧ (y.loadRecord (composeRecord g x)).pool = x.pool ∧
      (y.loadRecord (composeRecord g x)).mapState = .clean ∧
      (∀ t, lookupTrack (y.loadRecord (composeRecord g x)).spare t = lookupTrack x.spare t) ∧
      (g.type < 16 → (composeRecord g x).storable = true)) ∧
  (∀ (r : MapRecord) (sectors : List Payload), r.storable = true → r.sumOk = true → sectors.length = 3 →
    (∀ n, n < 3 → ∃ filler, sectors[n]? = some (.record n r filler) ∨
      sectors[n]? = some (.bytes (payloadBytes (.record n r filler)))) →
    assembleRecord sectors = some r) ∧
  ∀ (r : MapRecord) (sectors : List Payload), r.storable = true → r.sumOk = true →
    recordCode.bytes r <+: sectors.flatMap payloadBytes → assembleRecord sectors = some r

/-- R62 to R64: a MAP LOAD reads the three sectors of the record one after another. A sector that ends INCOMPLETE or LOST, past the
last step of its ladder, or by its second seek check, refuses the record: the map is emptied, the drive goes MAP LOST, and the
orders that wait for the map end MAP UNAVAILABLE. After the third sector the record is held and the drive goes READY exactly when
it passes the checks of R63; a COMPLETE ending goes to the UNFENCE and DRIVE RESET that waited. Where the arm is off the centre,
it goes back there first (R112). How three sectors make a record is log 9; that a record whose number of entries is not its entry
count is refused is the model's choice (log 35); a header not of kind MAP goes through the ladder (log 15). -/
def Obligations.MapLoadRuns : Prop :=
  ∀ (s : State) (d : DriveId) (op : Op) (g : Geometry), (s.drive d).geom = some g → (s.drive d).cur = some op →
    op.kind = .mapLoad → op.pass = .read →
    let ordersEnd := fun (t : State) (q : Order → Prop) (r : Result) => s.numberLaw →
      ∀ p k o, (s.port p).slots.get k = some o → o.drive = some d → o.live = true → q o → Ended t p k o.oid r
    let refused := fun (t : State) => (t.drive d).state = .mapLost ∧ (t.drive d).spare = [] ∧
      (t.drive d).pool = (s.drive d).freshPool ∧ (t.drive d).mapState = .clean ∧ (t.drive d).mapHeld = false ∧
      (t.drive d).cur = none ∧ t.media = s.media ∧
      ordersEnd t (fun o => (o.kind.driveQueued = true ∧ o.state = .queued) ∨ o.kind = .unfence ∨ o.kind = .driveReset)
        .mapUnavailable
    (∀ p, op.ladder = none → op.sector < 2 → ((s.readOutcome d op (.good p)).drive d).cur =
      some { op with got := op.got ++ [p], sector := op.sector + 1, stage := .transfer, checked := false }) ∧
    (∀ p, op.ladder = none → 2 ≤ op.sector →
      let t := s.readOutcome d op (.good p)
      (∀ r, assembleRecord (op.got ++ [p]) = some r → recordAcceptable g r = true →
        (t.drive d).state = .ready ∧ (t.drive d).mapHeld = true ∧ (t.drive d).mapState = .clean ∧ (t.drive d).pool = r.pool ∧
          (t.drive d).spare.length = r.entries.length ∧
          (∀ n e, r.entries[n]? = some e → (t.drive d).spare[n]? = some
            ({ slot := n, home := e.home, alt := e.alt, pending := false, origin := e.origin, replacement := none } :
              SpareEntry)) ∧
          (t.drive d).cur = none ∧ t.media = s.media ∧
          ordersEnd t (fun o => o.kind = .unfence ∨ o.kind = .driveReset) .complete) ∧
      ((∀ r, assembleRecord (op.got ++ [p]) = some r → recordAcceptable g r = false) → refused t)) ∧
    (∀ out, (s.drive d).chan.pos = centre op.phys.cyl →
      out = .incomplete ∨ out = .lost ∨
        ((out = .dataCheck ∨ out = .mismatch false) ∧ ∃ l, op.ladder = some l ∧ 2 * l.k < l.step) →
      refused (s.readOutcome d op out)) ∧
    (op.checked = true → refused (s.readOutcome d op (.mismatch true)))

/-- R60, R65, R66: a MAP WRITE composes the record from the map held, makes the map state WRITING and binds the COMMIT MAP orders that
wait. Its three sectors are written and then read back; a read-back that fails has the whole record written once more, after a
recalibration when the header named another cylinder, and a second failure ends the operation. At the end WRITING becomes CLEAN or
UNSAVED and a map changed meanwhile stays DIRTY, the COMMIT MAP orders bound to it end COMPLETE or DATA CHECK, and the drive goes
READY from WRITING MAP, and from MAP LOST on success. A read-back pass stops at its first failing sector, and SEEK CHECKS is raised in
the second pass too (log 16); READY from MAP LOST is entered whether or not an order waits (log 19); in a drive that an earlier write
has taken READY the orders end the same way (log 34). -/
def Obligations.MapWriteRuns : Prop :=
  (∀ (s : State) (d : DriveId) (g : Geometry), (s.drive d).geom = some g →
    let t := s.startMapWrite d
    (t.drive d).mapState = .writing ∧ (t.drive d).spare = (s.drive d).spare ∧ (t.drive d).pool = (s.drive d).pool ∧
      (∃ op, (t.drive d).cur = some op ∧ op.kind = .mapWrite ∧ op.record = some (composeRecord g (s.drive d)) ∧
        op.phys = { cyl := g.c - 1, head := 0 } ∧ op.header = .map ∧ op.sector = 0 ∧ op.pass = .write ∧ op.attempt = 1) ∧
      (s.numberLaw → ∀ p k o, (s.port p).slots.get k = some o → ∃ o', (t.port p).slots.get k = some o' ∧ o'.oid = o.oid ∧
        (o'.bound = true ↔ o.bound = true ∨ (o.kind = .commitMap ∧ o.drive = some d ∧ o.live = true)))) ∧
  ∀ (s : State) (d : DriveId) (op : Op) (r : MapRecord), (s.drive d).cur = some op → op.kind = .mapWrite → op.record = some r →
    let again := fun (n : Nat) (p : Pass) =>
      ({ op with sector := n, pass := p, stage := .transfer, ladder := none, checked := false } : Op)
    let ends := fun (t : State) (ok : Bool) => (t.drive d).cur = none ∧
      (t.drive d).mapState = (match (s.drive d).mapState with
        | .writing => if ok = true then .clean else .unsaved
        | m => m) ∧
      (t.drive d).state =
        (if (s.drive d).state = .writingMap ∨ ((s.drive d).state = .mapLost ∧ ok = true) then .ready else (s.drive d).state) ∧
      (t.drive d).spare = (s.drive d).spare ∧ (t.drive d).pool = (s.drive d).pool ∧ t.media = s.media ∧
      (s.numberLaw → ∀ p k o, (s.port p).slots.get k = some o → o.kind = .commitMap → o.drive = some d → o.live = true →
        (o.bound = true → Ended t p k o.oid (if ok = true then .complete else .dataCheck)) ∧
        (o.bound = false → (t.port p).slots.get k = some o))
    (op.pass = .write →
      s.frameFor d op = some (.framed true (op.expected d false) (.good (.record op.sector r []))) ∧
      (op.sector < 2 → ((s.writeOutcome d op).drive d).cur = some (again (op.sector + 1) .write)) ∧
      (2 ≤ op.sector → ((s.writeOutcome d op).drive d).cur = some (again 0 .readBack))) ∧
    (op.pass = .readBack → ∀ out,
      let t := s.readOutcome d op out
      let passes := ∃ p, out = .good p ∧ sameData (.record op.sector r []) p = true
      (passes → op.sector < 2 → (t.drive d).cur = some (again (op.sector + 1) .readBack)) ∧
      (passes → 2 ≤ op.sector → ends t true) ∧
      (¬passes → op.attempt < 2 → out ≠ .mismatch true →
        (t.drive d).cur = some { again 0 .write with attempt := op.attempt + 1 } ∧
          (t.drive d).tally = (s.drive d).tally) ∧
      (¬passes → out = .mismatch true → (t.drive d).tally.seekChecks = bump (s.drive d).tally.seekChecks ∧
        (op.attempt < 2 → (s.drive d).geom.isSome = true → (s.drive d).chan.phase = .idle → (t.drive d).chan.phase = .recal ∧
          (t.drive d).cur = some { again 0 .write with
            attempt := op.attempt + 1, stage := .moving (.recal (some (centre op.phys.cyl))) })) ∧
      (¬passes → 2 ≤ op.attempt → ends t false))

/-- R48 to R51: every step keeps the laws of the spare map and the pool, with the reassignment in flight. Every alternate and pending
replacement named is IN USE and named once, and every IN USE position is named, so that those named, the FREE and the DEAD
positions make up the pool but for the map track. The laws of the two engines are premises: they say which operation is
current for whom. Where all that an entry can come from names user tracks, the entries after the step do. The laws are those of the
served drives; at an address not served nothing is named or held, whatever geometry is put there (R1, R44; log 46). -/
def Obligations.SparingLawKept : Prop :=
  (∀ s t : State, step s = .next t → s.verifyLaw → s.engineLaw → s.sparingLaw →
    t.sparingLaw ∧ (s.namesUserTracks → ∀ d g, served t.plugs.mode8 d = true → (t.drive d).geom = some g →
      ∀ e ∈ (t.drive d).spare, g.isUser e.home = true)) ∧
  (∀ s t : State, step s = .next t → s.unservedLaw → t.unservedLaw) ∧
  ∀ (x : Drive) (g : Geometry) (flight : Option Track), g.consistent = true → x.sparingLaw g flight →
    (x.spare.flatMap SpareEntry.tracks).length + x.pool.count .free + x.pool.count .dead = g.poolSize - 1

/-- R67, R68: every accepted PUT of the spare map or the pool keeps the laws of R49 and R50. -/
def Obligations.MapEditsKeepLaw : Prop :=
  ∀ (x : Drive) (g : Geometry) (i : Nat), x.geom = some g → g.consistent = true → x.mapLaw g → i < 128 →
    (∀ b : List Byte, (b ≠ [] → x.entryBad g (loadedEntry i b) = false) → (x.putSlot i b).mapLaw g) ∧
    ∀ st : PoolState, st = .free ∨ st = .dead → i < g.poolSize → i ≠ g.mapPos → x.pool[i]? ≠ some .inUse →
      (x.putPool i st).mapLaw g

/-! ## The watch list -/

/-- R121, R122, R124, R125: a recovered-sector report and an unrecovered-sector report, by the watch entry they find. Reports of the
track the reassignment engine holds do not arise, and the model does nothing at one (log 44). -/
def Obligations.WatchReports : Prop :=
  ∀ (s : State) (d : DriveId) (home : Track), s.heldFor d home = false →
    let now : WatchEntry :=
      { drive := d, home := home, count := 1, windowStart := s.stringTime, candTime := none, cause := none, state := .counting }
    let made := fun (i : Nat) (e : WatchEntry) (c : Cause) =>
      (s.setSlot i (.entry { e with state := .candidate, cause := some c, candTime := some s.stringTime })).setNotice e.drive
        noticeCandidate
    (findWatch s.watch d home = none →
      (∀ i, slotForNew s.watch = some i → s.unrecoveredReport d home = made i now .unrecovered ∧
        ((s.drive d).policy.threshold ≤ 1 → s.recoveredReport d home = made i now .recovered) ∧
        (1 < (s.drive d).policy.threshold → s.recoveredReport d home = s.setSlot i (.entry now))) ∧
      (slotForNew s.watch = none → s.unrecoveredReport d home = s.overflowWatch ∧ s.recoveredReport d home = s.overflowWatch)) ∧
    ∀ i e, findWatch s.watch d home = some i → watchEntry s.watch i = some e →
      (e.state = .counting → s.unrecoveredReport d home = made i e .unrecovered ∧
        (e.count < 15 → (s.drive d).policy.threshold ≤ e.count + 1 →
          s.recoveredReport d home = made i { e with count := e.count + 1 } .recovered) ∧
        (e.count < 15 → e.count + 1 < (s.drive d).policy.threshold →
          s.recoveredReport d home = s.setSlot i (.entry { e with count := e.count + 1 }))) ∧
      (e.state ≠ .counting → s.recoveredReport d home = s.setSlot i (.entry { e with count := min (e.count + 1) 15 })) ∧
      (e.state = .candidate → e.cause = some .recovered →
        s.unrecoveredReport d home = s.setSlot i (.entry { e with cause := some .unrecovered })) ∧
      (e.state = .candidate → e.cause ≠ some .recovered → s.unrecoveredReport d home = s) ∧
      (e.state = .stuck → s.unrecoveredReport d home = s)

/-- R120, R123, R124: a new entry takes the lowest empty slot; with none empty, that of the COUNTING entry with the earliest window
start, the lower slot between equals; with no COUNTING entry, none. WATCH_WINDOW_EXPIRY removes the COUNTING entry whose window has
passed on the clock (the model's choice, log 29). -/
def Obligations.WatchSlotsGivenAndFreed : Prop :=
  (∀ w : List WatchSlot,
    (∀ i, slotForNew w = some i →
      (w[i]? = some .empty ∧ ∀ j, j < i → w[j]? ≠ some .empty) ∨
      (.empty ∉ w ∧ ∃ e, w[i]? = some (.entry e) ∧ e.state = .counting ∧
        ∀ j f, w[j]? = some (.entry f) → f.state = .counting →
          e.windowStart ≤ f.windowStart ∧ (j < i → e.windowStart < f.windowStart))) ∧
    (slotForNew w = none ↔ .empty ∉ w ∧ ∀ f, .entry f ∈ w → f.state ≠ .counting)) ∧
  ∀ (i : Fin 16) (s : State), s.powered = true → s.windowDue i = true →
    ∃ t, exec (.watchWindowExpiry i) s = .next t ∧ t.watch[i.val]? = some .empty ∧ t.watchOverflows = s.watchOverflows ∧
      t.media = s.media ∧ Untouched s t [] [] ∧ BusyWhole s t []

/-- R127, R128, R136: an accepted REASSIGN TRACK makes the watch entry of its home track a candidate with cause ORDERED, or gives the
reassignment in flight for it that cause; with no slot to be had it ends REASSIGN FAILED and WATCH OVERFLOWS is raised. What
follows at once stands in the statement too: the entry stays in its slot, or goes to the engine that copies it, or is STUCK
for want of a FREE position, its order ended NO ALTERNATE. A FREE engine with no other candidate takes it, and an idle drive
starts the REASSIGN. The items of an engine that has just taken an entry stand at their initial values (log 41). -/
def Obligations.ReassignTrackActs : Prop :=
  ∀ (f : OrderFrame) (tag : Tag) (d : DriveId) (s : State), Accepted s .reassignTrack f tag →
    (s.accessOf f).phys = some d → s.numberLaw → s.engineLaw → s.ringLaw →
    let home : Track := { cyl := f.cyl.toNat, head := f.head.toNat }
    ∃ t o, exec (.reassignTrack f) s = .next t ∧ Taken s t .reassignTrack f tag (some d) o ∧ PortKept s t f.port ∧
      t.media = s.media ∧ Untouched s t [] [f.port] ∧
      (s.heldFor d home = true → t.watch = s.watch ∧
        t.reassign = { s.reassign with held := s.reassign.held.map fun e => { e with cause := some .ordered } }) ∧
      (s.heldFor d home = false → findWatch s.watch d home = none → slotForNew s.watch = none →
        t.watchOverflows = bump s.watchOverflows ∧ o.result = some .reassignFailed) ∧
      (s.heldFor d home = false → ∀ i e, s.orderedEntry d home = some (i, e) →
        (s.reassign.state = .copying → t.watch = s.watch.set i (.entry e)) ∧
        (t.watch[i]? = some (.entry e) ∨
          (t.watch[i]? = some .reserved ∧ t.reassign.state = .copying ∧ t.reassign.held = some e) ∨
          (t.watch[i]? = some (.entry { e with state := .stuck }) ∧ o.result = some .noAlternate)) ∧
        (s.reassign.state = .free → (∀ g : WatchEntry, .entry g ∈ s.watch → s.eligible g = false) →
          ((s.drive d).cur.isSome = true → t.watch = s.watch.set i (.entry e) ∧
            t.reassign = { ReassignEngine.initial with state := .taken, slot := some i } ∧ (t.drive d).pendReassign = true) ∧
          ((s.drive d).cur = none → (s.drive d).pendRecal = false → (s.drive d).pendLoad = false →
            (s.drive d).pendWrite = false →
            (∀ pos, lowestFree (s.drive d).pool = some pos → t.watch[i]? = some .reserved ∧
              t.reassign = { ReassignEngine.initial with state := .copying, slot := some i, held := some e, tried := 1 } ∧
              (∀ g, (s.drive d).geom = some g → g.consistent = true → (s.drive d).pool.length = g.poolSize →
                (t.drive d).pool[pos]? = some .inUse) ∧
              ∃ op, (t.drive d).cur = some op ∧ op.kind = .reassign ∧ op.home = home) ∧
            (lowestFree (s.drive d).pool = none → t.watch[i]? = some (.entry { e with state := .stuck }) ∧
              o.result = some .noAlternate))))

/-- R127 to R134: a REASSIGN from its start to its end. With no position FREE the entry is STUCK and the REASSIGN TRACK orders that wait
end NO ALTERNATE; else the position is named, the entry is held, and the track is read to the buffer, each place GOOD with its data
or LOST. The alternate is written from the buffer, LOST places with the LOST flag and zero data, and read back. The first sector
that fails makes the alternate DEAD and the next FREE one is tried, three in all; the second seek check fails the reassignment. A
reassignment that fails leaves the entry STUCK and the old alternate in service; one that succeeds puts the track on the new
alternate, its old one DEAD, and keeps the laws of the map. A place marked LOST whose alternate reads GOOD or DATA CHECK fails the
read-back (log 17); a new PENDING entry has origin AUTO (log 21); the items of the engine stand at their initial values at the end
(log 41): the model's. -/
def Obligations.ReassignRuns : Prop :=
  (∀ (x : Drive) (g : Geometry) (home : Track) (pos : Nat) (origin : Origin), x.geom = some g → g.consistent = true → x.mapLaw g →
    g.isUser home = true → x.pool[pos]? = some .free → (lowestSlot x.spare).isSome = true →
    let y := (x.beginSparing home pos).sparingDone home origin
    y.mapLaw g ∧ lookupTrack y.spare home = (g.posTrack pos, .alternate home.cyl home.head) ∧
      (∀ t, t ≠ home → lookupTrack y.spare t = lookupTrack x.spare t) ∧
      ∀ e ∈ x.spare, e.home = home → y.pool[g.trackPos e.alt]? = some .dead) ∧
  ∀ (s : State) (d : DriveId) (g : Geometry), (s.drive d).geom = some g →
    let x := s.drive d
    let eng := s.reassign
    let waiting := fun (t : State) (home : Track) (r : Result) => s.numberLaw →
      ∀ p k o, (s.port p).slots.get k = some o → o.kind = .reassignTrack → o.drive = some d → o.start.cyl = home.cyl →
        o.start.head = home.head → o.live = true → Ended t p k o.oid r
    let mapIs := fun (t : State) (y : Drive) => (t.drive d).spare = y.spare ∧ (t.drive d).pool = y.pool
    let failed := fun (t : State) (y : Drive) => ∀ i e, eng.slot = some i → eng.held = some e →
      mapIs t (y.sparingUndone e.home) ∧ (t.drive d).mapState = .dirty ∧
        t.watch = s.watch.set i (.entry { e with state := .stuck }) ∧ t.reassign = ReassignEngine.initial ∧
        (t.drive d).cur = none ∧ (t.drive d).tally.reassignFailures = bump x.tally.reassignFailures ∧
        waiting t e.home .reassignFailed
    (∀ i e, eng.state = .taken → eng.slot = some i → watchEntry s.watch i = some e →
      let t := s.startReassign d
      (lowestFree x.pool = none → mapIs t x ∧ (t.drive d).cur = x.cur ∧
        t.watch = s.watch.set i (.entry { e with state := .stuck }) ∧ t.reassign = ReassignEngine.initial ∧
        (t.drive d).tally.reassignFailures = bump x.tally.reassignFailures ∧ waiting t e.home .noAlternate) ∧
      ∀ pos, lowestFree x.pool = some pos → mapIs t (x.beginSparing e.home pos) ∧ (t.drive d).mapState = .dirty ∧
        (x.state = .ready → (t.drive d).pendWrite = true) ∧ t.watch = s.watch.set i .reserved ∧
        t.reassign = { ReassignEngine.initial with state := .copying, slot := some i, held := some e, tried := 1 } ∧
        ∃ op, (t.drive d).cur = some op ∧ op.kind = .reassign ∧ op.home = e.home ∧ op.sector = 0 ∧ op.pass = .read ∧
          (op.phys, op.header) = lookupTrack (x.beginSparing e.home pos).spare e.home) ∧
    ∀ op : Op, op.kind = .reassign →
      let again := fun (n : Nat) (p : Pass) =>
        ({ op with sector := n, pass := p, stage := .transfer, ladder := none, checked := false } : Op)
      let writes := fun (t : State) (track : Track) => ∃ op', (t.drive d).cur = some op' ∧ op'.kind = .reassign ∧
        op'.home = op.home ∧ op'.phys = track ∧ op'.header = .alternate op.home.cyl op.home.head ∧ op'.sector = 0 ∧
        op'.pass = .write
      let marked := fun (t : State) (place : BufPlace) => t.reassign = { eng with buffer := eng.buffer.set op.sector place } ∧
        t.watch = s.watch ∧ (t.drive d).tally.recoveredReads = x.tally.recoveredReads ∧
        (t.drive d).tally.unrecoveredReads = x.tally.unrecoveredReads ∧
        (op.sector + 1 < g.s → (t.drive d).cur = some (again (op.sector + 1) .read)) ∧
        (g.s ≤ op.sector + 1 → ∀ track, x.underTrial op.home = some track → writes t track)
      (op.pass = .read →
        (∀ p, op.ladder = none → marked (s.readOutcome d op (.good p)) (.good p)) ∧
        ∀ out, x.chan.pos = centre op.phys.cyl →
          out = .incomplete ∨ out = .lost ∨
            ((out = .dataCheck ∨ out = .mismatch false) ∧ ∃ l, op.ladder = some l ∧ 2 * l.k < l.step) →
          marked (s.readOutcome d op out) .lost) ∧
      (op.pass = .write →
        (∀ p, eng.buffer[op.sector]? = some (.good p) →
          s.frameFor d op = some (.framed true (op.expected d false) (.good p))) ∧
        ((∀ p, eng.buffer[op.sector]? ≠ some (.good p)) → s.frameFor d op =
          some (.framed true (op.expected d true) (.good (.bytes (List.replicate 512 0))))) ∧
        (op.ended = false →
          (op.sector + 1 < g.s → ((s.writeOutcome d op).drive d).cur = some (again (op.sector + 1) .write)) ∧
          (g.s ≤ op.sector + 1 → ((s.writeOutcome d op).drive d).cur = some (again 0 .readBack)))) ∧
      (op.pass = .readBack → ∀ out, out ≠ .mismatch true →
        let t := s.readOutcome d op out
        let passes := (∃ p q, eng.buffer[op.sector]? = some (.good p) ∧ out = .good q ∧ sameData p q = true) ∨
          (eng.buffer[op.sector]? = some .lost ∧ out = .lost)
        let y := x.killTrial op.home
        (passes → op.sector + 1 < g.s → (t.drive d).cur = some (again (op.sector + 1) .readBack)) ∧
        (passes → g.s ≤ op.sector + 1 → ∀ i e, eng.slot = some i → eng.held = some e →
          mapIs t (x.sparingDone e.home (if e.cause = some .ordered then .ordered else .auto)) ∧
            (t.drive d).mapState = .dirty ∧ t.watch = s.watch.set i .empty ∧ t.reassign = ReassignEngine.initial ∧
            (t.drive d).cur = none ∧ (t.drive d).tally.reassignments = bump x.tally.reassignments ∧
            waiting t e.home .complete) ∧
        (¬passes → eng.tried < 3 → ∀ pos, lowestFree y.pool = some pos →
          mapIs t (y.nextTrial op.home pos) ∧ (t.drive d).mapState = .dirty ∧ t.reassign = { eng with tried := eng.tried + 1 } ∧
            ((y.entryFor op.home).isSome = true → writes t (g.posTrack pos))) ∧
        (¬passes → 3 ≤ eng.tried ∨ lowestFree y.pool = none → failed t y)) ∧
      (op.pass ≠ .write →
        let t := s.readOutcome d op (.mismatch true)
        (t.drive d).tally.seekChecks = bump x.tally.seekChecks ∧
          (eng.seekChecks = 0 → t.reassign = { eng with seekChecks := 1 } ∧
            (x.chan.phase = .idle → (t.drive d).chan.phase = .recal ∧ (t.drive d).cur = some
              { (if op.pass = .read then again op.sector .read else again 0 .write) with
                stage := .moving (.recal (some (centre op.phys.cyl))) })) ∧
          (1 ≤ eng.seekChecks → failed t x))

/-! ## The data path -/

/-- R72: a sector reads GOOD when its header check matches, its fields are those looked up, the LOST flag is clear and its data check
matches; a matching check over another cylinder is the mismatch that seek checks are counted for. The frame's form is the model's
(logs 6 and 27). A write torn in its header or its data reads INCOMPLETE (R71) where its header is the one expected and the LOST flag
clear; where in the frame it was cut is left open (log 6). That one torn in its data under another header, or under the LOST flag,
reads by that header is the model's choice (log 48). -/
def Obligations.SectorReadOutcome : Prop :=
  ∀ (want : Header) (fr : Frame) (p : Payload),
    (judgeFrame want fr = .good p ↔ ∃ h, fr = .framed true h (.good p) ∧ h.drive = want.drive ∧ h.cyl = want.cyl ∧
      h.head = want.head ∧ h.sector = want.sector ∧ h.kind = want.kind ∧ h.lost = false) ∧
    (judgeFrame want fr = .mismatch true ↔ ∃ h dt, fr = .framed true h dt ∧ h.cyl ≠ want.cyl) ∧
    (judgeFrame want fr = .lost ↔ ∃ h dt, fr = .framed true h dt ∧ h.drive = want.drive ∧ h.cyl = want.cyl ∧
      h.head = want.head ∧ h.sector = want.sector ∧ h.kind = want.kind ∧ h.lost = true) ∧
    (∀ h dt laid, h.drive = want.drive → h.cyl = want.cyl → h.head = want.head → h.sector = want.sector →
      h.kind = want.kind → h.lost = false → judgeFrame want (tornFrame laid (.framed true h dt)) = .incomplete) ∧
    judgeFrame want .noSync = .mismatch false

/-- R71, R108: SECTOR_WRITE_END leaves the frame of the transfer on its sector (in the media of log 6) and every
other sector as it was, and a host WRITE's
sectors done rise by one. -/
def Obligations.SectorWriteLaysDown : Prop :=
  ∀ (d : DriveId) (op : Op) (x : Xfer) (fr : Frame) (s : State), s.powered = true →
    s.transferOf d = some (op, x) → x.frame = some fr →
    ∃ t, exec (.sectorWriteEnd d) s = .next t ∧ mediaGet t.media (mediaKey d op.phys x.sector) = fr ∧
      (∀ k, k ≠ mediaKey d op.phys x.sector → mediaGet t.media k = mediaGet s.media k) ∧ Untouched s t [] [] ∧
      (op.kind = .write → op.ended = false → ∀ p g o, (s.port p).slots.get g = some o → o.oid = op.oid →
        ∃ r, (t.port p).slots.get g = some r ∧ r.oid = o.oid ∧ r.done = o.done + 1)

/-- R72, R85, R106: SECTOR_READ_END of a host READ with the outcome GOOD makes the FILLING slot HELD with the data read, and the
sectors done rise by one; the media are not changed. -/
def Obligations.SectorReadHolds : Prop :=
  ∀ (d : DriveId) (op : Op) (x : Xfer) (seen : Option Frame) (p : Payload) (front : List RingSlot) (sl : RingSlot) (s : State),
    s.powered = true → s.transferOf d = some (op, x) → x.frame = none → op.kind = .read → op.pass = .read → op.ended = false →
    judgeFrame (op.expected d false) (s.metFrame d op x seen) = .good p →
    s.ring.run = front ++ [sl] → sl.state = .filling → s.orderLive sl.oid = true →
    ∃ t, exec (.sectorReadEnd d seen) s = .next t ∧ { sl with state := .held, data := some p } ∈ t.ring.run ∧
      t.media = s.media ∧ Untouched s t [] [] ∧
      ∀ q g o, (s.port q).slots.get g = some o → o.oid = op.oid →
        ∃ r, (t.port q).slots.get g = some r ∧ r.oid = o.oid ∧ r.done = o.done + 1

/-- R36, R72, R85, R99, R110 to R114: SECTOR_READ_END of a READ or VERIFY that does not end GOOD. The FILLING slot of the ring is given
back and the path released. A DATA CHECK, or a header of another head or sector, leads to the next step of the retry ladder and
past its last step to DATA CHECK; INCOMPLETE and LOST end the order without the ladder; another cylinder is a seek check, the
first answered by a recalibration, the second the end. An operation that a sector ends takes the arm back to the centre
first. Past a sector recovered by the ladder the arm goes back too, the last sector of the order among them, which ends at that report
(the model's choice, log 47). -/
def Obligations.SectorReadFails : Prop :=
  (∀ (s : State) (d : DriveId) (op : Op) (x : Xfer) (out : ReadOutcome) (front : List RingSlot) (sl : RingSlot), op.kind = .read →
    (∀ p, out ≠ .good p) → s.ring.run = front ++ [sl] → sl.state = .filling →
    (s.endRead d op x out).ring.run = front ∧ (s.endRead d op x out).path.holder = none) ∧
  ∀ (d : DriveId) (op : Op) (x : Xfer) (seen : Option Frame) (g : Geometry) (s : State), s.powered = true →
    s.transferOf d = some (op, x) → x.frame = none → op.kind = .read ∨ op.kind = .verify → op.pass = .read → op.ended = false →
    (s.drive d).geom = some g → (s.drive d).chan.onCylinder = true → s.numberLaw → (∀ l, op.ladder = some l → 1 ≤ l.step) →
    let out := judgeFrame (op.expected d false) (s.metFrame d op x seen)
    let mid := centre op.phys.cyl
    let ladderTo := fun (l : Ladder) => ladderTarget g (s.drive d).chan.profile.offsetUnit op.phys.cyl (l.step + 1)
    let orderEnds := fun (t : State) (r : Result) => ∀ p k o, (s.port p).slots.get k = some o → o.oid = op.oid → o.live = true →
      o.kind.driveQueued = true → ∃ o', (t.port p).slots.get k = some o' ∧ o'.oid = o.oid ∧ o'.failing = some op.homeAddr ∧
        (if op.kind = .read then o'.held = some r else o'.result = some r)
    let backThen := fun (t : State) (op' : Op) (goal : Goal) => (t.drive d).cur = some { op' with stage := .moving (.seek mid goal) }
    ∃ t, exec (.sectorReadEnd d seen) s = .next t ∧ t.media = s.media ∧ Untouched s t [] [] ∧
      (∀ l, op.ladder = some l → ∀ p k o, (s.port p).slots.get k = some o → o.oid = op.oid →
        ∃ o', (t.port p).slots.get k = some o' ∧ o'.oid = o.oid ∧ o'.retry = max o.retry l.step) ∧
      (out = .dataCheck ∨ out = .mismatch false →
        (op.ladder = none → (t.drive d).cur =
          some { op with ladder := some { k := (s.drive d).chan.profile.maxOffset, step := 1 }, laddered := true }) ∧
        ∀ l, op.ladder = some l →
          (l.step ≤ 2 * l.k →
            ((s.drive d).chan.pos = ladderTo l →
              (t.drive d).cur = some { op with ladder := some { l with step := l.step + 1 }, stage := .transfer }) ∧
            ((s.drive d).chan.pos ≠ ladderTo l → (t.drive d).chan.phase = .accel ∧ (t.drive d).chan.target = ladderTo l ∧
              (t.drive d).cur = some { op with
                ladder := some { l with step := l.step + 1 }, stage := .moving (.seek (ladderTo l) .transfer) })) ∧
          (2 * l.k < l.step → (t.drive d).tally.unrecoveredReads = bump (s.drive d).tally.unrecoveredReads ∧
            ((s.drive d).chan.pos = mid → orderEnds t .dataCheck) ∧
            ((s.drive d).chan.pos ≠ mid → backThen t op (.finish .dataCheck)))) ∧
      (out = .incomplete → (t.drive d).tally.unrecoveredReads = (s.drive d).tally.unrecoveredReads ∧
        ((s.drive d).chan.pos = mid → orderEnds t .incompleteSector ∧
          (t.drive d).tally.incompleteSectors = bump (s.drive d).tally.incompleteSectors) ∧
        ((s.drive d).chan.pos ≠ mid → backThen t op (.finish .incompleteSector))) ∧
      (out = .lost → (t.drive d).tally.unrecoveredReads = (s.drive d).tally.unrecoveredReads ∧
        ((s.drive d).chan.pos = mid → orderEnds t .dataLost) ∧
        ((s.drive d).chan.pos ≠ mid → backThen t op (.finish .dataLost))) ∧
      (out = .mismatch true → (t.drive d).tally.seekChecks = bump (s.drive d).tally.seekChecks ∧
        (op.checked = false → (t.drive d).chan.phase = .recal ∧
          (t.drive d).cur = some { op with checked := true, ladder := none, stage := .moving (.recal (some mid)) }) ∧
        (op.checked = true → orderEnds t .seekCheck)) ∧
      (∀ pl l, out = .good pl → op.ladder = some l → (t.drive d).tally.recoveredReads = bump (s.drive d).tally.recoveredReads ∧
        ((s.drive d).chan.pos ≠ mid → backThen t { op with recovered := true } .advance))

/-- R93, R95: a freed write slot goes to the first order on the wait list, REQUESTED for its next sector index with a DATA REQUEST
queued at its port, and the order joins again at the end if it still wants one; with the list empty the slot goes FREE. An
order that begins to want a slot takes the lowest-numbered FREE one, or joins the list at its end. -/
def Obligations.SlotWaitList : Prop :=
  (∀ (s : State) (i : Fin 8),
    let freed := s.setWslot i WriteSlot.free
    (s.waitList = [] → s.freeSlot i = freed) ∧
    ∀ oid rest p o, s.waitList = oid :: rest → s.findOrder oid = some (p, o) →
      let held := freed.slotsHeld oid
      let next := o.done + held
      (s.freeSlot i).wslots = s.wslots.set i { state := .requested, port := p, tag := o.tag, oid := oid, index := next,
                                               since := s.clock, data := [] } ∧
        ((s.freeSlot i).port p).dataReqs = (s.port p).dataReqs ++ [.dataRequest oid o.tag next] ∧
        (s.freeSlot i).waitList =
          rest ++ (if o.live = true ∧ held + 1 < 4 ∧ next + 1 < o.count then [oid] else [])) ∧
  ∀ (s : State) (d : DriveId) (op : Op) (p : Port) (o : Order), (s.drive d).cur = some op → op.kind = .write → op.ended = false →
    op.oid ∉ s.waitList → s.findOrder op.oid = some (p, o) → o.live = true → s.slotsHeld o.oid < 4 →
    o.done + s.slotsHeld o.oid < o.count → (∀ e, e < d → s.newlyWanting e = none) →
    ∃ t, s.actSlots = some t ∧
      (∀ i, (s.wslots.get i).state = .free → (∀ j, j < i → (s.wslots.get j).state ≠ .free) →
        t.waitList = s.waitList ∧
        t.wslots = s.wslots.set i { state := .requested, port := p, tag := o.tag, oid := o.oid,
                                    index := o.done + s.slotsHeld o.oid, since := s.clock, data := [] } ∧
        (t.port p).dataReqs = (s.port p).dataReqs ++ [.dataRequest o.oid o.tag (o.done + s.slotsHeld o.oid)]) ∧
      ((∀ i, (s.wslots.get i).state ≠ .free) → t.waitList = s.waitList ++ [o.oid] ∧ t.wslots = s.wslots)

/-- R74 to R79, R81, R83: the data path. At the start of the sector before its wanted sector a drive on cylinder asks for the path when
its place is ready, and counts a miss otherwise; a request that the wanted sector finds standing is withdrawn and counted. The free
path goes to the first requesting drive after the last grantee in address order, round from 7 to 0, with a burst count of 1 and
its place taken; a request whose place is no longer ready is withdrawn there (log 13). A granted transfer begins with its sector
and the path is given up when another sector starts (log 11); a continuation takes its place and raises the burst count there. It
is planned below the burst limit when the next sector follows (log 39) and its place is ready; a place not ready is a miss, and at
the limit nothing is counted (log 12). After an outcome that is not GOOD, or with no continuation planned, the path is free with a
burst count of 0 and the last grantee kept. -/
def Obligations.DataPathRuns : Prop :=
  (∀ s : State,
    (∀ d, s.nextGrantee = some d → (s.drive d).request = true ∧
      ∀ e, (s.drive e).request = true → (d - (s.path.last + 1)).val ≤ (e - (s.path.last + 1)).val) ∧
    (s.nextGrantee = none ↔ ∀ d, (s.drive d).request = false)) ∧
  (∀ (s : State) (d : DriveId) (op : Op), s.nextGrantee = some d → (s.drive d).cur = some op →
    (s.path.holder.isSome = true → s.actGrant = none) ∧
    (s.path.holder = none → ∃ t, s.actGrant = some t ∧ (t.drive d).request = false ∧
      (PlaceReady s op op.index → PlaceTaken s t op ∧ (t.drive d).tally = (s.drive d).tally ∧
        ∃ x, t.path = { holder := some d, last := d, burst := 1, xfer := some x } ∧ x.sector = op.sector ∧ x.begun = false ∧
          x.chained = false) ∧
      (¬PlaceReady s op op.index → PlacesWhole s t ∧ t.path = s.path ∧ MissCounted s t d op))) ∧
  (∀ (s : State) (d : DriveId) (op : Op) (n : Nat), (s.drive d).cur = some op → s.path.holder ≠ some d →
    let t := s.sectorStart d n
    let before := (op.sector ≠ 0 ∧ n + 1 = op.sector) ∨ (op.sector = 0 ∧ n = (s.drive d).sectors - 1)
    PlacesWhole s t ∧ t.path = s.path ∧
    ((s.drive d).request = false →
      (op.stage = .transfer → before → (s.drive d).chan.onCylinder = true →
        (PlaceReady s op op.index → (t.drive d).request = true ∧ (t.drive d).tally = (s.drive d).tally) ∧
        (¬PlaceReady s op op.index → (t.drive d).request = false ∧ MissCounted s t d op)) ∧
      (op.stage ≠ .transfer ∨ ¬before ∨ (s.drive d).chan.onCylinder = false → t = s)) ∧
    ((s.drive d).request = true →
      (n = op.sector → (t.drive d).request = false ∧
        (t.drive d).tally = { (s.drive d).tally with arbiterMisses := bump (s.drive d).tally.arbiterMisses }) ∧
      (n ≠ op.sector → t = s))) ∧
  (∀ (s : State) (d : DriveId) (op : Op) (x : Xfer) (n : Nat), (s.drive d).cur = some op → s.path.holder = some d →
    s.path.xfer = some x →
    let t := s.sectorStart d n
    let burst := if x.chained = true then s.path.burst + 1 else s.path.burst
    let follows := op.nextFollows (s.drive d).sectors (s.drive d).chan.pos = true ∧ (s.drive d).chan.onCylinder = true ∧
      burst < (s.drive d).profile.burst
    (x.begun = true → t = { s with path := { s.path with xfer := some { x with early := some (x.early.getD n) } } }) ∧
    (x.begun = false → n = x.sector →
      (∃ x', t.path = { s.path with burst := burst, xfer := some x' } ∧ x'.sector = x.sector ∧ x'.begun = true ∧
        x'.chained = false ∧ (x'.cont = true ↔ follows ∧ PlaceReady t op (op.index + 1))) ∧
      (x.chained = false → PlacesWhole s t) ∧
      (x.chained = true → op.kind ≠ .read ∨ s.ring.run.length < 24 → PlaceTaken s t op) ∧
      (follows → ¬PlaceReady t op (op.index + 1) → MissCounted s t d op) ∧
      (¬follows ∨ PlaceReady t op (op.index + 1) → (t.drive d).tally = (s.drive d).tally)) ∧
    (x.begun = false → n ≠ x.sector → op.ended = false →
      t.path = { s.path with holder := none, burst := 0, xfer := none } ∧ (t.drive d).cur = some op ∧
        (x.chained = true → PlacesWhole s t) ∧
        (x.chained = false →
          (∀ front sl, op.kind = .read → s.ring.run = front ++ [sl] → sl.state = .filling → t.ring.run = front) ∧
          ∀ i, op.kind = .write → s.slotOf op.oid op.index = some i →
            t.wslots = s.wslots.set i { s.wslots.get i with state := .full }))) ∧
  ∀ (s : State) (d : DriveId) (op : Op) (x : Xfer) (good : Bool), (s.drive d).cur = some op → s.path.holder = some d →
    let t := s.afterTransfer d x good
    let next : Xfer := { sector := op.sector, begun := false, chained := true, cont := false, early := none, frame := none }
    let goesOn := x.cont = true ∧ good = true ∧ op.ended = false ∧ op.stage = .transfer ∧ op.sector = x.sector + 1 ∧
      op.ladder = none
    (¬goesOn ∨ (∃ n, x.early = some n ∧ n ≠ op.sector) →
      t = { s with path := { s.path with holder := none, burst := 0, xfer := none } }) ∧
    (goesOn → x.early = none → t = { s with path := { s.path with xfer := some next } }) ∧
    (goesOn → x.early = some op.sector →
      t = ({ s with path := { s.path with xfer := some next } } : State).sectorStart d op.sector)

/-! ## Selection -/

/-- R24, R53, R100, R102 to R104: the choice among the eligible entries, given oldest first. ARRIVAL takes the oldest. SWEEP takes the oldest
of those passed over 8 times, and otherwise the one nearest the arm in the sweep direction, reversed when none lies that way;
the older entries it leaves are passed over, at a selection in that way and at no other. -/
def Obligations.QueueDisciplines : Prop :=
  (∀ (s : State) (d : DriveId) (es : List (Port × Order)),
    let x := s.drive d
    let arm := if x.chan.known = true then (x.chan.pos + 32) / 64 else 0
    let cyl := fun (e : Port × Order) => (lookupTrack x.spare e.2.firstTrack).1.cyl
    let ahead := fun (inward : Bool) (e : Port × Order) => if inward = true then arm ≤ cyl e else cyl e ≤ arm
    let dist := fun (inward : Bool) (e : Port × Order) => if inward = true then cyl e - arm else arm - cyl e
    (es = [] → s.chooseEntry d es = none) ∧
    (x.profile.sweep = false → ∀ e rest, es = e :: rest →
      s.chooseEntry d es = some { entry := e, sweepIn := x.sweepIn, passes := false }) ∧
    (x.profile.sweep = true →
      (∀ front e back, es = front ++ e :: back → (∀ f ∈ front, f.2.passOver < 8) → 8 ≤ e.2.passOver →
        s.chooseEntry d es = some { entry := e, passes := false,
                                    sweepIn := if arm < cyl e then true else if cyl e < arm then false else x.sweepIn }) ∧
      (es ≠ [] → (∀ e ∈ es, e.2.passOver < 8) →
        ∃ c front back, s.chooseEntry d es = some c ∧ es = front ++ c.entry :: back ∧ c.passes = true ∧
          (c.sweepIn = x.sweepIn ↔ ∃ e ∈ es, ahead x.sweepIn e) ∧ ahead c.sweepIn c.entry ∧
          (∀ e ∈ front, ahead c.sweepIn e → dist c.sweepIn c.entry < dist c.sweepIn e) ∧
          ∀ e ∈ back, ahead c.sweepIn e → dist c.sweepIn c.entry ≤ dist c.sweepIn e))) ∧
  (∀ (s : State) (front back : List (Port × Order)) (e : Port × Order), (∀ f ∈ front, f.2.oid ≠ e.2.oid) →
    (front.map fun f => f.2.oid).Nodup → ∀ p k o, (s.port p).slots.get k = some o →
    ((s.passOver (front ++ e :: back) e.2.oid).port p).slots.get k =
      some { o with passOver := o.passOver + (if o.oid ∈ front.map fun f => f.2.oid then 1 else 0) }) ∧
  ∀ (s t : State) (d : DriveId), s.select d = some t → (s.drive d).cur = none ∧
    ((s.drive d).nextInternal = none →
      let es := s.eligibleEntries d
      ∃ c, s.chooseEntry d es = some c ∧ (t.drive d).sweepIn = c.sweepIn ∧
        (t.drive d).queue = (s.drive d).queue.filter (fun n => n ≠ c.entry.2.oid) ∧
        ((s.drive d).queue.Nodup → ∀ front back, es = front ++ c.entry :: back →
          ∀ p k o, (s.port p).slots.get k = some o → ∃ o', (t.port p).slots.get k = some o' ∧ o'.oid = o.oid ∧
            (o.oid = c.entry.2.oid → o'.state = .active) ∧
            o'.passOver = o.passOver +
              (if c.passes = true ∧ o.oid ∈ front.map (fun f => f.2.oid) then 1 else 0)))

/-! ## Surface verification -/

/-- R139, R142 to R146: while the verify engine is BUSY no SURFACE VERIFY is eligible; a selected one takes the engine with its counts at
0, at its first track. In destructive mode a read-back sector that is not GOOD with the pattern is counted, and every sector is
read. A track judged below the verify threshold is left as it is and counted; at the threshold a trial of the lowest FREE position
begins, and with none FREE it is a shortfall. A trial that passes spares the track, one that fails makes its position DEAD. A seek
check begins the pass again at its write, and the second ends the operation. In read-only mode a failing sector is counted and the
verification goes on past it. After the last sector of a track the next one starts, and past the last the order ends with the four
counts; that the engine's items stand at their initial values after the end is the model's choice (log 41), and so is that an order
ended by a second seek check leaves the failures of its unfinished track out of its counts (log 25). -/
def Obligations.SurfaceVerifyRuns : Prop :=
  (∀ (s : State) (d : DriveId) (o : Order), o.kind = .surfaceVerify → s.verify.job.isSome = true → s.hostEligible d o = false) ∧
  (∀ (s : State) (d : DriveId) (p : Port) (o : Order) (g : Geometry), (s.drive d).geom = some g →
    let home : Track := { cyl := o.start.cyl, head := o.start.head }
    let destr : Bool := o.flags &&& 1#8 = 1#8
    let t := s.startSurface d p o
    t.verify = { VerifyEngine.initial with
      job := some { drive := d, port := p, tag := o.tag, oid := o.oid, destructive := destr, first := g.trackNumber home,
                    count := o.parameter },
      track := g.trackNumber home, phase := some (if destr = true then .trackWrite else .trackRead) } ∧
    ∃ op, (t.drive d).cur = some op ∧ op.kind = .surface ∧ op.oid = o.oid ∧ op.home = home ∧
      (op.phys, op.header) = lookupTrack (s.drive d).spare home ∧ op.sector = 0 ∧
      op.pass = if destr = true then .write else .read) ∧
  (∀ (s : State) (d : DriveId) (op : Op) (g : Geometry) (j : VerifyJob), (s.drive d).geom = some g → s.verify.job = some j →
    j.destructive = false → op.kind = .surface → op.pass = .read → (s.drive d).cur = some op →
    let v := s.verify
    let counted : VerifyEngine :=
      { v with failed := min (v.failed + 1) 65535, firstFail := some (v.firstFail.getD op.homeAddr) }
    let endsWith := fun (t : State) (r : Result) (failing : Option SectorAddr) (verified failed : Nat) => s.numberLaw →
      t.verify = VerifyEngine.initial ∧ (t.drive d).cur = none ∧
      ∀ p k o, (s.port p).slots.get k = some o → o.oid = op.oid → o.live = true →
        ∃ o', (t.port p).slots.get k = some o' ∧ o'.oid = o.oid ∧ o'.result = some r ∧ o'.failing = failing ∧
          o'.done = verified ∧ o'.body = half verified ++ half v.spared ++ half failed ++ half v.dead
    ((s.drive d).chan.pos = centre op.phys.cyl →
      (∀ l, op.ladder = some l → 2 * l.k < l.step → ∀ out, out = .dataCheck ∨ out = .mismatch false → s.readOutcome d op out =
        ({ (s.tallyDrive d DriveTallies.raiseUnrecovered).unrecoveredReport d op.home with verify := counted } : State).surfaceAdvance
          d op) ∧
      s.readOutcome d op .incomplete =
        ({ s.tallyDrive d DriveTallies.raiseIncomplete with verify := counted } : State).surfaceAdvance d op ∧
      s.readOutcome d op .lost = ({ s with verify := counted } : State).surfaceAdvance d op) ∧
    (op.ladder = none → ∀ p, s.readOutcome d op (.good p) = s.surfaceAdvance d op) ∧
    (op.checked = true → endsWith (s.readOutcome d op (.mismatch true)) .seekCheck (some op.homeAddr) v.verified v.failedBefore) ∧
    let t := s.surfaceAdvance d op
    let verified := min (v.verified + 1) 65535
    (op.sector + 1 < g.s → t.verify = v ∧ (t.drive d).cur =
      some { op with sector := op.sector + 1, pass := .read, stage := .transfer, ladder := none, checked := false }) ∧
    (g.s ≤ op.sector + 1 → op.lastTrack = false → v.track + 1 < j.first + j.count →
      t.verify.job = some j ∧ t.verify.track = v.track + 1 ∧ t.verify.phase = some .trackRead ∧ t.verify.verified = verified ∧
        t.verify.failed = v.failed ∧ t.verify.firstFail = v.firstFail ∧
        ∃ op', (t.drive d).cur = some op' ∧ op'.home = g.userTrack (v.track + 1) ∧
          (op'.phys, op'.header) = lookupTrack (s.drive d).spare op'.home ∧ op'.sector = 0 ∧ op'.pass = .read) ∧
    (g.s ≤ op.sector + 1 → op.lastTrack = true ∨ j.first + j.count ≤ v.track + 1 →
      (v.failed = 0 → endsWith t (if op.laddered = true then .recovered else .complete) none verified v.failed) ∧
      (v.failed ≠ 0 → endsWith t .dataCheck v.firstFail verified v.failed))) ∧
  ∀ (s : State) (d : DriveId) (op : Op) (g : Geometry) (j : VerifyJob), (s.drive d).geom = some g → s.verify.job = some j →
    j.destructive = true → op.kind = .surface →
    let v := s.verify
    let failed := min (v.failed + v.trackFails) 65535
    let verified := min (v.verified + 1) 65535
    let short := fun (r : Result) =>
      v.shortfall.getD (r, { cyl := op.home.cyl, head := op.home.head, sector := v.trackFirst.getD 0 })
    let goesOn := fun (u t : State) => (t.drive d).spare = (u.drive d).spare ∧ (t.drive d).pool = (u.drive d).pool ∧
      t.verify.job = some j ∧ t.verify.track = v.track + 1 ∧ t.verify.phase = some .trackWrite ∧ t.verify.verified = verified ∧
      t.verify.trial = none ∧ t.verify.tried = 0 ∧ t.verify.trackFails = 0 ∧
      ∃ op', (t.drive d).cur = some op' ∧ op'.home = g.userTrack (v.track + 1) ∧
        (op'.phys, op'.header) = lookupTrack (u.drive d).spare op'.home ∧ op'.sector = 0 ∧ op'.pass = .write
    let trying := fun (t : State) (pos : Nat) => t.verify.trial = some pos ∧ t.verify.tried = v.tried + 1 ∧
      t.verify.phase = some .trialWrite ∧ t.verify.verified = v.verified ∧
      ∃ op', (t.drive d).cur = some op' ∧ op'.home = op.home ∧ op'.phys = g.posTrack pos ∧
        op'.header = .alternate op.home.cyl op.home.head ∧ op'.sector = 0 ∧ op'.pass = .write
    let more := op.lastTrack = false ∧ v.track + 1 < j.first + j.count
    let passes := fun (out : ReadOutcome) =>
      ∃ p, out = .good p ∧ sameData (.pattern d.val op.phys.cyl op.phys.head op.sector) p = true
    let first := if v.trial.isSome = true then v.trackFirst else some (v.trackFirst.getD op.sector)
    (op.pass = .readBack → ∀ out w, out ≠ .mismatch true →
      (passes out → w = v) → (¬passes out → w = { v with trackFails := v.trackFails + 1, trackFirst := first }) →
      let u : State := { s with verify := w }
      let t := s.readOutcome d op out
      (op.sector + 1 < g.s → t.verify = w ∧ (t.drive d).cur =
        some { op with sector := op.sector + 1, pass := .readBack, stage := .transfer, ladder := none, checked := false }) ∧
      (g.s ≤ op.sector + 1 → (v.trial = none → t = u.judgeTrack d op) ∧
        ∀ pos, v.trial = some pos → t = if w.trackFails = 0 then u.trialPassed d op pos else u.trialFailed d op pos)) ∧
    (op.pass = .readBack → let t := s.readOutcome d op (.mismatch true)
      (v.seekChecks = 0 → (t.drive d).tally.seekChecks = bump (s.drive d).tally.seekChecks ∧
        t.verify = { v with
          seekChecks := 1, trackFails := 0, phase := some (if v.trial.isSome = true then .trialWrite else .trackWrite),
          trackFirst := if v.trial.isSome = true then v.trackFirst else none } ∧
        ((s.drive d).chan.phase = .idle → (t.drive d).chan.phase = .recal ∧ (t.drive d).cur =
          some { op with sector := 0, pass := .write, ladder := none, checked := false,
                         stage := .moving (.recal (some (centre op.phys.cyl))) })) ∧
      (1 ≤ v.seekChecks → s.numberLaw → (t.drive d).cur = none ∧
        ∀ p k o, (s.port p).slots.get k = some o → o.oid = op.oid → o.live = true →
          ∃ o', (t.port p).slots.get k = some o' ∧ o'.oid = o.oid ∧ o'.result = some .seekCheck ∧
            o'.failing = some op.homeAddr)) ∧
    (v.trackFails < (s.drive d).policy.verifyThreshold →
      (more → goesOn s (s.judgeTrack d op) ∧ (s.judgeTrack d op).verify.failed = failed) ∧
      (¬more → s.numberLaw → (s.drive d).cur = some op →
        (s.judgeTrack d op).verify = VerifyEngine.initial ∧ ((s.judgeTrack d op).drive d).cur = none ∧
        ∀ p k o, (s.port p).slots.get k = some o → o.oid = op.oid → o.live = true →
          ∃ o', ((s.judgeTrack d op).port p).slots.get k = some o' ∧ o'.oid = o.oid ∧ o'.done = verified ∧
            o'.body = half verified ++ half v.spared ++ half failed ++ half v.dead ∧
            o'.result = some (match v.shortfall with | none => .complete | some sf => sf.1))) ∧
    ((s.drive d).policy.verifyThreshold ≤ v.trackFails →
      (∀ pos, lowestFree (s.drive d).pool = some pos → trying (s.judgeTrack d op) pos ∧
        (s.judgeTrack d op).verify.failed = failed) ∧
      (lowestFree (s.drive d).pool = none → more → goesOn s (s.judgeTrack d op) ∧
        (s.judgeTrack d op).verify.failed = failed ∧ (s.judgeTrack d op).verify.shortfall = some (short .noAlternate))) ∧
    (∀ pos, more → let t := s.trialPassed d op pos
      goesOn (s.modDrive d fun x => x.spareByVerify op.home pos) t ∧ t.verify.spared = min (v.spared + 1) 65535 ∧
        (t.drive d).mapState = .dirty ∧
        ((s.drive d).mapLaw g → g.consistent = true → (lowestSlot (s.drive d).spare).isSome = true →
          lookupTrack (t.drive d).spare op.home = (g.posTrack pos, .alternate op.home.cyl op.home.head))) ∧
    ∀ pos, let t := s.trialFailed d op pos
      (t.drive d).pool = (s.drive d).pool.set pos .dead ∧
        (v.tried < 3 → ∀ q, lowestFree ((s.drive d).pool.set pos .dead) = some q →
          trying t q ∧ t.verify.dead = min (v.dead + 1) 65535) ∧
        (3 ≤ v.tried ∨ lowestFree ((s.drive d).pool.set pos .dead) = none → more →
          goesOn (s.modDrive d fun x => { x with pool := x.pool.set pos .dead }) t ∧
            t.verify.dead = min (v.dead + 1) 65535 ∧
            t.verify.shortfall = some (short (if v.tried < 3 then .noAlternate else .reassignFailed)))

/-! ## The link -/

/-- R94: HOST_DATA_FRAME fills the REQUESTED slot it matches. The slot goes FULL; it is WRITING after the command only where the path is
free and a request for that sector stood before the frame, so that the path is granted at once. -/
def Obligations.HostDataFillsSlot : Prop :=
  ∀ (f : DataFrame) (tag : Tag) (i : Fin 8) (s : State), s.powered = true → f.checkOk = true → tagOf f.tag = some tag →
    s.requestedSlot f.port tag f.index.toNat = some i →
    ∃ t, exec (.hostDataFrame f) s = .next t ∧ (t.wslots.get i).data = f.data ∧
      ((t.wslots.get i).state = .full ∨ ((t.wslots.get i).state = .writing ∧ s.path.holder = none ∧
        ∃ d, (s.drive d).request = true ∧ ∀ op, (s.drive d).cur = some op →
          op.kind = .write ∧ op.oid = (s.wslots.get i).oid ∧ op.index = f.index.toNat)) ∧
      (t.wslots.get i).oid = (s.wslots.get i).oid ∧ (t.wslots.get i).index = f.index.toNat ∧
      t.media = s.media ∧ Untouched s t [] [] ∧ BusyWhole s t []

/-- R88, R149: FRAME_TAKEN of an ENDING frees its tag's slot, and of a DATA frame leaves no slot HELD for its sector; the other tags
and all that the port counts stay. -/
def Obligations.FrameTakenFrees : Prop :=
  ∀ (p : Port) (s : State), s.powered = true →
    (∀ oid tag r n y c fa b o, (s.port p).sending = some (.ending oid tag r n y c fa b) →
      (s.port p).slots.get tag = some o → o.oid = oid →
      ∃ t, exec (.frameTaken p) s = .next t ∧ (t.port p).slots.get tag = none ∧
        (∀ g, g ≠ tag → ((t.port p).slots.get g).map Order.oid = ((s.port p).slots.get g).map Order.oid) ∧
        PortKept s t p ∧ t.media = s.media ∧ Untouched s t [] [p] ∧ BusyWhole s t []) ∧
    (∀ oid tag index pl, (s.port p).sending = some (.data oid tag index pl) →
      ∃ t, exec (.frameTaken p) s = .next t ∧
        (∀ x ∈ t.ring.run, x.state = .held → ¬(x.oid = oid ∧ x.index = index)) ∧
        (∀ x ∈ s.ring.run, x.state = .held → ¬(x.oid = oid ∧ x.index = index) → x ∈ t.ring.run) ∧
        t.media = s.media ∧ Untouched s t [] [] ∧ BusyWhole s t [])

/-- R90, R96: a delivery timeout and a data-request timeout end their order PORT TIMEOUT and raise the port's TIMEOUTS,
when due on the clock (the model's choice, log 29). -/
def Obligations.TimeoutsEndOrders : Prop :=
  ∀ s : State, s.powered = true → s.numberLaw →
    (∀ p w, (s.port p).offered = some w → s.deliveryDue p = true →
      ∃ t, exec (.deliveryTimeout p) s = .next t ∧ (t.port p).timeouts = bump (s.port p).timeouts ∧
        (t.port p).refusals = (s.port p).refusals ∧ (t.port p).protocolErrors = (s.port p).protocolErrors ∧
        SlotsKept s t p ∧ t.media = s.media ∧ Untouched s t [] [p] ∧
        ∀ q g o, (s.port q).slots.get g = some o → o.oid = w.oid → o.live = true → Ended t q g o.oid .portTimeout) ∧
    ∀ i, s.requestDue i = true →
      ∃ t, exec (.dataRequestTimeout i) s = .next t ∧
        (t.port (s.wslots.get i).port).timeouts = bump (s.port (s.wslots.get i).port).timeouts ∧
        SlotsKept s t (s.wslots.get i).port ∧ t.media = s.media ∧ Untouched s t [] [(s.wslots.get i).port] ∧
        ∀ q g o, (s.port q).slots.get g = some o → o.oid = (s.wslots.get i).oid → o.live = true →
          Ended t q g o.oid .portTimeout

/-- R94, R148, R150, R151, R156: a frame with a bad check, a tag outside 0 to 3 or nothing to act on is discarded and counted in
PROTOCOL ERRORS, and has no other effect. An order that fails a check is refused with the first check's outcome: REFUSALS is
raised, the REPLY is to be sent, and nothing else is done. An order kind that is not known fails check 2. -/
def Obligations.UnfitFramesCounted : Prop :=
  (∀ (c : Instr) (s : State), s.powered = true → Discarded s c →
    ∃ t, exec c s = .next t ∧ (t.port c.port).protocolErrors = bump (s.port c.port).protocolErrors ∧
      (t.port c.port).refusals = (s.port c.port).refusals ∧ (t.port c.port).timeouts = (s.port c.port).timeouts ∧
      (t.port c.port).window = (s.port c.port).window ∧ SlotsKept s t c.port ∧ t.nextOid = s.nextOid ∧
      t.media = s.media ∧ Untouched s t [] [c.port] ∧ BusyWhole s t []) ∧
  ∀ (f : OrderFrame) (tag : Tag) (s : State), s.powered = true → f.checkOk = true → tagOf f.tag = some tag →
    (∀ (k : OrderKind) (poll : Poll) (v : Verdict), s.judge k f tag = some v →
      ∃ t, exec (orderCommand k f poll) s = .next t ∧ (t.port f.port).refusals = bump (s.port f.port).refusals ∧
        OutFrame.reply tag k.code v ∈ (t.port f.port).toSend ∧ (t.port f.port).window = (s.port f.port).window ∧
        SlotsKept s t f.port ∧ t.nextOid = s.nextOid ∧ t.media = s.media ∧ Untouched s t [] [f.port] ∧ BusyWhole s t []) ∧
    ∀ code : Byte, ∃ t, exec (.unknownFrameKind (.orderKind code f)) s = .next t ∧
      (t.port f.port).refusals = bump (s.port f.port).refusals ∧
      OutFrame.reply tag code (if ((s.port f.port).slots.get tag).isSome then .tagBusy else .badOrder) ∈
        (t.port f.port).toSend ∧
      SlotsKept s t f.port ∧ t.nextOid = s.nextOid ∧ t.media = s.media ∧ Untouched s t [] [f.port] ∧ BusyWhole s t []

/-- R11, R13, R14, R60, R125, R128, R133, R134, R159 to R161: an event sets its notice kind in the pending set of every port that names the
drive, whatever its mask. A free transmitter starts the frame at the head of its highest-priority source: REPLY, ENDING, DATA
REQUEST, the offered DATA, NOTICE; a NOTICE takes the unmasked kinds of the lowest logical drive that has any, and leaves
the masked ones pending. That a set bit of the mask masks its kind is read from the rules (DEDUCED, log 22). -/
def Obligations.NoticesAndTransmitter : Prop :=
  (∀ (s : State) (d : DriveId),
    Noticed s (s.enterReady d) d noticeReady ∧ Noticed s (s.enterNotReady d) d noticeNotReady ∧
    Noticed s (s.enterMapLost d) d noticeMapLost ∧
    ((s.drive d).state ≠ .writingMap → Noticed s (s.endMapWrite d false) d noticeMapLost) ∧
    (∀ i e c, Noticed s (s.candidate i e c) e.drive noticeCandidate) ∧
    (∀ i e, Noticed s (s.reassignStuck d i e) d noticeReassignFailed) ∧
    (s.reassign.slot.isSome = true → s.reassign.held.isSome = true →
      Noticed s (s.reassignDone d) d noticeReassigned ∧ Noticed s (s.reassignFail d) d noticeReassignFailed)) ∧
  ∀ (s : State) (p : Port),
    let c := s.port p
    (c.sending.isSome = true → s.startFrame p = none) ∧
    (c.sending = none →
      (∀ f rest, c.replies = f :: rest →
        s.startFrame p = some (s.modPort p fun c => { c with replies := rest, sending := some f })) ∧
      (c.replies = [] → ∀ f rest, c.endings = f :: rest →
        s.startFrame p = some (s.modPort p fun c => { c with endings := rest, sending := some f })) ∧
      (c.replies = [] → c.endings = [] → ∀ f rest, c.dataReqs = f :: rest →
        s.startFrame p = some (s.modPort p fun c => { c with dataReqs := rest, sending := some f })) ∧
      (c.replies = [] → c.endings = [] → c.dataReqs = [] →
        (∀ x, s.ring.offer p = some x → ∃ pl, s.startFrame p =
          some (s.modPort p fun c => { c with sending := some (.data x.oid x.tag x.index pl) }) ∧
            ∀ q, x.data = some q → pl = q) ∧
        (s.ring.offer p = none →
          (∀ n, (∀ m, m < n → c.notices.get m &&& ~~~c.access.mask = 0) → c.notices.get n &&& ~~~c.access.mask ≠ 0 →
            s.startFrame p = some (s.modPort p fun c =>
              { c with sending := some (.notice n (c.notices.get n &&& ~~~c.access.mask)),
                       notices := c.notices.set n (c.notices.get n &&& c.access.mask) })) ∧
          ((∀ n, c.notices.get n &&& ~~~c.access.mask = 0) → s.startFrame p = none))))

/-- R152: check 9, where the checks before it pass; a drive in ABSENT is refused at check 5. -/
def Obligations.DriveStateCheck : Prop :=
  ∀ (s : State) (d : DriveId) (k : OrderKind) (f : OrderFrame), k.namesDrive = true → (s.accessOf f).phys = some d →
    (s.accessOf f).right ≠ .none →
    ((s.drive d).state = .absent → s.judgeDrive k f = some .driveAbsent) ∧
    ((s.drive d).state ≠ .absent → (needsWrite k f = true → (s.accessOf f).right = .write) →
      s.reservedElsewhere f.port d = false → addressOk (s.drive d).geom k f = true →
      (s.judgeDrive k f = none ↔
        match k with
        | .read | .write | .verify | .seek =>
          (s.drive d).state ∈ [.waitingSpin, .spinningUp, .recalibrating, .loadingMap, .writingMap, .ready]
        | .surfaceVerify => (s.drive d).state = if destructiveFlag f then .fenced else .ready
        | .reassignTrack => (s.drive d).state = .ready
        | .fence => (s.drive d).state ∈ [.ready, .mapLost, .notReady]
        | .unfence => (s.drive d).state = .fenced ∧ (s.drive d).geom.isSome = true ∧ (s.drive d).cur = none ∧
            (s.drive d).queue = [] ∧ (s.drive d).pendRecal = false ∧ (s.drive d).pendLoad = false ∧
            (s.drive d).pendWrite = false ∧ (s.drive d).pendReassign = false ∧
            ∀ p g o, (s.port p).slots.get g = some o → o.kind = .fence → o.drive = some d → o.live = false
        | .commitMap => (s.drive d).state ∈ [.fenced, .mapLost] ∧ (s.drive d).geom.isSome = true
        | _ => True) ∧
      (s.judgeDrive k f ≠ none → s.judgeDrive k f = some .driveState))

/-- R98, R149, R150, R153: an accepted READ, WRITE, VERIFY, SEEK or SURFACE VERIFY is held in its tag's slot with its REPLY to be
sent, and joins its drive's queue at the end; a drive with work takes it in its turn. -/
def Obligations.QueuedOrderAccepted : Prop :=
  ∀ (k : OrderKind) (f : OrderFrame) (poll : Poll) (tag : Tag) (d : DriveId) (s : State), k.driveQueued = true →
    Accepted s k f tag → (s.accessOf f).phys = some d →
    ∃ t o, exec (orderCommand k f poll) s = .next t ∧ Taken s t k f tag (some d) o ∧ PortKept s t f.port ∧
      t.media = s.media ∧ Untouched s t [] [f.port] ∧ BusyWhole s t [d] ∧
      ((s.drive d).takesNoWork = true →
        (t.drive d).kept = { (s.drive d).kept with queue := (s.drive d).queue ++ [s.nextOid] })

/-- R154: RESERVE makes its port the holder of the drive and RELEASE leaves it without one; both end COMPLETE at acceptance. While a
port holds a drive, an order of another port that names the drive is not accepted and leaves the holder. -/
def Obligations.Reservations : Prop :=
  (∀ (f : OrderFrame) (tag : Tag) (d : DriveId) (s : State), (s.accessOf f).phys = some d → s.numberLaw →
    (Accepted s .reserve f tag → ∃ t o, exec (.reserve f) s = .next t ∧ Taken s t .reserve f tag (some d) o ∧
      o.result = some .complete ∧ (t.drive d).holder = some f.port ∧ (t.drive d).counter = (s.drive d).counter ∧
      PortKept s t f.port ∧ t.media = s.media ∧ Untouched s t [d] [f.port] ∧ BusyWhole s t [d]) ∧
    (Accepted s .release f tag → ∃ t o, exec (.release f) s = .next t ∧ Taken s t .release f tag (some d) o ∧
      o.result = some .complete ∧ (t.drive d).holder = none ∧ (t.drive d).counter = (s.drive d).counter ∧
      PortKept s t f.port ∧ t.media = s.media ∧ Untouched s t [d] [f.port] ∧ BusyWhole s t [d])) ∧
  ∀ (k : OrderKind) (f : OrderFrame) (poll : Poll) (d : DriveId) (q : Port) (s : State), k.namesDrive = true →
    (s.accessOf f).phys = some d → (s.drive d).holder = some q → q ≠ f.port →
    ∃ t, exec (orderCommand k f poll) s = .next t ∧ t.nextOid = s.nextOid ∧ (t.drive d).holder = some q

/-- R24, R155: SENSE takes the drive as it stands at acceptance into its ending body, field by field in the layout of 9.10, and ends
COMPLETE. -/
def Obligations.SenseTakesDrive : Prop :=
  ∀ (f : OrderFrame) (tag : Tag) (n : Fin 8) (d : DriveId) (s : State), Accepted s .sense f tag → s.numberLaw →
    logicalOf f.logical = some n → (s.accessOf f).phys = some d →
    ∃ t o, exec (.sense f) s = .next t ∧ Taken s t .sense f tag (some d) o ∧ o.result = some .complete ∧
      o.body.length = 11 ∧ o.body[0]? = some (s.drive d).state.code ∧
      ((s.drive d).chan.known = true → halfAt o.body 1 = ((s.drive d).chan.pos + 32) / 64 % 65536) ∧
      ((s.drive d).chan.known = false → halfAt o.body 1 = 0xFFFF) ∧ o.body[3]? = some (s.drive d).chan.phase.code ∧
      (∀ q, (s.drive d).holder = some q → byteAt o.body 4 = q.val) ∧ ((s.drive d).holder = none → byteAt o.body 4 = 0xFF) ∧
      o.body[5]? = some (s.drive d).mapState.code ∧
      byteAt o.body 6 = ((s.drive d).queue.length +
        [(s.drive d).pendRecal, (s.drive d).pendLoad, (s.drive d).pendWrite, (s.drive d).pendReassign].count true) % 256 ∧
      o.body[7]? = some ((s.port f.port).notices.get n) ∧
      (∀ g, (s.drive d).geom = some g → byteAt o.body 8 = g.type % 256) ∧
      ((s.drive d).geom = none → byteAt o.body 8 = (s.drive d).plugType % 256) ∧
      byteAt o.body 9 = s.plugs.identity.val ∧ o.body[10]? = some s.startCause.code ∧ PortKept s t f.port ∧ t.media = s.media ∧
      Untouched s t [] [f.port] ∧ BusyWhole s t []

/-- R156: a CANCEL of a drive-queued order with no fixed result ends it CANCELLED and takes it out of every drive queue. -/
def Obligations.CancelEndsOrder : Prop :=
  ∀ (f : CancelFrame) (tag : Tag) (o : Order) (s : State), s.powered = true → s.numberLaw → f.checkOk = true →
    tagOf f.tag = some tag → (s.port f.port).slots.get tag = some o → o.live = true → o.kind.driveQueued = true →
    ∃ t, exec (.cancel f) s = .next t ∧ Ended t f.port tag o.oid .cancelled ∧ (∀ d, o.oid ∉ (t.drive d).queue) ∧
      t.media = s.media ∧ Untouched s t [] []

/-- R80, R91, R97, R117, R147, R154, R157: PORT_RESET empties the port's slots, discards its queued REPLY, ENDING and DATA REQUEST frames
and abandons the frame in transmission, clears its window and ends its reservations; its entry, its tallies and the orders of the
other ports stay. Nothing of the ended orders is sent: a frame started at once is a NOTICE set after the reset, or the DATA of no
order that the reset ended. Its pending notices are cleared: what stands after it is REASSIGN FAILED alone, where a REASSIGN that
starts at once finds no FREE position. The operations current for its drive-queued orders end as for a cancel, with the transfer
granted to them or at once (a planned continuation that has not begun is no granted transfer: the model's choice, log 37); every other
operation, the reassignment that copies and the drive states go on. -/
def Obligations.PortResetClears : Prop :=
  ∀ (f : ResetFrame) (s : State), s.powered = true → f.checkOk = true →
    ∃ t, exec (.portReset f) s = .next t ∧ (∀ g, (t.port f.port).slots.get g = none) ∧
      (t.port f.port).replies = [] ∧ (t.port f.port).endings = [] ∧ (t.port f.port).dataReqs = [] ∧
      (∀ out, (t.port f.port).sending = some out → (∃ n kinds, out = .notice n kinds) ∨
        ∃ oid tag i pl, out = .data oid tag i pl ∧ ∀ g o, (s.port f.port).slots.get g = some o → o.live = true →
          o.kind.driveQueued = true → o.oid ≠ oid) ∧
      (t.port f.port).window = Window.cleared ∧ (t.port f.port).refusals = (s.port f.port).refusals ∧
      (t.port f.port).timeouts = (s.port f.port).timeouts ∧
      (t.port f.port).protocolErrors = (s.port f.port).protocolErrors ∧
      (∀ d, (t.drive d).counter = (s.drive d).counter ∧
        (t.drive d).holder = if (s.drive d).holder = some f.port then none else (s.drive d).holder) ∧
      t.media = s.media ∧ Untouched s t allDrives [f.port] ∧
      (∀ n, (t.port f.port).notices.get n &&& ~~~noticeReassignFailed = 0) ∧
      (s.reassign.state = .copying ∨
          (s.reassign.state = .free ∧ ∀ e : WatchEntry, .entry e ∈ s.watch → s.eligible e = false) →
        ∀ n, (t.port f.port).notices.get n = 0) ∧
      (s.reassign.state = .copying → t.reassign = s.reassign) ∧
      (∀ d, (s.drive d).state ≠ .waitingSpin → (t.drive d).state = (s.drive d).state ∧
        ∀ op, (s.drive d).cur = some op → (∀ g o, (s.port f.port).slots.get g = some o → o.live = true →
            o.kind.driveQueued = true → op.kind.hostOrdered = true → o.oid ≠ op.oid) → (t.drive d).cur = some op) ∧
      (s.numberLaw → ∀ g o, (s.port f.port).slots.get g = some o → o.live = true → o.kind.driveQueued = true → WorkEnds s t o.oid)

/-! ## Table orders -/

/-- R163: TABLE SELECT is accepted on its own fields, the maintenance right and a free tag alone, whatever the drives; a table
identifier outside 1 to 7 or an index above the table's last is BAD ORDER; accepted, it sets the four window items and ends
COMPLETE. -/
def Obligations.TableSelectSetsWindow : Prop :=
  ∀ (f : OrderFrame) (tag : Tag) (s : State), s.powered = true → f.checkOk = true → tagOf f.tag = some tag →
    (s.judge .tableSelect f tag = none ↔
      (s.port f.port).slots.get tag = none ∧ f.logical.toNat ≤ 7 ∧ f.flags &&& 0xFD#8 = 0#8 ∧ f.body = [] ∧
        1 ≤ f.sector.toNat ∧ f.sector.toNat ≤ 7 ∧
        (∀ k, TableId.ofCode f.sector.toNat = some k → f.parameter.toNat ≤ k.lastIndex) ∧
        (s.port f.port).access.maintenance = true) ∧
    ((s.port f.port).slots.get tag = none →
      ¬(1 ≤ f.sector.toNat ∧ f.sector.toNat ≤ 7 ∧
        ∀ k, TableId.ofCode f.sector.toNat = some k → f.parameter.toNat ≤ k.lastIndex) →
      s.judge .tableSelect f tag = some .badOrder) ∧
    (s.judge .tableSelect f tag = none → s.numberLaw →
      ∃ t o, exec (.tableSelect f) s = .next t ∧ Taken s t .tableSelect f tag none o ∧ o.result = some .complete ∧
        (t.port f.port).window.table = TableId.ofCode f.sector.toNat ∧
        (t.port f.port).window.drive.val = f.logical.toNat ∧ (t.port f.port).window.index = f.parameter.toNat ∧
        ((t.port f.port).window.advance = true ↔ f.flags &&& 2#8 = 2#8) ∧
        (t.port f.port).refusals = (s.port f.port).refusals ∧ (t.port f.port).timeouts = (s.port f.port).timeouts ∧
        (t.port f.port).protocolErrors = (s.port f.port).protocolErrors ∧
        t.media = s.media ∧ Untouched s t [] [f.port] ∧ BusyWhole s t [])

/-- R27, R44, R47, R57, R67, R68, R123, R164 to R167: an accepted TABLE PUT stores the entry of its window's table, clamped where the table clamps,
tells of a clamp, moves the window on and ends COMPLETE. A profile is in force at once on a channel in IDLE or STOPPED and staged on
another. A geometry stops the channel, drops a queued RECALIBRATE, clamps the verify threshold, and empties the map, the pool and the
drive's watch entries unless the division is the one held. At an address without a channel the table entry alone changes. The stored
notice mask keeps the bits of the six kinds (log 22); that a PUT of PORT ACCESS ends the reservations of the port whose entry it is
is read from the rules (DEDUCED, log 30). A sparing policy has the COUNTING entries expire whose window has passed by it. A spare map
entry stands in its slot ASSIGNED with origin LOADED, its alternate IN USE, or the slot is empty; another alternate the slot held goes
FREE, and the map is DIRTY where the slot has changed. -/
def Obligations.TablePutStores : Prop :=
  ∀ (f : OrderFrame) (tag : Tag) (s : State), Accepted s .tablePut f tag → s.numberLaw →
    let w := (s.port f.port).window
    ∃ t o, exec (.tablePut f) s = .next t ∧ Taken s t .tablePut f tag none o ∧ o.result = some .complete ∧
      (t.port f.port).window = w.step ∧ t.media = s.media ∧ t.plugs = s.plugs ∧ t.clock = s.clock ∧
      t.startCause = s.startCause ∧ (t.port f.port).refusals = (s.port f.port).refusals ∧
      (∀ p, p ≠ f.port → PortKept s t p ∧ SlotsKept s t p) ∧ (∀ d, (t.drive d).counter = (s.drive d).counter) ∧
      (∀ d, (t.drive d).holder =
        if w.table = some .portAccess ∧ (s.drive d).holder = some (portOf w.index) ∧
          d ∉ (t.port (portOf w.index)).access.names then none else (s.drive d).holder) ∧
      (w.table = some .portAccess →
        some (t.port (portOf w.index)).access = PortAccess.decode f.body ∧
        (∀ q, q ≠ portOf w.index → (t.port q).access = (s.port q).access) ∧ o.clamped = false) ∧
      (w.table ≠ some .portAccess → ∀ q, (t.port q).access = (s.port q).access) ∧
      (w.table = some .geometry → (t.drive (driveOf w.index)).geom = some (Geometry.decode f.body) ∧ o.clamped = false ∧
        let old := (s.drive (driveOf w.index)).policy
        (t.drive (driveOf w.index)).policy = if served s.plugs.mode8 (driveOf w.index) = true then
          { old with verifyThreshold := min (max old.verifyThreshold 1) (Geometry.decode f.body).s } else old) ∧
      (∀ d, ¬(w.table = some .geometry ∧ d = driveOf w.index) → (t.drive d).geom = (s.drive d).geom) ∧
      (w.table = some .motionProfile → (t.drive (driveOf w.index)).profile = (Profile.decode f.body).clamped ∧
        (o.clamped = true ↔ (Profile.decode f.body).clamped ≠ Profile.decode f.body)) ∧
      (∀ d, ¬(w.table = some .motionProfile ∧ d = driveOf w.index) → (t.drive d).profile = (s.drive d).profile) ∧
      (w.table = some .motionProfile →
        let x := s.drive (driveOf w.index)
        let ch := (t.drive (driveOf w.index)).chan
        let p := (Profile.decode f.body).clamped
        (served s.plugs.mode8 (driveOf w.index) = true →
          (x.chan.phase = .idle ∨ x.chan.phase = .stopped → ch.profile = p ∧ ch.staged = none) ∧
          (x.chan.phase ≠ .idle → x.chan.phase ≠ .stopped → ch = { x.chan with staged := some p })) ∧
        (served s.plugs.mode8 (driveOf w.index) = false → x.takesNoWork = true → ch = x.chan)) ∧
      (w.table = some .geometry → s.engineLaw →
        let x := s.drive (driveOf w.index)
        let y := t.drive (driveOf w.index)
        let g := Geometry.decode f.body
        let kept := ∃ h, x.geom = some h ∧ g.type = h.type ∧ g.c = h.c ∧ g.h = h.h ∧ g.s = h.s ∧ g.a = h.a
        (served s.plugs.mode8 (driveOf w.index) = true →
          y.pendRecal = false ∧ y.chan.phase = .stopped ∧ (x.chan.phase = .stopped → y.chan = x.chan) ∧
          (x.chan.phase ≠ .stopped → y.chan.vel = 0 ∧ y.chan.known = false) ∧
          (kept → y.spare = x.spare ∧ y.pool = x.pool ∧ y.mapState = x.mapState) ∧
          (¬kept → y.spare = [] ∧ y.pool = g.freshPool ∧ y.mapState = .clean ∧
            ∀ e : WatchEntry, .entry e ∈ t.watch → e.drive ≠ driveOf w.index)) ∧
        (served s.plugs.mode8 (driveOf w.index) = false → x.takesNoWork = true →
          y.chan = x.chan ∧ y.pendRecal = x.pendRecal ∧ y.spare = x.spare ∧ y.pool = x.pool ∧ y.mapState = x.mapState ∧
            ∀ (i : Nat) (e : WatchEntry), s.watch[i]? = some (.entry e) → e.drive = driveOf w.index →
              t.watch[i]? = some (.entry e))) ∧
      (w.table = some .sparingPolicy →
        (t.drive (driveOf w.index)).policy = (Policy.decode f.body).clamped (s.drive (driveOf w.index)).sectors ∧
        (o.clamped = true ↔
          (Policy.decode f.body).clamped (s.drive (driveOf w.index)).sectors ≠ Policy.decode f.body) ∧
        (s.engineLaw → ∀ (i : Nat) (e : WatchEntry), s.watch[i]? = some (.entry e) → e.state = .counting →
          t.watch[i]? = some (if e.windowStart + (t.drive e.drive).policy.window * 1000 ≤ s.stringTime then .empty else .entry e))) ∧
      (∀ d, ¬((w.table = some .geometry ∨ w.table = some .sparingPolicy) ∧ d = driveOf w.index) →
        (t.drive d).policy = (s.drive d).policy) ∧
      (w.table = some .spareMap → o.clamped = false ∧
        (t.drive w.drive).spare = ((s.drive w.drive).putSlot w.index f.body).spare ∧
        (t.drive w.drive).pool = ((s.drive w.drive).putSlot w.index f.body).pool ∧
        let x := s.drive w.drive
        let y := t.drive w.drive
        let home : Track := { cyl := halfAt f.body 0, head := byteAt f.body 2 }
        let alt : Track := { cyl := halfAt f.body 3, head := byteAt f.body 5 }
        ∀ g, x.geom = some g → g.consistent = true → x.mapLaw g →
          (f.body = [] → y.slotEntry w.index = none) ∧
          (f.body ≠ [] → y.pool[g.trackPos alt]? = some .inUse ∧ y.slotEntry w.index = some
            { slot := w.index, home := home, alt := alt, pending := false, origin := .loaded, replacement := none }) ∧
          (∀ e, x.slotEntry w.index = some e → f.body = [] ∨ e.alt ≠ alt → y.pool[g.trackPos e.alt]? = some .free) ∧
          (∀ j, j ≠ w.index → y.slotEntry j = x.slotEntry j) ∧
          (∀ p, (f.body ≠ [] → p ≠ g.trackPos alt) → (∀ e, x.slotEntry w.index = some e → p ≠ g.trackPos e.alt) →
            y.pool[p]? = x.pool[p]?) ∧
          (x.cur.isSome = true ∨ (x.pendRecal = false ∧ x.pendLoad = false ∧ x.pendWrite = false) →
            y.mapState = if y.slotEntry w.index = x.slotEntry w.index then x.mapState else .dirty)) ∧
      (w.table = some .alternatePool → o.clamped = false ∧ ∃ st, poolPutState f.body = some st ∧
        (t.drive w.drive).pool = (s.drive w.drive).pool.set w.index st)

/-- R67, R68, R120, R164 to R168: an accepted TABLE GET returns the entry of its window, table by table, as its ending body in the layout of
9.10, moves the window on, changes no entry and ends COMPLETE. The head byte of an absent replacement is a free value (log 23). That a
pool position whose state no event has set reads as the power-on default is the model's choice (log 46). -/
def Obligations.TableGetReturns : Prop :=
  ∀ (f : OrderFrame) (tag : Tag) (s : State), Accepted s .tableGet f tag → s.numberLaw →
    let w := (s.port f.port).window
    let x := s.drive w.drive
    let y := s.drive (driveOf w.index)
    ∃ k t o, w.table = some k ∧
      exec (.tableGet f) s = .next t ∧ Taken s t .tableGet f tag none o ∧ o.result = some .complete ∧
      (k = .portAccess → o.body = (s.port (portOf w.index)).access.encode ∧ o.body.length = 10) ∧
      (k = .geometry → o.body = Geometry.encode y.geom ∧ o.body.length = 8) ∧
      (k = .motionProfile → o.body = y.profile.encode ∧ o.body.length = 8) ∧
      (k = .sparingPolicy → o.body = y.policy.encode ∧ o.body.length = 4) ∧
      (k = .spareMap →
        (x.geom = none ∨ (∀ e ∈ x.spare, e.slot ≠ w.index) → o.body = []) ∧
        ∀ e, x.geom.isSome = true → x.slotEntry w.index = some e → o.body = e.encode ∧ o.body.length = 11) ∧
      (k = .alternatePool → ∃ g, x.geom = some g ∧ w.index < g.poolSize ∧
        (∀ st, x.pool[w.index]? = some st → o.body = [poolCode st]) ∧
        (x.pool[w.index]? = none → o.body = [poolCode (if w.index = g.mapPos then .map else .free)])) ∧
      (k = .watchList → (∀ e, s.watch[w.index]? = some (.entry e) → o.body = e.encode ∧ o.body.length = 15) ∧
        ((∀ e, s.watch[w.index]? ≠ some (.entry e)) → o.body = [])) ∧
      (t.port f.port).window = (s.port f.port).window.step ∧ (t.port f.port).refusals = (s.port f.port).refusals ∧
      t.media = s.media ∧ Untouched s t [] [f.port] ∧ BusyWhole s t []

/-- R169: READ TALLIES takes every counter into its ending body and clears them in the same step. A drive that starts work at once may
have counted again when the command is over: the statement speaks of the drives that find none. -/
def Obligations.ReadTalliesClears : Prop :=
  ∀ (f : OrderFrame) (tag : Tag) (s : State), Accepted s .readTallies f tag → s.numberLaw →
    ∃ t o, exec (.readTallies f) s = .next t ∧ Taken s t .readTallies f tag none o ∧ o.result = some .complete ∧
      o.body = s.tallyBody ∧ o.body.length = 202 ∧ t.watchOverflows = 0 ∧ (∀ p, (t.port p).counters = [0, 0, 0]) ∧
      (∀ d, (s.drive d).takesNoWork = true → (s.drive d).request = false → (t.drive d).tally = DriveTallies.zero) ∧
      (∀ d, (s.drive d).cur = none → (s.drive d).request = false → (s.drive d).nextInternal = none →
        s.eligibleEntries d = [] → (∀ e : WatchEntry, .entry e ∈ s.watch → e.drive = d → s.eligible e = false) →
        (t.drive d).tally = DriveTallies.zero) ∧
      (∀ p, (t.port p).window = (s.port p).window) ∧ t.media = s.media ∧
      Untouched s t [] allPorts ∧ BusyWhole s t []

/-- 9.10: a GET of an entry that a PUT stores gives a body that reads back as the entry; the mask has the bits of the six kinds
(log 22). -/
def Obligations.EntryBodiesRoundTrip : Prop :=
  (∀ a : PortAccess, a.mask &&& 0x3F#8 = a.mask → PortAccess.decode a.encode = some a) ∧
  (∀ g : Geometry, g.acceptable = true → Geometry.decode (Geometry.encode (some g)) = g) ∧
  (∀ p : Profile, Profile.decode p.clamped.encode = p.clamped ∧ p.clamped.clamped = p.clamped) ∧
  ∀ (n : Nat) (p : Policy), 1 ≤ n → n ≤ 32 → Policy.decode (p.clamped n).encode = p.clamped n ∧
    (p.clamped n).clamped n = p.clamped n

/-! ## Maintenance orders on a drive -/

/-- R15, R16, R52, R91, R135, R137: FENCE puts the drive in FENCED at once, ends every host order and REASSIGN TRACK outstanding on it
FENCED, and aborts a reassignment that copies on it. The FENCE itself ends COMPLETE at acceptance, unless a sector is granted to a
host-ordered operation or a REASSIGN of the drive: then it ends at the end of that sector. -/
def Obligations.FenceEndsWork : Prop :=
  (∀ (f : OrderFrame) (tag : Tag) (d : DriveId) (s : State), Accepted s .fence f tag → s.numberLaw → s.ringLaw →
    (s.accessOf f).phys = some d →
    ∃ t o, exec (.fence f) s = .next t ∧ Taken s t .fence f tag (some d) o ∧ (t.drive d).state = .fenced ∧
      (∀ p g r, (s.port p).slots.get g = some r → r.drive = some d → r.live = true →
        r.kind.driveQueued = true ∨ r.kind = .reassignTrack → Ended t p g r.oid .fenced) ∧
      PortKept s t f.port ∧ t.media = s.media ∧ Untouched s t [] [f.port] ∧
      (s.path.holder ≠ some d → o.result = some .complete) ∧
      ((∀ op, (s.drive d).cur = some op → op.kind.hostOrdered = false ∧ op.kind ≠ .reassign) → o.result = some .complete) ∧
      (∀ op x, s.path.holder = some d → (s.drive d).cur = some op → s.path.xfer = some x → x.chained = false →
        op.kind.hostOrdered = true ∨ op.kind = .reassign → o.result = none) ∧
      ∀ i e, s.reassign.state = .copying → s.reassign.slot = some i → s.reassign.held = some e → e.drive = d →
        i < s.watch.length → t.watch[i]? = some (.entry e) ∧
          (t.drive d).spare = ((s.drive d).sparingUndone e.home).spare ∧
          (t.drive d).pool = ((s.drive d).sparingUndone e.home).pool) ∧
  ∀ (d : DriveId) (op : Op) (x : Xfer) (p : Port) (g : Tag) (o : Order) (s : State), s.powered = true → s.numberLaw → s.ringLaw →
    s.transferOf d = some (op, x) → op.ended = true → (s.drive d).state = .fenced → (s.port p).slots.get g = some o →
    o.kind = .fence → o.drive = some d → o.live = true →
    (∀ seen, x.frame = none → ∃ t, exec (.sectorReadEnd d seen) s = .next t ∧ Ended t p g o.oid .complete ∧ t.media = s.media ∧
      Untouched s t [] []) ∧
    (x.frame.isSome = true → op.kind = .write ∨ op.kind = .surface ∨ op.kind = .reassign →
      ∃ t, exec (.sectorWriteEnd d) s = .next t ∧ Ended t p g o.oid .complete ∧ Untouched s t [] [])

/-- R10, R17: UNFENCE clears the map-held mark and takes the drive to RECALIBRATING. -/
def Obligations.UnfenceRecalibrates : Prop :=
  ∀ (f : OrderFrame) (tag : Tag) (d : DriveId) (s : State), Accepted s .unfence f tag → (s.accessOf f).phys = some d →
    ∃ t o, exec (.unfence f) s = .next t ∧ Taken s t .unfence f tag (some d) o ∧ (t.drive d).state = .recalibrating ∧
      (t.drive d).mapHeld = false ∧ PortKept s t f.port ∧ t.media = s.media ∧ Untouched s t [] [f.port] ∧
      BusyWhole s t [d]

/-- R18, R19, R71: DRIVE RESET ends every other order outstanding on the drive RESET and leads it on from its state at acceptance; on a
FENCED drive with its geometry unset it ends FENCED there. A sector write the drive has in transfer is left TORN (log 6). -/
def Obligations.DriveResetLeads : Prop :=
  ∀ (f : OrderFrame) (tag : Tag) (d : DriveId) (s : State), Accepted s .driveReset f tag → s.numberLaw →
    (s.accessOf f).phys = some d →
    ∃ t o, exec (.driveReset f) s = .next t ∧ Taken s t .driveReset f tag (some d) o ∧
      ((s.drive d).state = .notReady ∨ (s.drive d).state = .waitingSpin ∨ (s.drive d).state = .spinningUp →
        (t.drive d).state = .waitingSpin ∨ (t.drive d).state = .spinningUp) ∧
      ((s.drive d).state = .fenced → (s.drive d).geom = none → (t.drive d).state = .fenced ∧ o.result = some .fenced) ∧
      ((s.drive d).state = .fenced → (s.drive d).geom.isSome = true → (t.drive d).state = .recalibrating) ∧
      ((s.drive d).state = .recalibrating ∨ (s.drive d).state = .loadingMap ∨ (s.drive d).state = .writingMap ∨
        (s.drive d).state = .ready ∨ (s.drive d).state = .mapLost → (t.drive d).state = .recalibrating) ∧
      (∀ p g r, (s.port p).slots.get g = some r → r.drive = some d → r.live = true → Ended t p g r.oid .reset) ∧
      Torn s t (· = d) ∧ PortKept s t f.port ∧ Untouched s t [] [f.port]

/-- R65: COMMIT MAP has a MAP WRITE queued, or current when the drive could start it at once; while an operation is current at
acceptance, a MAP WRITE too, the further MAP WRITE is queued. -/
def Obligations.CommitMapQueuesWrite : Prop :=
  ∀ (f : OrderFrame) (tag : Tag) (d : DriveId) (s : State), Accepted s .commitMap f tag → (s.accessOf f).phys = some d →
    ∃ t o, exec (.commitMap f) s = .next t ∧ Taken s t .commitMap f tag (some d) o ∧
      ((t.drive d).pendWrite = true ∨ ∃ op, (t.drive d).cur = some op ∧ op.kind = .mapWrite) ∧
      ((s.drive d).cur.isSome = true → (t.drive d).pendWrite = true) ∧
      (t.drive d).state = (s.drive d).state ∧ PortKept s t f.port ∧ t.media = s.media ∧ Untouched s t [] [f.port] ∧
      BusyWhole s t [d]

/-! ## Frames as bytes -/

/-- 9.10: the bytes of every well-formed host frame read back as the command it is; the frame check, whose rule is not given, is
passed beside the bytes (log 28). -/
def Obligations.HostFramesRoundTrip : Prop :=
  ∀ (i : Instr) (b : List Byte), i.wf = true → encodeFrame i = some b → decodeFrame i.port i.checkOk i.poll b = i
end

