-- ==== Sys2Proof/Laws/State.lean ====
section
/-! SUPPORT. What each update of the state leaves unchanged, field by field, and what reading a drive, a port or a family's
member gives after an update. -/

namespace Sys2Proof

variable {α β : Type}

/-! ## The two families -/

@[simp] theorem Oct.get_set_self (o : Oct α) (i : Fin 8) (x : α) : (o.set i x).get i = x := by
  fin_cases i <;> rfl

theorem Oct.get_set_ne (o : Oct α) {i j : Fin 8} (x : α) (h : j ≠ i) : (o.set i x).get j = o.get j := by
  fin_cases i <;> fin_cases j <;> first | rfl | exact absurd rfl h

@[simp] theorem Oct.set_set (o : Oct α) (i : Fin 8) (x y : α) : (o.set i x).set i y = o.set i y := by
  fin_cases i <;> rfl

@[simp] theorem Oct.set_get (o : Oct α) (i : Fin 8) : o.set i (o.get i) = o := by
  fin_cases i <;> rfl

@[simp] theorem Oct.get_map (f : α → β) (o : Oct α) (i : Fin 8) : (o.map f).get i = f (o.get i) := by
  fin_cases i <;> rfl

@[simp] theorem Oct.get_of (f : Fin 8 → α) (i : Fin 8) : (Oct.of f).get i = f i := by
  fin_cases i <;> rfl

@[simp] theorem Oct.get_all (x : α) (i : Fin 8) : (Oct.all x).get i = x := by
  fin_cases i <;> rfl

theorem Oct.map_set (f : α → β) (o : Oct α) (i : Fin 8) (x : α) : (o.set i x).map f = (o.map f).set i (f x) := by
  fin_cases i <;> rfl

theorem Oct.ext_get {a b : Oct α} (h : ∀ i, a.get i = b.get i) : a = b := by
  obtain ⟨a0, a1, a2, a3, a4, a5, a6, a7⟩ := a
  obtain ⟨b0, b1, b2, b3, b4, b5, b6, b7⟩ := b
  have h0 := h 0; have h1 := h 1; have h2 := h 2; have h3 := h 3
  have h4 := h 4; have h5 := h 5; have h6 := h 6; have h7 := h 7
  simp only [Oct.get] at h0 h1 h2 h3 h4 h5 h6 h7
  simp_all

@[simp] theorem Quad.get_set_self (o : Quad α) (i : Fin 4) (x : α) : (o.set i x).get i = x := by
  fin_cases i <;> rfl

theorem Quad.get_set_ne (o : Quad α) {i j : Fin 4} (x : α) (h : j ≠ i) : (o.set i x).get j = o.get j := by
  fin_cases i <;> fin_cases j <;> first | rfl | exact absurd rfl h

@[simp] theorem Quad.set_set (o : Quad α) (i : Fin 4) (x y : α) : (o.set i x).set i y = o.set i y := by
  fin_cases i <;> rfl

@[simp] theorem Quad.set_get (o : Quad α) (i : Fin 4) : o.set i (o.get i) = o := by
  fin_cases i <;> rfl

@[simp] theorem Quad.get_map (f : α → β) (o : Quad α) (i : Fin 4) : (o.map f).get i = f (o.get i) := by
  fin_cases i <;> rfl

@[simp] theorem Quad.get_of (f : Fin 4 → α) (i : Fin 4) : (Quad.of f).get i = f i := by
  fin_cases i <;> rfl

@[simp] theorem Quad.get_all (x : α) (i : Fin 4) : (Quad.all x).get i = x := by
  fin_cases i <;> rfl

theorem Quad.map_set (f : α → β) (o : Quad α) (i : Fin 4) (x : α) : (o.set i x).map f = (o.map f).set i (f x) := by
  fin_cases i <;> rfl

theorem Quad.ext_get {a b : Quad α} (h : ∀ i, a.get i = b.get i) : a = b := by
  obtain ⟨a0, a1, a2, a3⟩ := a
  obtain ⟨b0, b1, b2, b3⟩ := b
  have h0 := h 0; have h1 := h 1; have h2 := h 2; have h3 := h 3
  simp only [Quad.get] at h0 h1 h2 h3
  simp_all

end Sys2Proof

namespace Sys2Proof.Machine

/-! ## Reading after an update -/

@[simp] theorem State.drive_modDrive_self (s : State) (d : DriveId) (f : Drive → Drive) :
    (s.modDrive d f).drive d = f (s.drive d) := by
  simp [State.drive, State.modDrive]

theorem State.drive_modDrive_ne (s : State) {d e : DriveId} (f : Drive → Drive) (h : e ≠ d) :
    (s.modDrive d f).drive e = s.drive e := by
  simp [State.drive, State.modDrive, Oct.get_set_ne _ _ h]

@[simp] theorem State.drive_modPort (s : State) (p : Port) (f : PortCtl → PortCtl) (d : DriveId) :
    (s.modPort p f).drive d = s.drive d := rfl

@[simp] theorem State.port_modDrive (s : State) (d : DriveId) (f : Drive → Drive) (p : Port) :
    (s.modDrive d f).port p = s.port p := rfl

@[simp] theorem State.port_modPort_self (s : State) (p : Port) (f : PortCtl → PortCtl) :
    (s.modPort p f).port p = f (s.port p) := by
  simp [State.port, State.modPort]

theorem State.port_modPort_ne (s : State) {p q : Port} (f : PortCtl → PortCtl) (h : q ≠ p) :
    (s.modPort p f).port q = s.port q := by
  simp [State.port, State.modPort, Quad.get_set_ne _ _ h]

@[simp] theorem State.port_modOrder (s : State) (oid : Nat) (f : Order → Order) (p : Port) :
    (s.modOrder oid f).port p = (s.port p).modOrder oid f := by
  simp [State.port, State.modOrder]

@[simp] theorem State.port_setNotice (s : State) (d : DriveId) (kind : Byte) (p : Port) :
    (s.setNotice d kind).port p = (s.port p).addNotice d kind := by
  simp [State.port, State.setNotice]

/-! ## Field by field -/

@[simp] theorem State.modDrive_powered (s : State) (d : DriveId) (f : Drive → Drive) : (s.modDrive d f).powered = s.powered := rfl
@[simp] theorem State.modDrive_clock (s : State) (d : DriveId) (f : Drive → Drive) : (s.modDrive d f).clock = s.clock := rfl
@[simp] theorem State.modDrive_startCause (s : State) (d : DriveId) (f : Drive → Drive) : (s.modDrive d f).startCause = s.startCause := rfl
@[simp] theorem State.modDrive_plugs (s : State) (d : DriveId) (f : Drive → Drive) : (s.modDrive d f).plugs = s.plugs := rfl
@[simp] theorem State.modDrive_ports (s : State) (d : DriveId) (f : Drive → Drive) : (s.modDrive d f).ports = s.ports := rfl
@[simp] theorem State.modDrive_path (s : State) (d : DriveId) (f : Drive → Drive) : (s.modDrive d f).path = s.path := rfl
@[simp] theorem State.modDrive_ring (s : State) (d : DriveId) (f : Drive → Drive) : (s.modDrive d f).ring = s.ring := rfl
@[simp] theorem State.modDrive_wslots (s : State) (d : DriveId) (f : Drive → Drive) : (s.modDrive d f).wslots = s.wslots := rfl
@[simp] theorem State.modDrive_waitList (s : State) (d : DriveId) (f : Drive → Drive) : (s.modDrive d f).waitList = s.waitList := rfl
@[simp] theorem State.modDrive_watch (s : State) (d : DriveId) (f : Drive → Drive) : (s.modDrive d f).watch = s.watch := rfl
@[simp] theorem State.modDrive_reassign (s : State) (d : DriveId) (f : Drive → Drive) : (s.modDrive d f).reassign = s.reassign := rfl
@[simp] theorem State.modDrive_verify (s : State) (d : DriveId) (f : Drive → Drive) : (s.modDrive d f).verify = s.verify := rfl
@[simp] theorem State.modDrive_watchOverflows (s : State) (d : DriveId) (f : Drive → Drive) : (s.modDrive d f).watchOverflows = s.watchOverflows := rfl
@[simp] theorem State.modDrive_media (s : State) (d : DriveId) (f : Drive → Drive) : (s.modDrive d f).media = s.media := rfl
@[simp] theorem State.modDrive_cuts (s : State) (d : DriveId) (f : Drive → Drive) : (s.modDrive d f).cuts = s.cuts := rfl
@[simp] theorem State.modDrive_nextOid (s : State) (d : DriveId) (f : Drive → Drive) : (s.modDrive d f).nextOid = s.nextOid := rfl
@[simp] theorem State.modDrive_closing (s : State) (d : DriveId) (f : Drive → Drive) : (s.modDrive d f).closing = s.closing := rfl
@[simp] theorem State.modDrive_pending (s : State) (d : DriveId) (f : Drive → Drive) : (s.modDrive d f).pending = s.pending := rfl

@[simp] theorem State.modPort_powered (s : State) (p : Port) (f : PortCtl → PortCtl) : (s.modPort p f).powered = s.powered := rfl
@[simp] theorem State.modPort_clock (s : State) (p : Port) (f : PortCtl → PortCtl) : (s.modPort p f).clock = s.clock := rfl
@[simp] theorem State.modPort_startCause (s : State) (p : Port) (f : PortCtl → PortCtl) : (s.modPort p f).startCause = s.startCause := rfl
@[simp] theorem State.modPort_plugs (s : State) (p : Port) (f : PortCtl → PortCtl) : (s.modPort p f).plugs = s.plugs := rfl
@[simp] theorem State.modPort_drives (s : State) (p : Port) (f : PortCtl → PortCtl) : (s.modPort p f).drives = s.drives := rfl
@[simp] theorem State.modPort_path (s : State) (p : Port) (f : PortCtl → PortCtl) : (s.modPort p f).path = s.path := rfl
@[simp] theorem State.modPort_ring (s : State) (p : Port) (f : PortCtl → PortCtl) : (s.modPort p f).ring = s.ring := rfl
@[simp] theorem State.modPort_wslots (s : State) (p : Port) (f : PortCtl → PortCtl) : (s.modPort p f).wslots = s.wslots := rfl
@[simp] theorem State.modPort_waitList (s : State) (p : Port) (f : PortCtl → PortCtl) : (s.modPort p f).waitList = s.waitList := rfl
@[simp] theorem State.modPort_watch (s : State) (p : Port) (f : PortCtl → PortCtl) : (s.modPort p f).watch = s.watch := rfl
@[simp] theorem State.modPort_reassign (s : State) (p : Port) (f : PortCtl → PortCtl) : (s.modPort p f).reassign = s.reassign := rfl
@[simp] theorem State.modPort_verify (s : State) (p : Port) (f : PortCtl → PortCtl) : (s.modPort p f).verify = s.verify := rfl
@[simp] theorem State.modPort_watchOverflows (s : State) (p : Port) (f : PortCtl → PortCtl) : (s.modPort p f).watchOverflows = s.watchOverflows := rfl
@[simp] theorem State.modPort_media (s : State) (p : Port) (f : PortCtl → PortCtl) : (s.modPort p f).media = s.media := rfl
@[simp] theorem State.modPort_cuts (s : State) (p : Port) (f : PortCtl → PortCtl) : (s.modPort p f).cuts = s.cuts := rfl
@[simp] theorem State.modPort_nextOid (s : State) (p : Port) (f : PortCtl → PortCtl) : (s.modPort p f).nextOid = s.nextOid := rfl
@[simp] theorem State.modPort_closing (s : State) (p : Port) (f : PortCtl → PortCtl) : (s.modPort p f).closing = s.closing := rfl
@[simp] theorem State.modPort_pending (s : State) (p : Port) (f : PortCtl → PortCtl) : (s.modPort p f).pending = s.pending := rfl

@[simp] theorem State.modChan_powered (s : State) (d : DriveId) (f : Channel → Channel) : (s.modChan d f).powered = s.powered := rfl
@[simp] theorem State.modChan_clock (s : State) (d : DriveId) (f : Channel → Channel) : (s.modChan d f).clock = s.clock := rfl
@[simp] theorem State.modChan_startCause (s : State) (d : DriveId) (f : Channel → Channel) : (s.modChan d f).startCause = s.startCause := rfl
@[simp] theorem State.modChan_plugs (s : State) (d : DriveId) (f : Channel → Channel) : (s.modChan d f).plugs = s.plugs := rfl
@[simp] theorem State.modChan_ports (s : State) (d : DriveId) (f : Channel → Channel) : (s.modChan d f).ports = s.ports := rfl
@[simp] theorem State.modChan_path (s : State) (d : DriveId) (f : Channel → Channel) : (s.modChan d f).path = s.path := rfl
@[simp] theorem State.modChan_ring (s : State) (d : DriveId) (f : Channel → Channel) : (s.modChan d f).ring = s.ring := rfl
@[simp] theorem State.modChan_wslots (s : State) (d : DriveId) (f : Channel → Channel) : (s.modChan d f).wslots = s.wslots := rfl
@[simp] theorem State.modChan_waitList (s : State) (d : DriveId) (f : Channel → Channel) : (s.modChan d f).waitList = s.waitList := rfl
@[simp] theorem State.modChan_watch (s : State) (d : DriveId) (f : Channel → Channel) : (s.modChan d f).watch = s.watch := rfl
@[simp] theorem State.modChan_reassign (s : State) (d : DriveId) (f : Channel → Channel) : (s.modChan d f).reassign = s.reassign := rfl
@[simp] theorem State.modChan_verify (s : State) (d : DriveId) (f : Channel → Channel) : (s.modChan d f).verify = s.verify := rfl
@[simp] theorem State.modChan_watchOverflows (s : State) (d : DriveId) (f : Channel → Channel) : (s.modChan d f).watchOverflows = s.watchOverflows := rfl
@[simp] theorem State.modChan_media (s : State) (d : DriveId) (f : Channel → Channel) : (s.modChan d f).media = s.media := rfl
@[simp] theorem State.modChan_cuts (s : State) (d : DriveId) (f : Channel → Channel) : (s.modChan d f).cuts = s.cuts := rfl
@[simp] theorem State.modChan_nextOid (s : State) (d : DriveId) (f : Channel → Channel) : (s.modChan d f).nextOid = s.nextOid := rfl
@[simp] theorem State.modChan_closing (s : State) (d : DriveId) (f : Channel → Channel) : (s.modChan d f).closing = s.closing := rfl
@[simp] theorem State.modChan_pending (s : State) (d : DriveId) (f : Channel → Channel) : (s.modChan d f).pending = s.pending := rfl

@[simp] theorem State.modOp_powered (s : State) (d : DriveId) (f : Op → Op) : (s.modOp d f).powered = s.powered := rfl
@[simp] theorem State.modOp_clock (s : State) (d : DriveId) (f : Op → Op) : (s.modOp d f).clock = s.clock := rfl
@[simp] theorem State.modOp_startCause (s : State) (d : DriveId) (f : Op → Op) : (s.modOp d f).startCause = s.startCause := rfl
@[simp] theorem State.modOp_plugs (s : State) (d : DriveId) (f : Op → Op) : (s.modOp d f).plugs = s.plugs := rfl
@[simp] theorem State.modOp_ports (s : State) (d : DriveId) (f : Op → Op) : (s.modOp d f).ports = s.ports := rfl
@[simp] theorem State.modOp_path (s : State) (d : DriveId) (f : Op → Op) : (s.modOp d f).path = s.path := rfl
@[simp] theorem State.modOp_ring (s : State) (d : DriveId) (f : Op → Op) : (s.modOp d f).ring = s.ring := rfl
@[simp] theorem State.modOp_wslots (s : State) (d : DriveId) (f : Op → Op) : (s.modOp d f).wslots = s.wslots := rfl
@[simp] theorem State.modOp_waitList (s : State) (d : DriveId) (f : Op → Op) : (s.modOp d f).waitList = s.waitList := rfl
@[simp] theorem State.modOp_watch (s : State) (d : DriveId) (f : Op → Op) : (s.modOp d f).watch = s.watch := rfl
@[simp] theorem State.modOp_reassign (s : State) (d : DriveId) (f : Op → Op) : (s.modOp d f).reassign = s.reassign := rfl
@[simp] theorem State.modOp_verify (s : State) (d : DriveId) (f : Op → Op) : (s.modOp d f).verify = s.verify := rfl
@[simp] theorem State.modOp_watchOverflows (s : State) (d : DriveId) (f : Op → Op) : (s.modOp d f).watchOverflows = s.watchOverflows := rfl
@[simp] theorem State.modOp_media (s : State) (d : DriveId) (f : Op → Op) : (s.modOp d f).media = s.media := rfl
@[simp] theorem State.modOp_cuts (s : State) (d : DriveId) (f : Op → Op) : (s.modOp d f).cuts = s.cuts := rfl
@[simp] theorem State.modOp_nextOid (s : State) (d : DriveId) (f : Op → Op) : (s.modOp d f).nextOid = s.nextOid := rfl
@[simp] theorem State.modOp_closing (s : State) (d : DriveId) (f : Op → Op) : (s.modOp d f).closing = s.closing := rfl
@[simp] theorem State.modOp_pending (s : State) (d : DriveId) (f : Op → Op) : (s.modOp d f).pending = s.pending := rfl

@[simp] theorem State.tallyDrive_powered (s : State) (d : DriveId) (f : DriveTallies → DriveTallies) : (s.tallyDrive d f).powered = s.powered := rfl
@[simp] theorem State.tallyDrive_clock (s : State) (d : DriveId) (f : DriveTallies → DriveTallies) : (s.tallyDrive d f).clock = s.clock := rfl
@[simp] theorem State.tallyDrive_startCause (s : State) (d : DriveId) (f : DriveTallies → DriveTallies) : (s.tallyDrive d f).startCause = s.startCause := rfl
@[simp] theorem State.tallyDrive_plugs (s : State) (d : DriveId) (f : DriveTallies → DriveTallies) : (s.tallyDrive d f).plugs = s.plugs := rfl
@[simp] theorem State.tallyDrive_ports (s : State) (d : DriveId) (f : DriveTallies → DriveTallies) : (s.tallyDrive d f).ports = s.ports := rfl
@[simp] theorem State.tallyDrive_path (s : State) (d : DriveId) (f : DriveTallies → DriveTallies) : (s.tallyDrive d f).path = s.path := rfl
@[simp] theorem State.tallyDrive_ring (s : State) (d : DriveId) (f : DriveTallies → DriveTallies) : (s.tallyDrive d f).ring = s.ring := rfl
@[simp] theorem State.tallyDrive_wslots (s : State) (d : DriveId) (f : DriveTallies → DriveTallies) : (s.tallyDrive d f).wslots = s.wslots := rfl
@[simp] theorem State.tallyDrive_waitList (s : State) (d : DriveId) (f : DriveTallies → DriveTallies) : (s.tallyDrive d f).waitList = s.waitList := rfl
@[simp] theorem State.tallyDrive_watch (s : State) (d : DriveId) (f : DriveTallies → DriveTallies) : (s.tallyDrive d f).watch = s.watch := rfl
@[simp] theorem State.tallyDrive_reassign (s : State) (d : DriveId) (f : DriveTallies → DriveTallies) : (s.tallyDrive d f).reassign = s.reassign := rfl
@[simp] theorem State.tallyDrive_verify (s : State) (d : DriveId) (f : DriveTallies → DriveTallies) : (s.tallyDrive d f).verify = s.verify := rfl
@[simp] theorem State.tallyDrive_watchOverflows (s : State) (d : DriveId) (f : DriveTallies → DriveTallies) : (s.tallyDrive d f).watchOverflows = s.watchOverflows := rfl
@[simp] theorem State.tallyDrive_media (s : State) (d : DriveId) (f : DriveTallies → DriveTallies) : (s.tallyDrive d f).media = s.media := rfl
@[simp] theorem State.tallyDrive_cuts (s : State) (d : DriveId) (f : DriveTallies → DriveTallies) : (s.tallyDrive d f).cuts = s.cuts := rfl
@[simp] theorem State.tallyDrive_nextOid (s : State) (d : DriveId) (f : DriveTallies → DriveTallies) : (s.tallyDrive d f).nextOid = s.nextOid := rfl
@[simp] theorem State.tallyDrive_closing (s : State) (d : DriveId) (f : DriveTallies → DriveTallies) : (s.tallyDrive d f).closing = s.closing := rfl
@[simp] theorem State.tallyDrive_pending (s : State) (d : DriveId) (f : DriveTallies → DriveTallies) : (s.tallyDrive d f).pending = s.pending := rfl

@[simp] theorem State.setOp_powered (s : State) (d : DriveId) (op : Op) : (s.setOp d op).powered = s.powered := rfl
@[simp] theorem State.setOp_clock (s : State) (d : DriveId) (op : Op) : (s.setOp d op).clock = s.clock := rfl
@[simp] theorem State.setOp_startCause (s : State) (d : DriveId) (op : Op) : (s.setOp d op).startCause = s.startCause := rfl
@[simp] theorem State.setOp_plugs (s : State) (d : DriveId) (op : Op) : (s.setOp d op).plugs = s.plugs := rfl
@[simp] theorem State.setOp_ports (s : State) (d : DriveId) (op : Op) : (s.setOp d op).ports = s.ports := rfl
@[simp] theorem State.setOp_path (s : State) (d : DriveId) (op : Op) : (s.setOp d op).path = s.path := rfl
@[simp] theorem State.setOp_ring (s : State) (d : DriveId) (op : Op) : (s.setOp d op).ring = s.ring := rfl
@[simp] theorem State.setOp_wslots (s : State) (d : DriveId) (op : Op) : (s.setOp d op).wslots = s.wslots := rfl
@[simp] theorem State.setOp_waitList (s : State) (d : DriveId) (op : Op) : (s.setOp d op).waitList = s.waitList := rfl
@[simp] theorem State.setOp_watch (s : State) (d : DriveId) (op : Op) : (s.setOp d op).watch = s.watch := rfl
@[simp] theorem State.setOp_reassign (s : State) (d : DriveId) (op : Op) : (s.setOp d op).reassign = s.reassign := rfl
@[simp] theorem State.setOp_verify (s : State) (d : DriveId) (op : Op) : (s.setOp d op).verify = s.verify := rfl
@[simp] theorem State.setOp_watchOverflows (s : State) (d : DriveId) (op : Op) : (s.setOp d op).watchOverflows = s.watchOverflows := rfl
@[simp] theorem State.setOp_media (s : State) (d : DriveId) (op : Op) : (s.setOp d op).media = s.media := rfl
@[simp] theorem State.setOp_cuts (s : State) (d : DriveId) (op : Op) : (s.setOp d op).cuts = s.cuts := rfl
@[simp] theorem State.setOp_nextOid (s : State) (d : DriveId) (op : Op) : (s.setOp d op).nextOid = s.nextOid := rfl
@[simp] theorem State.setOp_closing (s : State) (d : DriveId) (op : Op) : (s.setOp d op).closing = s.closing := rfl
@[simp] theorem State.setOp_pending (s : State) (d : DriveId) (op : Op) : (s.setOp d op).pending = s.pending := rfl

@[simp] theorem State.setDriveState_powered (s : State) (d : DriveId) (st : DriveState) : (s.setDriveState d st).powered = s.powered := rfl
@[simp] theorem State.setDriveState_clock (s : State) (d : DriveId) (st : DriveState) : (s.setDriveState d st).clock = s.clock := rfl
@[simp] theorem State.setDriveState_startCause (s : State) (d : DriveId) (st : DriveState) : (s.setDriveState d st).startCause = s.startCause := rfl
@[simp] theorem State.setDriveState_plugs (s : State) (d : DriveId) (st : DriveState) : (s.setDriveState d st).plugs = s.plugs := rfl
@[simp] theorem State.setDriveState_ports (s : State) (d : DriveId) (st : DriveState) : (s.setDriveState d st).ports = s.ports := rfl
@[simp] theorem State.setDriveState_path (s : State) (d : DriveId) (st : DriveState) : (s.setDriveState d st).path = s.path := rfl
@[simp] theorem State.setDriveState_ring (s : State) (d : DriveId) (st : DriveState) : (s.setDriveState d st).ring = s.ring := rfl
@[simp] theorem State.setDriveState_wslots (s : State) (d : DriveId) (st : DriveState) : (s.setDriveState d st).wslots = s.wslots := rfl
@[simp] theorem State.setDriveState_waitList (s : State) (d : DriveId) (st : DriveState) : (s.setDriveState d st).waitList = s.waitList := rfl
@[simp] theorem State.setDriveState_watch (s : State) (d : DriveId) (st : DriveState) : (s.setDriveState d st).watch = s.watch := rfl
@[simp] theorem State.setDriveState_reassign (s : State) (d : DriveId) (st : DriveState) : (s.setDriveState d st).reassign = s.reassign := rfl
@[simp] theorem State.setDriveState_verify (s : State) (d : DriveId) (st : DriveState) : (s.setDriveState d st).verify = s.verify := rfl
@[simp] theorem State.setDriveState_watchOverflows (s : State) (d : DriveId) (st : DriveState) : (s.setDriveState d st).watchOverflows = s.watchOverflows := rfl
@[simp] theorem State.setDriveState_media (s : State) (d : DriveId) (st : DriveState) : (s.setDriveState d st).media = s.media := rfl
@[simp] theorem State.setDriveState_cuts (s : State) (d : DriveId) (st : DriveState) : (s.setDriveState d st).cuts = s.cuts := rfl
@[simp] theorem State.setDriveState_nextOid (s : State) (d : DriveId) (st : DriveState) : (s.setDriveState d st).nextOid = s.nextOid := rfl
@[simp] theorem State.setDriveState_closing (s : State) (d : DriveId) (st : DriveState) : (s.setDriveState d st).closing = s.closing := rfl
@[simp] theorem State.setDriveState_pending (s : State) (d : DriveId) (st : DriveState) : (s.setDriveState d st).pending = s.pending := rfl

@[simp] theorem State.protocolError_powered (s : State) (p : Port) : (s.protocolError p).powered = s.powered := rfl
@[simp] theorem State.protocolError_clock (s : State) (p : Port) : (s.protocolError p).clock = s.clock := rfl
@[simp] theorem State.protocolError_startCause (s : State) (p : Port) : (s.protocolError p).startCause = s.startCause := rfl
@[simp] theorem State.protocolError_plugs (s : State) (p : Port) : (s.protocolError p).plugs = s.plugs := rfl
@[simp] theorem State.protocolError_drives (s : State) (p : Port) : (s.protocolError p).drives = s.drives := rfl
@[simp] theorem State.protocolError_path (s : State) (p : Port) : (s.protocolError p).path = s.path := rfl
@[simp] theorem State.protocolError_ring (s : State) (p : Port) : (s.protocolError p).ring = s.ring := rfl
@[simp] theorem State.protocolError_wslots (s : State) (p : Port) : (s.protocolError p).wslots = s.wslots := rfl
@[simp] theorem State.protocolError_waitList (s : State) (p : Port) : (s.protocolError p).waitList = s.waitList := rfl
@[simp] theorem State.protocolError_watch (s : State) (p : Port) : (s.protocolError p).watch = s.watch := rfl
@[simp] theorem State.protocolError_reassign (s : State) (p : Port) : (s.protocolError p).reassign = s.reassign := rfl
@[simp] theorem State.protocolError_verify (s : State) (p : Port) : (s.protocolError p).verify = s.verify := rfl
@[simp] theorem State.protocolError_watchOverflows (s : State) (p : Port) : (s.protocolError p).watchOverflows = s.watchOverflows := rfl
@[simp] theorem State.protocolError_media (s : State) (p : Port) : (s.protocolError p).media = s.media := rfl
@[simp] theorem State.protocolError_cuts (s : State) (p : Port) : (s.protocolError p).cuts = s.cuts := rfl
@[simp] theorem State.protocolError_nextOid (s : State) (p : Port) : (s.protocolError p).nextOid = s.nextOid := rfl
@[simp] theorem State.protocolError_closing (s : State) (p : Port) : (s.protocolError p).closing = s.closing := rfl
@[simp] theorem State.protocolError_pending (s : State) (p : Port) : (s.protocolError p).pending = s.pending := rfl

@[simp] theorem State.countRefusal_powered (s : State) (p : Port) : (s.countRefusal p).powered = s.powered := rfl
@[simp] theorem State.countRefusal_clock (s : State) (p : Port) : (s.countRefusal p).clock = s.clock := rfl
@[simp] theorem State.countRefusal_startCause (s : State) (p : Port) : (s.countRefusal p).startCause = s.startCause := rfl
@[simp] theorem State.countRefusal_plugs (s : State) (p : Port) : (s.countRefusal p).plugs = s.plugs := rfl
@[simp] theorem State.countRefusal_drives (s : State) (p : Port) : (s.countRefusal p).drives = s.drives := rfl
@[simp] theorem State.countRefusal_path (s : State) (p : Port) : (s.countRefusal p).path = s.path := rfl
@[simp] theorem State.countRefusal_ring (s : State) (p : Port) : (s.countRefusal p).ring = s.ring := rfl
@[simp] theorem State.countRefusal_wslots (s : State) (p : Port) : (s.countRefusal p).wslots = s.wslots := rfl
@[simp] theorem State.countRefusal_waitList (s : State) (p : Port) : (s.countRefusal p).waitList = s.waitList := rfl
@[simp] theorem State.countRefusal_watch (s : State) (p : Port) : (s.countRefusal p).watch = s.watch := rfl
@[simp] theorem State.countRefusal_reassign (s : State) (p : Port) : (s.countRefusal p).reassign = s.reassign := rfl
@[simp] theorem State.countRefusal_verify (s : State) (p : Port) : (s.countRefusal p).verify = s.verify := rfl
@[simp] theorem State.countRefusal_watchOverflows (s : State) (p : Port) : (s.countRefusal p).watchOverflows = s.watchOverflows := rfl
@[simp] theorem State.countRefusal_media (s : State) (p : Port) : (s.countRefusal p).media = s.media := rfl
@[simp] theorem State.countRefusal_cuts (s : State) (p : Port) : (s.countRefusal p).cuts = s.cuts := rfl
@[simp] theorem State.countRefusal_nextOid (s : State) (p : Port) : (s.countRefusal p).nextOid = s.nextOid := rfl
@[simp] theorem State.countRefusal_closing (s : State) (p : Port) : (s.countRefusal p).closing = s.closing := rfl
@[simp] theorem State.countRefusal_pending (s : State) (p : Port) : (s.countRefusal p).pending = s.pending := rfl

@[simp] theorem State.countTimeout_powered (s : State) (p : Port) : (s.countTimeout p).powered = s.powered := rfl
@[simp] theorem State.countTimeout_clock (s : State) (p : Port) : (s.countTimeout p).clock = s.clock := rfl
@[simp] theorem State.countTimeout_startCause (s : State) (p : Port) : (s.countTimeout p).startCause = s.startCause := rfl
@[simp] theorem State.countTimeout_plugs (s : State) (p : Port) : (s.countTimeout p).plugs = s.plugs := rfl
@[simp] theorem State.countTimeout_drives (s : State) (p : Port) : (s.countTimeout p).drives = s.drives := rfl
@[simp] theorem State.countTimeout_path (s : State) (p : Port) : (s.countTimeout p).path = s.path := rfl
@[simp] theorem State.countTimeout_ring (s : State) (p : Port) : (s.countTimeout p).ring = s.ring := rfl
@[simp] theorem State.countTimeout_wslots (s : State) (p : Port) : (s.countTimeout p).wslots = s.wslots := rfl
@[simp] theorem State.countTimeout_waitList (s : State) (p : Port) : (s.countTimeout p).waitList = s.waitList := rfl
@[simp] theorem State.countTimeout_watch (s : State) (p : Port) : (s.countTimeout p).watch = s.watch := rfl
@[simp] theorem State.countTimeout_reassign (s : State) (p : Port) : (s.countTimeout p).reassign = s.reassign := rfl
@[simp] theorem State.countTimeout_verify (s : State) (p : Port) : (s.countTimeout p).verify = s.verify := rfl
@[simp] theorem State.countTimeout_watchOverflows (s : State) (p : Port) : (s.countTimeout p).watchOverflows = s.watchOverflows := rfl
@[simp] theorem State.countTimeout_media (s : State) (p : Port) : (s.countTimeout p).media = s.media := rfl
@[simp] theorem State.countTimeout_cuts (s : State) (p : Port) : (s.countTimeout p).cuts = s.cuts := rfl
@[simp] theorem State.countTimeout_nextOid (s : State) (p : Port) : (s.countTimeout p).nextOid = s.nextOid := rfl
@[simp] theorem State.countTimeout_closing (s : State) (p : Port) : (s.countTimeout p).closing = s.closing := rfl
@[simp] theorem State.countTimeout_pending (s : State) (p : Port) : (s.countTimeout p).pending = s.pending := rfl

@[simp] theorem State.setNotice_powered (s : State) (d : DriveId) (kind : Byte) : (s.setNotice d kind).powered = s.powered := rfl
@[simp] theorem State.setNotice_clock (s : State) (d : DriveId) (kind : Byte) : (s.setNotice d kind).clock = s.clock := rfl
@[simp] theorem State.setNotice_startCause (s : State) (d : DriveId) (kind : Byte) : (s.setNotice d kind).startCause = s.startCause := rfl
@[simp] theorem State.setNotice_plugs (s : State) (d : DriveId) (kind : Byte) : (s.setNotice d kind).plugs = s.plugs := rfl
@[simp] theorem State.setNotice_drives (s : State) (d : DriveId) (kind : Byte) : (s.setNotice d kind).drives = s.drives := rfl
@[simp] theorem State.setNotice_path (s : State) (d : DriveId) (kind : Byte) : (s.setNotice d kind).path = s.path := rfl
@[simp] theorem State.setNotice_ring (s : State) (d : DriveId) (kind : Byte) : (s.setNotice d kind).ring = s.ring := rfl
@[simp] theorem State.setNotice_wslots (s : State) (d : DriveId) (kind : Byte) : (s.setNotice d kind).wslots = s.wslots := rfl
@[simp] theorem State.setNotice_waitList (s : State) (d : DriveId) (kind : Byte) : (s.setNotice d kind).waitList = s.waitList := rfl
@[simp] theorem State.setNotice_watch (s : State) (d : DriveId) (kind : Byte) : (s.setNotice d kind).watch = s.watch := rfl
@[simp] theorem State.setNotice_reassign (s : State) (d : DriveId) (kind : Byte) : (s.setNotice d kind).reassign = s.reassign := rfl
@[simp] theorem State.setNotice_verify (s : State) (d : DriveId) (kind : Byte) : (s.setNotice d kind).verify = s.verify := rfl
@[simp] theorem State.setNotice_watchOverflows (s : State) (d : DriveId) (kind : Byte) : (s.setNotice d kind).watchOverflows = s.watchOverflows := rfl
@[simp] theorem State.setNotice_media (s : State) (d : DriveId) (kind : Byte) : (s.setNotice d kind).media = s.media := rfl
@[simp] theorem State.setNotice_cuts (s : State) (d : DriveId) (kind : Byte) : (s.setNotice d kind).cuts = s.cuts := rfl
@[simp] theorem State.setNotice_nextOid (s : State) (d : DriveId) (kind : Byte) : (s.setNotice d kind).nextOid = s.nextOid := rfl
@[simp] theorem State.setNotice_closing (s : State) (d : DriveId) (kind : Byte) : (s.setNotice d kind).closing = s.closing := rfl
@[simp] theorem State.setNotice_pending (s : State) (d : DriveId) (kind : Byte) : (s.setNotice d kind).pending = s.pending := rfl

@[simp] theorem State.modOrder_powered (s : State) (oid : Nat) (f : Order → Order) : (s.modOrder oid f).powered = s.powered := rfl
@[simp] theorem State.modOrder_clock (s : State) (oid : Nat) (f : Order → Order) : (s.modOrder oid f).clock = s.clock := rfl
@[simp] theorem State.modOrder_startCause (s : State) (oid : Nat) (f : Order → Order) : (s.modOrder oid f).startCause = s.startCause := rfl
@[simp] theorem State.modOrder_plugs (s : State) (oid : Nat) (f : Order → Order) : (s.modOrder oid f).plugs = s.plugs := rfl
@[simp] theorem State.modOrder_drives (s : State) (oid : Nat) (f : Order → Order) : (s.modOrder oid f).drives = s.drives := rfl
@[simp] theorem State.modOrder_path (s : State) (oid : Nat) (f : Order → Order) : (s.modOrder oid f).path = s.path := rfl
@[simp] theorem State.modOrder_ring (s : State) (oid : Nat) (f : Order → Order) : (s.modOrder oid f).ring = s.ring := rfl
@[simp] theorem State.modOrder_wslots (s : State) (oid : Nat) (f : Order → Order) : (s.modOrder oid f).wslots = s.wslots := rfl
@[simp] theorem State.modOrder_waitList (s : State) (oid : Nat) (f : Order → Order) : (s.modOrder oid f).waitList = s.waitList := rfl
@[simp] theorem State.modOrder_watch (s : State) (oid : Nat) (f : Order → Order) : (s.modOrder oid f).watch = s.watch := rfl
@[simp] theorem State.modOrder_reassign (s : State) (oid : Nat) (f : Order → Order) : (s.modOrder oid f).reassign = s.reassign := rfl
@[simp] theorem State.modOrder_verify (s : State) (oid : Nat) (f : Order → Order) : (s.modOrder oid f).verify = s.verify := rfl
@[simp] theorem State.modOrder_watchOverflows (s : State) (oid : Nat) (f : Order → Order) : (s.modOrder oid f).watchOverflows = s.watchOverflows := rfl
@[simp] theorem State.modOrder_media (s : State) (oid : Nat) (f : Order → Order) : (s.modOrder oid f).media = s.media := rfl
@[simp] theorem State.modOrder_cuts (s : State) (oid : Nat) (f : Order → Order) : (s.modOrder oid f).cuts = s.cuts := rfl
@[simp] theorem State.modOrder_nextOid (s : State) (oid : Nat) (f : Order → Order) : (s.modOrder oid f).nextOid = s.nextOid := rfl
@[simp] theorem State.modOrder_closing (s : State) (oid : Nat) (f : Order → Order) : (s.modOrder oid f).closing = s.closing := rfl
@[simp] theorem State.modOrder_pending (s : State) (oid : Nat) (f : Order → Order) : (s.modOrder oid f).pending = s.pending := rfl

@[simp] theorem State.close_powered (s : State) (oid : Nat) : (s.close oid).powered = s.powered := rfl
@[simp] theorem State.close_clock (s : State) (oid : Nat) : (s.close oid).clock = s.clock := rfl
@[simp] theorem State.close_startCause (s : State) (oid : Nat) : (s.close oid).startCause = s.startCause := rfl
@[simp] theorem State.close_plugs (s : State) (oid : Nat) : (s.close oid).plugs = s.plugs := rfl
@[simp] theorem State.close_drives (s : State) (oid : Nat) : (s.close oid).drives = s.drives := rfl
@[simp] theorem State.close_ports (s : State) (oid : Nat) : (s.close oid).ports = s.ports := rfl
@[simp] theorem State.close_path (s : State) (oid : Nat) : (s.close oid).path = s.path := rfl
@[simp] theorem State.close_ring (s : State) (oid : Nat) : (s.close oid).ring = s.ring := rfl
@[simp] theorem State.close_wslots (s : State) (oid : Nat) : (s.close oid).wslots = s.wslots := rfl
@[simp] theorem State.close_waitList (s : State) (oid : Nat) : (s.close oid).waitList = s.waitList := rfl
@[simp] theorem State.close_watch (s : State) (oid : Nat) : (s.close oid).watch = s.watch := rfl
@[simp] theorem State.close_reassign (s : State) (oid : Nat) : (s.close oid).reassign = s.reassign := rfl
@[simp] theorem State.close_verify (s : State) (oid : Nat) : (s.close oid).verify = s.verify := rfl
@[simp] theorem State.close_watchOverflows (s : State) (oid : Nat) : (s.close oid).watchOverflows = s.watchOverflows := rfl
@[simp] theorem State.close_media (s : State) (oid : Nat) : (s.close oid).media = s.media := rfl
@[simp] theorem State.close_cuts (s : State) (oid : Nat) : (s.close oid).cuts = s.cuts := rfl
@[simp] theorem State.close_nextOid (s : State) (oid : Nat) : (s.close oid).nextOid = s.nextOid := rfl
@[simp] theorem State.close_pending (s : State) (oid : Nat) : (s.close oid).pending = s.pending := rfl

@[simp] theorem State.modVerify_powered (s : State) (f : VerifyEngine → VerifyEngine) : (s.modVerify f).powered = s.powered := rfl
@[simp] theorem State.modVerify_clock (s : State) (f : VerifyEngine → VerifyEngine) : (s.modVerify f).clock = s.clock := rfl
@[simp] theorem State.modVerify_startCause (s : State) (f : VerifyEngine → VerifyEngine) : (s.modVerify f).startCause = s.startCause := rfl
@[simp] theorem State.modVerify_plugs (s : State) (f : VerifyEngine → VerifyEngine) : (s.modVerify f).plugs = s.plugs := rfl
@[simp] theorem State.modVerify_drives (s : State) (f : VerifyEngine → VerifyEngine) : (s.modVerify f).drives = s.drives := rfl
@[simp] theorem State.modVerify_ports (s : State) (f : VerifyEngine → VerifyEngine) : (s.modVerify f).ports = s.ports := rfl
@[simp] theorem State.modVerify_path (s : State) (f : VerifyEngine → VerifyEngine) : (s.modVerify f).path = s.path := rfl
@[simp] theorem State.modVerify_ring (s : State) (f : VerifyEngine → VerifyEngine) : (s.modVerify f).ring = s.ring := rfl
@[simp] theorem State.modVerify_wslots (s : State) (f : VerifyEngine → VerifyEngine) : (s.modVerify f).wslots = s.wslots := rfl
@[simp] theorem State.modVerify_waitList (s : State) (f : VerifyEngine → VerifyEngine) : (s.modVerify f).waitList = s.waitList := rfl
@[simp] theorem State.modVerify_watch (s : State) (f : VerifyEngine → VerifyEngine) : (s.modVerify f).watch = s.watch := rfl
@[simp] theorem State.modVerify_reassign (s : State) (f : VerifyEngine → VerifyEngine) : (s.modVerify f).reassign = s.reassign := rfl
@[simp] theorem State.modVerify_watchOverflows (s : State) (f : VerifyEngine → VerifyEngine) : (s.modVerify f).watchOverflows = s.watchOverflows := rfl
@[simp] theorem State.modVerify_media (s : State) (f : VerifyEngine → VerifyEngine) : (s.modVerify f).media = s.media := rfl
@[simp] theorem State.modVerify_cuts (s : State) (f : VerifyEngine → VerifyEngine) : (s.modVerify f).cuts = s.cuts := rfl
@[simp] theorem State.modVerify_nextOid (s : State) (f : VerifyEngine → VerifyEngine) : (s.modVerify f).nextOid = s.nextOid := rfl
@[simp] theorem State.modVerify_closing (s : State) (f : VerifyEngine → VerifyEngine) : (s.modVerify f).closing = s.closing := rfl
@[simp] theorem State.modVerify_pending (s : State) (f : VerifyEngine → VerifyEngine) : (s.modVerify f).pending = s.pending := rfl

@[simp] theorem State.layDown_powered (s : State) (d : DriveId) (t : Track) (n : Nat) (fr : Frame) : (s.layDown d t n fr).powered = s.powered := rfl
@[simp] theorem State.layDown_clock (s : State) (d : DriveId) (t : Track) (n : Nat) (fr : Frame) : (s.layDown d t n fr).clock = s.clock := rfl
@[simp] theorem State.layDown_startCause (s : State) (d : DriveId) (t : Track) (n : Nat) (fr : Frame) : (s.layDown d t n fr).startCause = s.startCause := rfl
@[simp] theorem State.layDown_plugs (s : State) (d : DriveId) (t : Track) (n : Nat) (fr : Frame) : (s.layDown d t n fr).plugs = s.plugs := rfl
@[simp] theorem State.layDown_drives (s : State) (d : DriveId) (t : Track) (n : Nat) (fr : Frame) : (s.layDown d t n fr).drives = s.drives := rfl
@[simp] theorem State.layDown_ports (s : State) (d : DriveId) (t : Track) (n : Nat) (fr : Frame) : (s.layDown d t n fr).ports = s.ports := rfl
@[simp] theorem State.layDown_path (s : State) (d : DriveId) (t : Track) (n : Nat) (fr : Frame) : (s.layDown d t n fr).path = s.path := rfl
@[simp] theorem State.layDown_ring (s : State) (d : DriveId) (t : Track) (n : Nat) (fr : Frame) : (s.layDown d t n fr).ring = s.ring := rfl
@[simp] theorem State.layDown_wslots (s : State) (d : DriveId) (t : Track) (n : Nat) (fr : Frame) : (s.layDown d t n fr).wslots = s.wslots := rfl
@[simp] theorem State.layDown_waitList (s : State) (d : DriveId) (t : Track) (n : Nat) (fr : Frame) : (s.layDown d t n fr).waitList = s.waitList := rfl
@[simp] theorem State.layDown_watch (s : State) (d : DriveId) (t : Track) (n : Nat) (fr : Frame) : (s.layDown d t n fr).watch = s.watch := rfl
@[simp] theorem State.layDown_reassign (s : State) (d : DriveId) (t : Track) (n : Nat) (fr : Frame) : (s.layDown d t n fr).reassign = s.reassign := rfl
@[simp] theorem State.layDown_verify (s : State) (d : DriveId) (t : Track) (n : Nat) (fr : Frame) : (s.layDown d t n fr).verify = s.verify := rfl
@[simp] theorem State.layDown_watchOverflows (s : State) (d : DriveId) (t : Track) (n : Nat) (fr : Frame) : (s.layDown d t n fr).watchOverflows = s.watchOverflows := rfl
@[simp] theorem State.layDown_cuts (s : State) (d : DriveId) (t : Track) (n : Nat) (fr : Frame) : (s.layDown d t n fr).cuts = s.cuts := rfl
@[simp] theorem State.layDown_nextOid (s : State) (d : DriveId) (t : Track) (n : Nat) (fr : Frame) : (s.layDown d t n fr).nextOid = s.nextOid := rfl
@[simp] theorem State.layDown_closing (s : State) (d : DriveId) (t : Track) (n : Nat) (fr : Frame) : (s.layDown d t n fr).closing = s.closing := rfl
@[simp] theorem State.layDown_pending (s : State) (d : DriveId) (t : Track) (n : Nat) (fr : Frame) : (s.layDown d t n fr).pending = s.pending := rfl
@[simp] theorem State.tear_powered (s : State) (d : DriveId) (t : Track) (n : Nat) (fr : Frame) : (s.tear d t n fr).powered = s.powered := rfl
@[simp] theorem State.tear_clock (s : State) (d : DriveId) (t : Track) (n : Nat) (fr : Frame) : (s.tear d t n fr).clock = s.clock := rfl
@[simp] theorem State.tear_startCause (s : State) (d : DriveId) (t : Track) (n : Nat) (fr : Frame) : (s.tear d t n fr).startCause = s.startCause := rfl
@[simp] theorem State.tear_plugs (s : State) (d : DriveId) (t : Track) (n : Nat) (fr : Frame) : (s.tear d t n fr).plugs = s.plugs := rfl
@[simp] theorem State.tear_drives (s : State) (d : DriveId) (t : Track) (n : Nat) (fr : Frame) : (s.tear d t n fr).drives = s.drives := rfl
@[simp] theorem State.tear_ports (s : State) (d : DriveId) (t : Track) (n : Nat) (fr : Frame) : (s.tear d t n fr).ports = s.ports := rfl
@[simp] theorem State.tear_path (s : State) (d : DriveId) (t : Track) (n : Nat) (fr : Frame) : (s.tear d t n fr).path = s.path := rfl
@[simp] theorem State.tear_ring (s : State) (d : DriveId) (t : Track) (n : Nat) (fr : Frame) : (s.tear d t n fr).ring = s.ring := rfl
@[simp] theorem State.tear_wslots (s : State) (d : DriveId) (t : Track) (n : Nat) (fr : Frame) : (s.tear d t n fr).wslots = s.wslots := rfl
@[simp] theorem State.tear_waitList (s : State) (d : DriveId) (t : Track) (n : Nat) (fr : Frame) : (s.tear d t n fr).waitList = s.waitList := rfl
@[simp] theorem State.tear_watch (s : State) (d : DriveId) (t : Track) (n : Nat) (fr : Frame) : (s.tear d t n fr).watch = s.watch := rfl
@[simp] theorem State.tear_reassign (s : State) (d : DriveId) (t : Track) (n : Nat) (fr : Frame) : (s.tear d t n fr).reassign = s.reassign := rfl
@[simp] theorem State.tear_verify (s : State) (d : DriveId) (t : Track) (n : Nat) (fr : Frame) : (s.tear d t n fr).verify = s.verify := rfl
@[simp] theorem State.tear_watchOverflows (s : State) (d : DriveId) (t : Track) (n : Nat) (fr : Frame) : (s.tear d t n fr).watchOverflows = s.watchOverflows := rfl
@[simp] theorem State.tear_nextOid (s : State) (d : DriveId) (t : Track) (n : Nat) (fr : Frame) : (s.tear d t n fr).nextOid = s.nextOid := rfl
@[simp] theorem State.tear_closing (s : State) (d : DriveId) (t : Track) (n : Nat) (fr : Frame) : (s.tear d t n fr).closing = s.closing := rfl
@[simp] theorem State.tear_pending (s : State) (d : DriveId) (t : Track) (n : Nat) (fr : Frame) : (s.tear d t n fr).pending = s.pending := rfl
@[simp] theorem State.tear_cuts (s : State) (d : DriveId) (t : Track) (n : Nat) (fr : Frame) : (s.tear d t n fr).cuts = s.cuts + 1 := rfl
@[simp] theorem State.tear_media (s : State) (d : DriveId) (t : Track) (n : Nat) (fr : Frame) :
    (s.tear d t n fr).media = mediaPut s.media (mediaKey d t n) (tornFrame (Config.headerLaid s.cuts) fr) := rfl

@[simp] theorem State.release_powered (s : State) : (s.release).powered = s.powered := rfl
@[simp] theorem State.release_clock (s : State) : (s.release).clock = s.clock := rfl
@[simp] theorem State.release_startCause (s : State) : (s.release).startCause = s.startCause := rfl
@[simp] theorem State.release_plugs (s : State) : (s.release).plugs = s.plugs := rfl
@[simp] theorem State.release_drives (s : State) : (s.release).drives = s.drives := rfl
@[simp] theorem State.release_ports (s : State) : (s.release).ports = s.ports := rfl
@[simp] theorem State.release_ring (s : State) : (s.release).ring = s.ring := rfl
@[simp] theorem State.release_wslots (s : State) : (s.release).wslots = s.wslots := rfl
@[simp] theorem State.release_waitList (s : State) : (s.release).waitList = s.waitList := rfl
@[simp] theorem State.release_watch (s : State) : (s.release).watch = s.watch := rfl
@[simp] theorem State.release_reassign (s : State) : (s.release).reassign = s.reassign := rfl
@[simp] theorem State.release_verify (s : State) : (s.release).verify = s.verify := rfl
@[simp] theorem State.release_watchOverflows (s : State) : (s.release).watchOverflows = s.watchOverflows := rfl
@[simp] theorem State.release_media (s : State) : (s.release).media = s.media := rfl
@[simp] theorem State.release_cuts (s : State) : (s.release).cuts = s.cuts := rfl
@[simp] theorem State.release_nextOid (s : State) : (s.release).nextOid = s.nextOid := rfl
@[simp] theorem State.release_closing (s : State) : (s.release).closing = s.closing := rfl
@[simp] theorem State.release_pending (s : State) : (s.release).pending = s.pending := rfl

@[simp] theorem State.setRun_powered (s : State) (l : List RingSlot) : (s.setRun l).powered = s.powered := rfl
@[simp] theorem State.setRun_clock (s : State) (l : List RingSlot) : (s.setRun l).clock = s.clock := rfl
@[simp] theorem State.setRun_startCause (s : State) (l : List RingSlot) : (s.setRun l).startCause = s.startCause := rfl
@[simp] theorem State.setRun_plugs (s : State) (l : List RingSlot) : (s.setRun l).plugs = s.plugs := rfl
@[simp] theorem State.setRun_drives (s : State) (l : List RingSlot) : (s.setRun l).drives = s.drives := rfl
@[simp] theorem State.setRun_ports (s : State) (l : List RingSlot) : (s.setRun l).ports = s.ports := rfl
@[simp] theorem State.setRun_path (s : State) (l : List RingSlot) : (s.setRun l).path = s.path := rfl
@[simp] theorem State.setRun_wslots (s : State) (l : List RingSlot) : (s.setRun l).wslots = s.wslots := rfl
@[simp] theorem State.setRun_waitList (s : State) (l : List RingSlot) : (s.setRun l).waitList = s.waitList := rfl
@[simp] theorem State.setRun_watch (s : State) (l : List RingSlot) : (s.setRun l).watch = s.watch := rfl
@[simp] theorem State.setRun_reassign (s : State) (l : List RingSlot) : (s.setRun l).reassign = s.reassign := rfl
@[simp] theorem State.setRun_verify (s : State) (l : List RingSlot) : (s.setRun l).verify = s.verify := rfl
@[simp] theorem State.setRun_watchOverflows (s : State) (l : List RingSlot) : (s.setRun l).watchOverflows = s.watchOverflows := rfl
@[simp] theorem State.setRun_media (s : State) (l : List RingSlot) : (s.setRun l).media = s.media := rfl
@[simp] theorem State.setRun_cuts (s : State) (l : List RingSlot) : (s.setRun l).cuts = s.cuts := rfl
@[simp] theorem State.setRun_nextOid (s : State) (l : List RingSlot) : (s.setRun l).nextOid = s.nextOid := rfl
@[simp] theorem State.setRun_closing (s : State) (l : List RingSlot) : (s.setRun l).closing = s.closing := rfl
@[simp] theorem State.setRun_pending (s : State) (l : List RingSlot) : (s.setRun l).pending = s.pending := rfl

@[simp] theorem State.setWslot_powered (s : State) (i : Fin 8) (w : WriteSlot) : (s.setWslot i w).powered = s.powered := rfl
@[simp] theorem State.setWslot_clock (s : State) (i : Fin 8) (w : WriteSlot) : (s.setWslot i w).clock = s.clock := rfl
@[simp] theorem State.setWslot_startCause (s : State) (i : Fin 8) (w : WriteSlot) : (s.setWslot i w).startCause = s.startCause := rfl
@[simp] theorem State.setWslot_plugs (s : State) (i : Fin 8) (w : WriteSlot) : (s.setWslot i w).plugs = s.plugs := rfl
@[simp] theorem State.setWslot_drives (s : State) (i : Fin 8) (w : WriteSlot) : (s.setWslot i w).drives = s.drives := rfl
@[simp] theorem State.setWslot_ports (s : State) (i : Fin 8) (w : WriteSlot) : (s.setWslot i w).ports = s.ports := rfl
@[simp] theorem State.setWslot_path (s : State) (i : Fin 8) (w : WriteSlot) : (s.setWslot i w).path = s.path := rfl
@[simp] theorem State.setWslot_ring (s : State) (i : Fin 8) (w : WriteSlot) : (s.setWslot i w).ring = s.ring := rfl
@[simp] theorem State.setWslot_waitList (s : State) (i : Fin 8) (w : WriteSlot) : (s.setWslot i w).waitList = s.waitList := rfl
@[simp] theorem State.setWslot_watch (s : State) (i : Fin 8) (w : WriteSlot) : (s.setWslot i w).watch = s.watch := rfl
@[simp] theorem State.setWslot_reassign (s : State) (i : Fin 8) (w : WriteSlot) : (s.setWslot i w).reassign = s.reassign := rfl
@[simp] theorem State.setWslot_verify (s : State) (i : Fin 8) (w : WriteSlot) : (s.setWslot i w).verify = s.verify := rfl
@[simp] theorem State.setWslot_watchOverflows (s : State) (i : Fin 8) (w : WriteSlot) : (s.setWslot i w).watchOverflows = s.watchOverflows := rfl
@[simp] theorem State.setWslot_media (s : State) (i : Fin 8) (w : WriteSlot) : (s.setWslot i w).media = s.media := rfl
@[simp] theorem State.setWslot_cuts (s : State) (i : Fin 8) (w : WriteSlot) : (s.setWslot i w).cuts = s.cuts := rfl
@[simp] theorem State.setWslot_nextOid (s : State) (i : Fin 8) (w : WriteSlot) : (s.setWslot i w).nextOid = s.nextOid := rfl
@[simp] theorem State.setWslot_closing (s : State) (i : Fin 8) (w : WriteSlot) : (s.setWslot i w).closing = s.closing := rfl
@[simp] theorem State.setWslot_pending (s : State) (i : Fin 8) (w : WriteSlot) : (s.setWslot i w).pending = s.pending := rfl

@[simp] theorem State.setSlot_powered (s : State) (i : Nat) (w : WatchSlot) : (s.setSlot i w).powered = s.powered := rfl
@[simp] theorem State.setSlot_clock (s : State) (i : Nat) (w : WatchSlot) : (s.setSlot i w).clock = s.clock := rfl
@[simp] theorem State.setSlot_startCause (s : State) (i : Nat) (w : WatchSlot) : (s.setSlot i w).startCause = s.startCause := rfl
@[simp] theorem State.setSlot_plugs (s : State) (i : Nat) (w : WatchSlot) : (s.setSlot i w).plugs = s.plugs := rfl
@[simp] theorem State.setSlot_drives (s : State) (i : Nat) (w : WatchSlot) : (s.setSlot i w).drives = s.drives := rfl
@[simp] theorem State.setSlot_ports (s : State) (i : Nat) (w : WatchSlot) : (s.setSlot i w).ports = s.ports := rfl
@[simp] theorem State.setSlot_path (s : State) (i : Nat) (w : WatchSlot) : (s.setSlot i w).path = s.path := rfl
@[simp] theorem State.setSlot_ring (s : State) (i : Nat) (w : WatchSlot) : (s.setSlot i w).ring = s.ring := rfl
@[simp] theorem State.setSlot_wslots (s : State) (i : Nat) (w : WatchSlot) : (s.setSlot i w).wslots = s.wslots := rfl
@[simp] theorem State.setSlot_waitList (s : State) (i : Nat) (w : WatchSlot) : (s.setSlot i w).waitList = s.waitList := rfl
@[simp] theorem State.setSlot_reassign (s : State) (i : Nat) (w : WatchSlot) : (s.setSlot i w).reassign = s.reassign := rfl
@[simp] theorem State.setSlot_verify (s : State) (i : Nat) (w : WatchSlot) : (s.setSlot i w).verify = s.verify := rfl
@[simp] theorem State.setSlot_watchOverflows (s : State) (i : Nat) (w : WatchSlot) : (s.setSlot i w).watchOverflows = s.watchOverflows := rfl
@[simp] theorem State.setSlot_media (s : State) (i : Nat) (w : WatchSlot) : (s.setSlot i w).media = s.media := rfl
@[simp] theorem State.setSlot_cuts (s : State) (i : Nat) (w : WatchSlot) : (s.setSlot i w).cuts = s.cuts := rfl
@[simp] theorem State.setSlot_nextOid (s : State) (i : Nat) (w : WatchSlot) : (s.setSlot i w).nextOid = s.nextOid := rfl
@[simp] theorem State.setSlot_closing (s : State) (i : Nat) (w : WatchSlot) : (s.setSlot i w).closing = s.closing := rfl
@[simp] theorem State.setSlot_pending (s : State) (i : Nat) (w : WatchSlot) : (s.setSlot i w).pending = s.pending := rfl

@[simp] theorem State.setEngine_powered (s : State) (r : ReassignEngine) : (s.setEngine r).powered = s.powered := rfl
@[simp] theorem State.setEngine_clock (s : State) (r : ReassignEngine) : (s.setEngine r).clock = s.clock := rfl
@[simp] theorem State.setEngine_startCause (s : State) (r : ReassignEngine) : (s.setEngine r).startCause = s.startCause := rfl
@[simp] theorem State.setEngine_plugs (s : State) (r : ReassignEngine) : (s.setEngine r).plugs = s.plugs := rfl
@[simp] theorem State.setEngine_drives (s : State) (r : ReassignEngine) : (s.setEngine r).drives = s.drives := rfl
@[simp] theorem State.setEngine_ports (s : State) (r : ReassignEngine) : (s.setEngine r).ports = s.ports := rfl
@[simp] theorem State.setEngine_path (s : State) (r : ReassignEngine) : (s.setEngine r).path = s.path := rfl
@[simp] theorem State.setEngine_ring (s : State) (r : ReassignEngine) : (s.setEngine r).ring = s.ring := rfl
@[simp] theorem State.setEngine_wslots (s : State) (r : ReassignEngine) : (s.setEngine r).wslots = s.wslots := rfl
@[simp] theorem State.setEngine_waitList (s : State) (r : ReassignEngine) : (s.setEngine r).waitList = s.waitList := rfl
@[simp] theorem State.setEngine_watch (s : State) (r : ReassignEngine) : (s.setEngine r).watch = s.watch := rfl
@[simp] theorem State.setEngine_verify (s : State) (r : ReassignEngine) : (s.setEngine r).verify = s.verify := rfl
@[simp] theorem State.setEngine_watchOverflows (s : State) (r : ReassignEngine) : (s.setEngine r).watchOverflows = s.watchOverflows := rfl
@[simp] theorem State.setEngine_media (s : State) (r : ReassignEngine) : (s.setEngine r).media = s.media := rfl
@[simp] theorem State.setEngine_cuts (s : State) (r : ReassignEngine) : (s.setEngine r).cuts = s.cuts := rfl
@[simp] theorem State.setEngine_nextOid (s : State) (r : ReassignEngine) : (s.setEngine r).nextOid = s.nextOid := rfl
@[simp] theorem State.setEngine_closing (s : State) (r : ReassignEngine) : (s.setEngine r).closing = s.closing := rfl
@[simp] theorem State.setEngine_pending (s : State) (r : ReassignEngine) : (s.setEngine r).pending = s.pending := rfl

@[simp] theorem State.setWatch_powered (s : State) (i : Nat) (e : WatchEntry) : (s.setWatch i e).powered = s.powered := rfl
@[simp] theorem State.setWatch_clock (s : State) (i : Nat) (e : WatchEntry) : (s.setWatch i e).clock = s.clock := rfl
@[simp] theorem State.setWatch_startCause (s : State) (i : Nat) (e : WatchEntry) : (s.setWatch i e).startCause = s.startCause := rfl
@[simp] theorem State.setWatch_plugs (s : State) (i : Nat) (e : WatchEntry) : (s.setWatch i e).plugs = s.plugs := rfl
@[simp] theorem State.setWatch_drives (s : State) (i : Nat) (e : WatchEntry) : (s.setWatch i e).drives = s.drives := rfl
@[simp] theorem State.setWatch_ports (s : State) (i : Nat) (e : WatchEntry) : (s.setWatch i e).ports = s.ports := rfl
@[simp] theorem State.setWatch_path (s : State) (i : Nat) (e : WatchEntry) : (s.setWatch i e).path = s.path := rfl
@[simp] theorem State.setWatch_ring (s : State) (i : Nat) (e : WatchEntry) : (s.setWatch i e).ring = s.ring := rfl
@[simp] theorem State.setWatch_wslots (s : State) (i : Nat) (e : WatchEntry) : (s.setWatch i e).wslots = s.wslots := rfl
@[simp] theorem State.setWatch_waitList (s : State) (i : Nat) (e : WatchEntry) : (s.setWatch i e).waitList = s.waitList := rfl
@[simp] theorem State.setWatch_reassign (s : State) (i : Nat) (e : WatchEntry) : (s.setWatch i e).reassign = s.reassign := rfl
@[simp] theorem State.setWatch_verify (s : State) (i : Nat) (e : WatchEntry) : (s.setWatch i e).verify = s.verify := rfl
@[simp] theorem State.setWatch_watchOverflows (s : State) (i : Nat) (e : WatchEntry) : (s.setWatch i e).watchOverflows = s.watchOverflows := rfl
@[simp] theorem State.setWatch_media (s : State) (i : Nat) (e : WatchEntry) : (s.setWatch i e).media = s.media := rfl
@[simp] theorem State.setWatch_cuts (s : State) (i : Nat) (e : WatchEntry) : (s.setWatch i e).cuts = s.cuts := rfl
@[simp] theorem State.setWatch_nextOid (s : State) (i : Nat) (e : WatchEntry) : (s.setWatch i e).nextOid = s.nextOid := rfl
@[simp] theorem State.setWatch_closing (s : State) (i : Nat) (e : WatchEntry) : (s.setWatch i e).closing = s.closing := rfl
@[simp] theorem State.setWatch_pending (s : State) (i : Nat) (e : WatchEntry) : (s.setWatch i e).pending = s.pending := rfl

@[simp] theorem State.overflowWatch_powered (s : State) : (s.overflowWatch).powered = s.powered := rfl
@[simp] theorem State.overflowWatch_clock (s : State) : (s.overflowWatch).clock = s.clock := rfl
@[simp] theorem State.overflowWatch_startCause (s : State) : (s.overflowWatch).startCause = s.startCause := rfl
@[simp] theorem State.overflowWatch_plugs (s : State) : (s.overflowWatch).plugs = s.plugs := rfl
@[simp] theorem State.overflowWatch_drives (s : State) : (s.overflowWatch).drives = s.drives := rfl
@[simp] theorem State.overflowWatch_ports (s : State) : (s.overflowWatch).ports = s.ports := rfl
@[simp] theorem State.overflowWatch_path (s : State) : (s.overflowWatch).path = s.path := rfl
@[simp] theorem State.overflowWatch_ring (s : State) : (s.overflowWatch).ring = s.ring := rfl
@[simp] theorem State.overflowWatch_wslots (s : State) : (s.overflowWatch).wslots = s.wslots := rfl
@[simp] theorem State.overflowWatch_waitList (s : State) : (s.overflowWatch).waitList = s.waitList := rfl
@[simp] theorem State.overflowWatch_watch (s : State) : (s.overflowWatch).watch = s.watch := rfl
@[simp] theorem State.overflowWatch_reassign (s : State) : (s.overflowWatch).reassign = s.reassign := rfl
@[simp] theorem State.overflowWatch_verify (s : State) : (s.overflowWatch).verify = s.verify := rfl
@[simp] theorem State.overflowWatch_media (s : State) : (s.overflowWatch).media = s.media := rfl
@[simp] theorem State.overflowWatch_cuts (s : State) : (s.overflowWatch).cuts = s.cuts := rfl
@[simp] theorem State.overflowWatch_nextOid (s : State) : (s.overflowWatch).nextOid = s.nextOid := rfl
@[simp] theorem State.overflowWatch_closing (s : State) : (s.overflowWatch).closing = s.closing := rfl
@[simp] theorem State.overflowWatch_pending (s : State) : (s.overflowWatch).pending = s.pending := rfl

@[simp] theorem State.engineFree_powered (s : State) : (s.engineFree).powered = s.powered := rfl
@[simp] theorem State.engineFree_clock (s : State) : (s.engineFree).clock = s.clock := rfl
@[simp] theorem State.engineFree_startCause (s : State) : (s.engineFree).startCause = s.startCause := rfl
@[simp] theorem State.engineFree_plugs (s : State) : (s.engineFree).plugs = s.plugs := rfl
@[simp] theorem State.engineFree_drives (s : State) : (s.engineFree).drives = s.drives := rfl
@[simp] theorem State.engineFree_ports (s : State) : (s.engineFree).ports = s.ports := rfl
@[simp] theorem State.engineFree_path (s : State) : (s.engineFree).path = s.path := rfl
@[simp] theorem State.engineFree_ring (s : State) : (s.engineFree).ring = s.ring := rfl
@[simp] theorem State.engineFree_wslots (s : State) : (s.engineFree).wslots = s.wslots := rfl
@[simp] theorem State.engineFree_waitList (s : State) : (s.engineFree).waitList = s.waitList := rfl
@[simp] theorem State.engineFree_watch (s : State) : (s.engineFree).watch = s.watch := rfl
@[simp] theorem State.engineFree_verify (s : State) : (s.engineFree).verify = s.verify := rfl
@[simp] theorem State.engineFree_watchOverflows (s : State) : (s.engineFree).watchOverflows = s.watchOverflows := rfl
@[simp] theorem State.engineFree_media (s : State) : (s.engineFree).media = s.media := rfl
@[simp] theorem State.engineFree_cuts (s : State) : (s.engineFree).cuts = s.cuts := rfl
@[simp] theorem State.engineFree_nextOid (s : State) : (s.engineFree).nextOid = s.nextOid := rfl
@[simp] theorem State.engineFree_closing (s : State) : (s.engineFree).closing = s.closing := rfl
@[simp] theorem State.engineFree_pending (s : State) : (s.engineFree).pending = s.pending := rfl

@[simp] theorem State.setPlace_powered (s : State) (i : Nat) (b : BufPlace) : (s.setPlace i b).powered = s.powered := rfl
@[simp] theorem State.setPlace_clock (s : State) (i : Nat) (b : BufPlace) : (s.setPlace i b).clock = s.clock := rfl
@[simp] theorem State.setPlace_startCause (s : State) (i : Nat) (b : BufPlace) : (s.setPlace i b).startCause = s.startCause := rfl
@[simp] theorem State.setPlace_plugs (s : State) (i : Nat) (b : BufPlace) : (s.setPlace i b).plugs = s.plugs := rfl
@[simp] theorem State.setPlace_drives (s : State) (i : Nat) (b : BufPlace) : (s.setPlace i b).drives = s.drives := rfl
@[simp] theorem State.setPlace_ports (s : State) (i : Nat) (b : BufPlace) : (s.setPlace i b).ports = s.ports := rfl
@[simp] theorem State.setPlace_path (s : State) (i : Nat) (b : BufPlace) : (s.setPlace i b).path = s.path := rfl
@[simp] theorem State.setPlace_ring (s : State) (i : Nat) (b : BufPlace) : (s.setPlace i b).ring = s.ring := rfl
@[simp] theorem State.setPlace_wslots (s : State) (i : Nat) (b : BufPlace) : (s.setPlace i b).wslots = s.wslots := rfl
@[simp] theorem State.setPlace_waitList (s : State) (i : Nat) (b : BufPlace) : (s.setPlace i b).waitList = s.waitList := rfl
@[simp] theorem State.setPlace_watch (s : State) (i : Nat) (b : BufPlace) : (s.setPlace i b).watch = s.watch := rfl
@[simp] theorem State.setPlace_verify (s : State) (i : Nat) (b : BufPlace) : (s.setPlace i b).verify = s.verify := rfl
@[simp] theorem State.setPlace_watchOverflows (s : State) (i : Nat) (b : BufPlace) : (s.setPlace i b).watchOverflows = s.watchOverflows := rfl
@[simp] theorem State.setPlace_media (s : State) (i : Nat) (b : BufPlace) : (s.setPlace i b).media = s.media := rfl
@[simp] theorem State.setPlace_cuts (s : State) (i : Nat) (b : BufPlace) : (s.setPlace i b).cuts = s.cuts := rfl
@[simp] theorem State.setPlace_nextOid (s : State) (i : Nat) (b : BufPlace) : (s.setPlace i b).nextOid = s.nextOid := rfl
@[simp] theorem State.setPlace_closing (s : State) (i : Nat) (b : BufPlace) : (s.setPlace i b).closing = s.closing := rfl
@[simp] theorem State.setPlace_pending (s : State) (i : Nat) (b : BufPlace) : (s.setPlace i b).pending = s.pending := rfl

end Sys2Proof.Machine
end

