-- ==== Sys2Proof/Laws/Base.lean ====
section
/-! SUPPORT. What the start of a drive's work leaves unchanged. `State.base` forgets the parts such a start may change (the
volatile parts of drives and orders, the notices, the watch list, the two engines); every operation that starts work keeps it,
and keeps every other drive whole. -/

namespace Sys2Proof.Machine

/-! ## The parts kept -/

/-- An order without what selection and endings change. -/
def Order.base (o : Order) : Order :=
  { o with passOver := 0, state := .queued, failing := none, result := none, bound := false }

/-- A port without what endings and events change. -/
def PortCtl.base (c : PortCtl) : PortCtl := { c with slots := c.slots.map (Option.map Order.base), notices := Oct.all 0 }

/-- A drive without what its sequencer changes when it starts work. -/
def Drive.base (x : Drive) : Drive :=
  { x with
    queue := [], pendRecal := false, pendLoad := false, pendWrite := false, pendReassign := false, cur := none,
    sweepIn := true, headSel := 0, request := false, chan := Channel.initial Profile.initial, spare := [], pool := [],
    mapState := .clean, tally := DriveTallies.zero }

/-- The state without those parts. -/
def State.base (s : State) : State :=
  { s with
    drives := s.drives.map Drive.base, ports := s.ports.map PortCtl.base, closing := [], watch := [],
    reassign := ReassignEngine.initial, verify := VerifyEngine.initial }

/-! ## The elementary updates -/

theorem State.base_modDrive (s : State) (d : DriveId) (f : Drive → Drive) (h : (f (s.drive d)).base = (s.drive d).base) :
    (s.modDrive d f).base = s.base := by
  have h' : ((s.drives.set d (f (s.drives.get d))).map Drive.base) = s.drives.map Drive.base := by
    rw [Oct.map_set]
    have : (f (s.drives.get d)).base = (s.drives.map Drive.base).get d := by rw [Oct.get_map]; exact h
    rw [this, Oct.set_get]
  simp [State.base, State.modDrive, h']

theorem PortCtl.base_modOrder (c : PortCtl) (oid : Nat) (f : Order → Order) (h : ∀ o, (f o).base = o.base) :
    (c.modOrder oid f).base = c.base := by
  have : ∀ o : Option Order,
      ((o.map fun x => if x.oid = oid then f x else x).map Order.base) = o.map Order.base := by
    intro o
    cases o with
    | none => rfl
    | some x => by_cases hx : x.oid = oid <;> simp [hx, h]
  obtain ⟨⟨a, b, e, g⟩, _, _, _, _, _, _, _, _, _, _, _⟩ := c
  simp [PortCtl.base, PortCtl.modOrder, Quad.map, this]

theorem State.base_modOrder (s : State) (oid : Nat) (f : Order → Order) (h : ∀ o, (f o).base = o.base) :
    (s.modOrder oid f).base = s.base := by
  have : (s.ports.map fun c => c.modOrder oid f).map PortCtl.base = s.ports.map PortCtl.base :=
    Quad.ext_get fun p => by simp [PortCtl.base_modOrder _ _ _ h]
  simp [State.base, State.modOrder, this]

@[simp] theorem State.base_close (s : State) (oid : Nat) : (s.close oid).base = s.base := rfl

@[simp] theorem State.base_modVerify (s : State) (f : VerifyEngine → VerifyEngine) : (s.modVerify f).base = s.base := rfl

@[simp] theorem State.base_setWatch (s : State) (i : Nat) (e : WatchEntry) : (s.setWatch i e).base = s.base := rfl

@[simp] theorem State.base_setSlot (s : State) (i : Nat) (w : WatchSlot) : (s.setSlot i w).base = s.base := rfl

@[simp] theorem State.base_setEngine (s : State) (r : ReassignEngine) : (s.setEngine r).base = s.base := rfl

@[simp] theorem State.base_engineFree (s : State) : s.engineFree.base = s.base := rfl

@[simp] theorem PortCtl.base_addNotice (c : PortCtl) (d : DriveId) (kind : Byte) : (c.addNotice d kind).base = c.base := rfl

@[simp] theorem State.base_setNotice (s : State) (d : DriveId) (kind : Byte) : (s.setNotice d kind).base = s.base := rfl

@[simp] theorem State.base_modOp (s : State) (d : DriveId) (f : Op → Op) : (s.modOp d f).base = s.base :=
  State.base_modDrive s d _ rfl

@[simp] theorem State.base_setOp (s : State) (d : DriveId) (op : Op) : (s.setOp d op).base = s.base :=
  State.base_modDrive s d _ rfl

@[simp] theorem State.base_modChan (s : State) (d : DriveId) (f : Channel → Channel) : (s.modChan d f).base = s.base :=
  State.base_modDrive s d _ rfl

@[simp] theorem State.base_tallyDrive (s : State) (d : DriveId) (f : DriveTallies → DriveTallies) :
    (s.tallyDrive d f).base = s.base :=
  State.base_modDrive s d _ rfl

@[simp] theorem State.base_endOrder (s : State) (oid : Nat) (r : Result) : (s.endOrder oid r).base = s.base := by
  unfold State.endOrder
  split
  · rw [State.base_close, State.base_modOrder]
    intro o; split <;> rfl
  · rfl

theorem State.base_foldl {α : Type} (f : State → α → State) (hf : ∀ s a, (f s a).base = s.base) (l : List α) (s : State) :
    (l.foldl f s).base = s.base := by
  induction l generalizing s with
  | nil => rfl
  | cons a l ih => rw [List.foldl_cons, ih, hf]

@[simp] theorem State.base_endOrders (s : State) (d : DriveId) (q : Order → Bool) (r : Result) :
    (s.endOrders d q r).base = s.base :=
  State.base_foldl _ (fun _ _ => State.base_endOrder _ _ _) _ _

/-! ## The start of work -/

@[simp] theorem State.base_recalFor (s : State) (d : DriveId) (n : Option Nat) : (s.recalFor d n).base = s.base := by
  unfold State.recalFor
  split
  · simp
  · split <;> simp

/-- A SEEK reaches its cylinder and ends; every other operation goes on to its transfer. -/
@[simp] theorem State.base_reachTransfer (s : State) (d : DriveId) : (s.reachTransfer d).base = s.base := by
  unfold State.reachTransfer
  split
  · rfl
  · next op _ =>
    simp only
    split
    · next h =>
      rw [State.base_endOrder]
      unfold State.clearOp
      simp only [State.drive_modDrive_self, h, reduceCtorEq, if_false]
      refine (State.base_modDrive _ d _ rfl).trans ?_
      exact State.base_modDrive s d _ (by rfl)
    · exact State.base_modDrive _ _ _ (by rfl)

@[simp] theorem State.base_beginSeek (s : State) (d : DriveId) (t : Nat) (g : Goal) : (s.beginSeek d t g).base = s.base := by
  simp only [State.beginSeek, State.base_modOp, State.base_tallyDrive]
  exact State.base_modDrive _ _ _ (by rfl)

@[simp] theorem State.base_seekTo (s : State) (d : DriveId) (t : Nat) : (s.seekTo d t).base = s.base := by
  unfold State.seekTo
  dsimp only
  split
  · simp
  · split
    · split <;> simp
    · simp

@[simp] theorem State.base_bindCommits (s : State) (d : DriveId) : (s.bindCommits d).base = s.base :=
  State.base_foldl _ (fun _ _ => by refine State.base_modOrder _ _ _ ?_; intro _; rfl) _ _

@[simp] theorem State.base_startMapWrite (s : State) (d : DriveId) : (s.startMapWrite d).base = s.base := by
  unfold State.startMapWrite
  split
  · rfl
  · simp only [State.base_seekTo]
    rw [State.base_modDrive _ _ _ (by rfl), State.base_bindCommits]

@[simp] theorem State.base_startMapLoad (s : State) (d : DriveId) : (s.startMapLoad d).base = s.base := by
  unfold State.startMapLoad
  split <;> simp

@[simp] theorem State.base_countReassignFailure (s : State) (d : DriveId) : (s.countReassignFailure d).base = s.base := by
  simp [State.countReassignFailure]

@[simp] theorem State.base_reassignStuck (s : State) (d : DriveId) (i : Nat) (e : WatchEntry) :
    (s.reassignStuck d i e).base = s.base := by
  simp [State.reassignStuck, State.endWaiting]

theorem Drive.base_mapChanged (x : Drive) : x.mapChanged.base = x.base := rfl

theorem Drive.base_markTrack (x : Drive) (t : Track) (st : PoolState) : (x.markTrack t st).base = x.base := by
  unfold Drive.markTrack; split <;> rfl

theorem Drive.base_modEntry (x : Drive) (t : Track) (f : SpareEntry → SpareEntry) : (x.modEntry t f).base = x.base := rfl

theorem Drive.base_addEntry (x : Drive) (h a : Track) (p : Bool) (o : Origin) : (x.addEntry h a p o).base = x.base := by
  unfold Drive.addEntry; split <;> rfl

theorem Drive.base_beginSparing (x : Drive) (home : Track) (pos : Nat) : (x.beginSparing home pos).base = x.base := by
  unfold Drive.beginSparing
  dsimp only
  split
  · rw [Drive.base_addEntry, Drive.base_markTrack]
  · rw [Drive.base_modEntry, Drive.base_markTrack]

@[simp] theorem State.base_reassignBegin (s : State) (d : DriveId) (i : Nat) (e : WatchEntry) (pos : Nat) :
    (s.reassignBegin d i e pos).base = s.base := by
  unfold State.reassignBegin
  simp only [State.base_seekTo, State.base_setOp, State.base_setEngine, State.base_setSlot]
  refine State.base_modDrive s d _ ?_
  rw [Drive.base_mapChanged, Drive.base_beginSparing]

@[simp] theorem State.base_startReassign (s : State) (d : DriveId) : (s.startReassign d).base = s.base := by
  unfold State.startReassign
  split
  · split
    · simp
    · split <;> simp
  · rfl

@[simp] theorem State.base_startSurface (s : State) (d : DriveId) (p : Port) (o : Order) :
    (s.startSurface d p o).base = s.base := by
  unfold State.startSurface
  split
  · rfl
  · simp

@[simp] theorem State.base_startHost (s : State) (d : DriveId) (p : Port) (o : Order) : (s.startHost d p o).base = s.base := by
  simp [State.startHost]

@[simp] theorem State.base_passOver (s : State) (es : List (Port × Order)) (n : Nat) : (s.passOver es n).base = s.base :=
  State.base_foldl _ (fun _ _ => by refine State.base_modOrder _ _ _ ?_; intro _; rfl) _ _

@[simp] theorem State.base_takeEntry (s : State) (d : DriveId) (es : List (Port × Order)) (c : Choice) :
    (s.takeEntry d es c).base = s.base := by
  unfold State.takeEntry
  dsimp only
  split <;> simp only [State.base_startSurface, State.base_startHost] <;>
    rw [State.base_modOrder _ _ _ (by intro _; rfl), State.base_modDrive _ _ _ (by rfl)] <;> split <;> simp

@[simp] theorem State.base_startInternal (s : State) (d : DriveId) (k : OpKind) : (s.startInternal d k).base = s.base := by
  unfold State.startInternal
  split <;> simp <;> exact State.base_modDrive _ _ _ (by rfl)

/-- A selection keeps the base. -/
theorem State.base_select {s t : State} {d : DriveId} (h : s.select d = some t) : t.base = s.base := by
  unfold State.select at h
  split at h
  · cases h
  · split at h
    · cases h; simp
    · obtain ⟨c, _, rfl⟩ := Option.map_eq_some_iff.mp h
      simp

end Sys2Proof.Machine
end

