-- ==== Sys2Proof/Laws/Others.lean ====
section
/-! SUPPORT. A drive that starts work leaves every other drive whole. -/

namespace Sys2Proof.Machine

/-- The drives but for one. -/
def State.others (s : State) (d : DriveId) : Oct Drive := s.drives.set d Drive.initial

theorem State.drive_of_others {s t : State} {d e : DriveId} (h : t.others d = s.others d) (hne : e ≠ d) :
    t.drive e = s.drive e := by
  have := congrArg (fun o => o.get e) h
  simpa [State.others, State.drive, Oct.get_set_ne _ _ hne] using this

@[simp] theorem State.others_modDrive (s : State) (d : DriveId) (f : Drive → Drive) : (s.modDrive d f).others d = s.others d := by
  simp [State.others, State.modDrive]

@[simp] theorem State.others_modOrder (s : State) (d : DriveId) (oid : Nat) (f : Order → Order) :
    (s.modOrder oid f).others d = s.others d := rfl

@[simp] theorem State.others_close (s : State) (d : DriveId) (oid : Nat) : (s.close oid).others d = s.others d := rfl

@[simp] theorem State.others_setWatch (s : State) (d : DriveId) (i : Nat) (e : WatchEntry) :
    (s.setWatch i e).others d = s.others d := rfl

@[simp] theorem State.others_setSlot (s : State) (d : DriveId) (i : Nat) (w : WatchSlot) :
    (s.setSlot i w).others d = s.others d := rfl

@[simp] theorem State.others_setEngine (s : State) (d : DriveId) (r : ReassignEngine) :
    (s.setEngine r).others d = s.others d := rfl

@[simp] theorem State.others_modVerify (s : State) (d : DriveId) (f : VerifyEngine → VerifyEngine) :
    (s.modVerify f).others d = s.others d := rfl

@[simp] theorem State.others_engineFree (s : State) (d : DriveId) : s.engineFree.others d = s.others d := rfl

@[simp] theorem State.others_setNotice (s : State) (d e : DriveId) (kind : Byte) :
    (s.setNotice e kind).others d = s.others d := rfl

@[simp] theorem State.others_modOp (s : State) (d : DriveId) (f : Op → Op) : (s.modOp d f).others d = s.others d :=
  State.others_modDrive s d _

@[simp] theorem State.others_setOp (s : State) (d : DriveId) (op : Op) : (s.setOp d op).others d = s.others d :=
  State.others_modDrive s d _

@[simp] theorem State.others_modChan (s : State) (d : DriveId) (f : Channel → Channel) :
    (s.modChan d f).others d = s.others d :=
  State.others_modDrive s d _

@[simp] theorem State.others_tallyDrive (s : State) (d : DriveId) (f : DriveTallies → DriveTallies) :
    (s.tallyDrive d f).others d = s.others d :=
  State.others_modDrive s d _

@[simp] theorem State.others_endOrder (s : State) (d : DriveId) (oid : Nat) (r : Result) :
    (s.endOrder oid r).others d = s.others d := by
  unfold State.endOrder
  split <;> rfl

theorem State.others_foldl {α : Type} (d : DriveId) (f : State → α → State) (hf : ∀ s a, (f s a).others d = s.others d)
    (l : List α) (s : State) : (l.foldl f s).others d = s.others d := by
  induction l generalizing s with
  | nil => rfl
  | cons a l ih => rw [List.foldl_cons, ih, hf]

@[simp] theorem State.others_endOrders (s : State) (d e : DriveId) (q : Order → Bool) (r : Result) :
    (s.endOrders e q r).others d = s.others d :=
  State.others_foldl d _ (fun _ _ => State.others_endOrder _ _ _ _) _ _

@[simp] theorem State.others_recalFor (s : State) (d : DriveId) (n : Option Nat) : (s.recalFor d n).others d = s.others d := by
  unfold State.recalFor
  split
  · simp
  · split <;> simp

@[simp] theorem State.others_clearOp (s : State) (d : DriveId) : (s.clearOp d).others d = s.others d := by
  unfold State.clearOp
  simp only [State.others_modDrive]
  split
  · split <;> rfl
  · rfl

@[simp] theorem State.others_reachTransfer (s : State) (d : DriveId) : (s.reachTransfer d).others d = s.others d := by
  unfold State.reachTransfer
  split
  · rfl
  · simp only
    split <;> simp

@[simp] theorem State.others_beginSeek (s : State) (d : DriveId) (t : Nat) (g : Goal) :
    (s.beginSeek d t g).others d = s.others d := by
  simp [State.beginSeek]

@[simp] theorem State.others_seekTo (s : State) (d : DriveId) (t : Nat) : (s.seekTo d t).others d = s.others d := by
  unfold State.seekTo
  dsimp only
  split
  · simp
  · split
    · split <;> simp
    · simp

@[simp] theorem State.others_bindCommits (s : State) (d : DriveId) : (s.bindCommits d).others d = s.others d :=
  State.others_foldl d _ (fun _ _ => State.others_modOrder _ _ _ _) _ _

@[simp] theorem State.others_startMapWrite (s : State) (d : DriveId) : (s.startMapWrite d).others d = s.others d := by
  unfold State.startMapWrite
  split <;> simp

@[simp] theorem State.others_startMapLoad (s : State) (d : DriveId) : (s.startMapLoad d).others d = s.others d := by
  unfold State.startMapLoad
  split <;> simp

@[simp] theorem State.others_reassignStuck (s : State) (d : DriveId) (i : Nat) (e : WatchEntry) :
    (s.reassignStuck d i e).others d = s.others d := by
  simp [State.reassignStuck, State.endWaiting, State.countReassignFailure]

@[simp] theorem State.others_reassignBegin (s : State) (d : DriveId) (i : Nat) (e : WatchEntry) (pos : Nat) :
    (s.reassignBegin d i e pos).others d = s.others d := by
  simp [State.reassignBegin]

@[simp] theorem State.others_startReassign (s : State) (d : DriveId) : (s.startReassign d).others d = s.others d := by
  unfold State.startReassign
  split
  · split
    · simp
    · split <;> simp
  · rfl

@[simp] theorem State.others_startSurface (s : State) (d : DriveId) (p : Port) (o : Order) :
    (s.startSurface d p o).others d = s.others d := by
  unfold State.startSurface
  split
  · rfl
  · simp

@[simp] theorem State.others_startHost (s : State) (d : DriveId) (p : Port) (o : Order) :
    (s.startHost d p o).others d = s.others d := by
  simp [State.startHost]

@[simp] theorem State.others_passOver (s : State) (d : DriveId) (es : List (Port × Order)) (n : Nat) :
    (s.passOver es n).others d = s.others d :=
  State.others_foldl d _ (fun _ _ => State.others_modOrder _ _ _ _) _ _

@[simp] theorem State.others_takeEntry (s : State) (d : DriveId) (es : List (Port × Order)) (c : Choice) :
    (s.takeEntry d es c).others d = s.others d := by
  unfold State.takeEntry
  dsimp only
  split <;> simp <;> split <;> simp

@[simp] theorem State.others_startInternal (s : State) (d : DriveId) (k : OpKind) :
    (s.startInternal d k).others d = s.others d := by
  unfold State.startInternal
  split <;> simp

theorem State.others_select {s t : State} {d : DriveId} (h : s.select d = some t) : t.others d = s.others d := by
  unfold State.select at h
  split at h
  · cases h
  · split at h
    · cases h; simp
    · obtain ⟨c, _, rfl⟩ := Option.map_eq_some_iff.mp h
      simp

/-! ## A motion left running -/

@[simp] theorem State.drive_modOrder (s : State) (d : DriveId) (oid : Nat) (f : Order → Order) :
    (s.modOrder oid f).drive d = s.drive d := rfl

@[simp] theorem State.drive_endOrder (s : State) (d : DriveId) (oid : Nat) (r : Result) :
    (s.endOrder oid r).drive d = s.drive d := by
  unfold State.endOrder
  split <;> rfl

theorem State.drive_foldl {α : Type} (d : DriveId) (f : State → α → State) (hf : ∀ s a, (f s a).drive d = s.drive d)
    (l : List α) (s : State) : (l.foldl f s).drive d = s.drive d := by
  induction l generalizing s with
  | nil => rfl
  | cons a l ih => rw [List.foldl_cons, ih, hf]

@[simp] theorem State.drive_endOrders (s : State) (d e : DriveId) (q : Order → Bool) (r : Result) :
    (s.endOrders e q r).drive d = s.drive d :=
  State.drive_foldl d _ (fun _ _ => State.drive_endOrder _ _ _ _) _ _

@[simp] theorem State.drive_bindCommits (s : State) (d e : DriveId) : (s.bindCommits e).drive d = s.drive d :=
  State.drive_foldl d _ (fun _ _ => State.drive_modOrder _ _ _ _) _ _

@[simp] theorem State.drive_passOver (s : State) (d : DriveId) (es : List (Port × Order)) (n : Nat) :
    (s.passOver es n).drive d = s.drive d :=
  State.drive_foldl d _ (fun _ _ => State.drive_modOrder _ _ _ _) _ _

@[simp] theorem State.drive_modVerify (s : State) (d : DriveId) (f : VerifyEngine → VerifyEngine) :
    (s.modVerify f).drive d = s.drive d := rfl

@[simp] theorem State.drive_setSlot (s : State) (d : DriveId) (i : Nat) (w : WatchSlot) :
    (s.setSlot i w).drive d = s.drive d := rfl

@[simp] theorem State.drive_setWatch (s : State) (d : DriveId) (i : Nat) (e : WatchEntry) :
    (s.setWatch i e).drive d = s.drive d := rfl

@[simp] theorem State.drive_setEngine (s : State) (d : DriveId) (r : ReassignEngine) :
    (s.setEngine r).drive d = s.drive d := rfl

@[simp] theorem State.drive_engineFree (s : State) (d : DriveId) : s.engineFree.drive d = s.drive d := rfl

@[simp] theorem State.drive_setNotice (s : State) (d e : DriveId) (kind : Byte) :
    (s.setNotice e kind).drive d = s.drive d := rfl

@[simp] theorem State.drive_tallyDrive (s : State) (d : DriveId) (f : DriveTallies → DriveTallies) :
    (s.tallyDrive d f).drive d = { s.drive d with tally := f (s.drive d).tally } :=
  State.drive_modDrive_self s d _

@[simp] theorem State.drive_setOp (s : State) (d : DriveId) (op : Op) :
    (s.setOp d op).drive d = { s.drive d with cur := some op } :=
  State.drive_modDrive_self s d _

@[simp] theorem State.drive_modOp (s : State) (d : DriveId) (f : Op → Op) :
    (s.modOp d f).drive d = { s.drive d with cur := (s.drive d).cur.map f } :=
  State.drive_modDrive_self s d _

/-- R29, R105: a request to a channel in flight waits at the sequencer and leaves the channel as it is. -/
theorem State.chan_seekTo {s : State} {d : DriveId} (t : Nat) (h : (s.drive d).chan.phase.inFlight = true) :
    ((s.seekTo d t).drive d).chan = (s.drive d).chan := by
  simp [State.seekTo, h]

theorem State.chan_recalFor {s : State} {d : DriveId} (n : Option Nat) (h : (s.drive d).chan.phase.inFlight = true) :
    ((s.recalFor d n).drive d).chan = (s.drive d).chan := by
  simp [State.recalFor, h]

theorem State.chan_startHost {s : State} {d : DriveId} (p : Port) (o : Order)
    (h : (s.drive d).chan.phase.inFlight = true) : ((s.startHost d p o).drive d).chan = (s.drive d).chan := by
  unfold State.startHost
  exact (State.chan_seekTo _ (by simpa using h)).trans (by simp)

theorem State.chan_startSurface {s : State} {d : DriveId} (p : Port) (o : Order)
    (h : (s.drive d).chan.phase.inFlight = true) : ((s.startSurface d p o).drive d).chan = (s.drive d).chan := by
  unfold State.startSurface
  split
  · rfl
  · exact (State.chan_seekTo _ (by simpa using h)).trans (by simp)

theorem State.chan_startMapLoad {s : State} {d : DriveId} (h : (s.drive d).chan.phase.inFlight = true) :
    ((s.startMapLoad d).drive d).chan = (s.drive d).chan := by
  unfold State.startMapLoad
  split
  · rfl
  · exact (State.chan_seekTo _ (by simpa using h)).trans (by simp)

theorem State.chan_startMapWrite {s : State} {d : DriveId} (h : (s.drive d).chan.phase.inFlight = true) :
    ((s.startMapWrite d).drive d).chan = (s.drive d).chan := by
  unfold State.startMapWrite
  split
  · rfl
  · exact (State.chan_seekTo _ (by simpa using h)).trans (by simp)

theorem Drive.chan_beginSparing (x : Drive) (home : Track) (pos : Nat) : (x.beginSparing home pos).chan = x.chan := by
  unfold Drive.beginSparing Drive.markTrack Drive.addEntry Drive.modEntry
  dsimp only
  split <;> split <;> first | rfl | (split <;> rfl)

theorem State.chan_startReassign {s : State} {d : DriveId} (h : (s.drive d).chan.phase.inFlight = true) :
    ((s.startReassign d).drive d).chan = (s.drive d).chan := by
  unfold State.startReassign
  split
  · split
    · rfl
    · split
      · simp [State.reassignStuck, State.endWaiting, State.countReassignFailure]
      · refine (State.chan_seekTo _ ?_).trans ?_ <;> simp [Drive.mapChanged, Drive.chan_beginSparing, h]
  · rfl

theorem State.chan_startInternal {s : State} {d : DriveId} (k : OpKind) (h : (s.drive d).chan.phase.inFlight = true) :
    ((s.startInternal d k).drive d).chan = (s.drive d).chan := by
  unfold State.startInternal
  cases k with
  | recalibrate => exact (State.chan_recalFor _ (by simpa using h)).trans (by simp)
  | mapLoad => exact (State.chan_startMapLoad (by simpa using h)).trans (by simp)
  | mapWrite => exact (State.chan_startMapWrite (by simpa using h)).trans (by simp)
  | reassign => exact (State.chan_startReassign (by simpa using h)).trans (by simp)
  | _ => rfl

theorem State.chan_takeEntry {s : State} {d : DriveId} (es : List (Port × Order)) (c : Choice)
    (h : (s.drive d).chan.phase.inFlight = true) : ((s.takeEntry d es c).drive d).chan = (s.drive d).chan := by
  have hp : ∀ b : Bool, ((if b then s.passOver es c.entry.2.oid else s).drive d) = s.drive d := by
    intro b; cases b <;> simp
  unfold State.takeEntry
  dsimp only
  split
  · refine (State.chan_startSurface _ _ ?_).trans ?_ <;> simp [hp, h]
  · refine (State.chan_startHost _ _ ?_).trans ?_ <;> simp [hp, h]

/-- R29, R105: a selection leaves a channel in flight as it is. -/
theorem State.chan_select {s t : State} {d : DriveId} (hs : s.select d = some t)
    (h : (s.drive d).chan.phase.inFlight = true) : (t.drive d).chan = (s.drive d).chan := by
  unfold State.select at hs
  split at hs
  · cases hs
  · split at hs
    · cases hs; exact State.chan_startInternal _ h
    · obtain ⟨c, _, rfl⟩ := Option.map_eq_some_iff.mp hs
      exact State.chan_takeEntry _ _ h

end Sys2Proof.Machine
end

