-- ==== Sys2Proof/Laws/Settle.lean ====
section
/-! SUPPORT. What the immediate actions leave unchanged, said once for `settle`: the core of the state, fixed results, the frames
to be sent, a busy drive, a channel in flight, filled places and the empty slots of the watch list. -/

namespace Sys2Proof.Machine

/-! ## The core -/

/-- A port's part no immediate action changes. -/
def PortCtl.shed (c : PortCtl) : PortCtl :=
  { c with replies := [], endings := [], dataReqs := [], sending := none, offered := none }

/-- A drive's part no immediate action changes. -/
def Drive.shed (x : Drive) : Drive :=
  { x with lastIndex := none, qual := 0, state := .absent, spinFrom := 0, mapHeld := false }

/-- The base without what the immediate actions change beyond the start of work. -/
def State.shed (s : State) : State :=
  { s with
    drives := s.drives.map Drive.shed, ports := s.ports.map PortCtl.shed, path := DataPath.initial, ring := Ring.initial,
    wslots := Oct.all WriteSlot.free, waitList := [] }

/-- The part of the state no immediate action changes. -/
def State.core (s : State) : State := s.base.shed

theorem State.core_of_base {s t : State} (h : t.base = s.base) : t.core = s.core := by
  simp [State.core, h]

theorem State.core_modDrive (s : State) (d : DriveId) (f : Drive → Drive)
    (h : (f (s.drive d)).base.shed = (s.drive d).base.shed) : (s.modDrive d f).core = s.core := by
  have h' : ((s.drives.set d (f (s.drives.get d))).map Drive.base).map Drive.shed = (s.drives.map Drive.base).map Drive.shed := by
    rw [Oct.map_set, Oct.map_set]
    have : (f (s.drives.get d)).base.shed = ((s.drives.map Drive.base).map Drive.shed).get d := by
      rw [Oct.get_map, Oct.get_map]; exact h
    rw [this, Oct.set_get]
  simp [State.core, State.base, State.shed, State.modDrive, h']

theorem State.core_modPort (s : State) (p : Port) (f : PortCtl → PortCtl)
    (h : (f (s.port p)).base.shed = (s.port p).base.shed) : (s.modPort p f).core = s.core := by
  have h' : ((s.ports.set p (f (s.ports.get p))).map PortCtl.base).map PortCtl.shed =
      (s.ports.map PortCtl.base).map PortCtl.shed := by
    rw [Quad.map_set, Quad.map_set]
    have : (f (s.ports.get p)).base.shed = ((s.ports.map PortCtl.base).map PortCtl.shed).get p := by
      rw [Quad.get_map, Quad.get_map]; exact h
    rw [this, Quad.set_get]
  simp [State.core, State.base, State.shed, State.modPort, h']

/-! ## The ten actions -/

/-- What an immediate action is. -/
theorem State.act_cases {s t : State} (h : s.act = some t) :
    s.actBoundary = some t ∨ s.actOffer = some t ∨ s.actSlots = some t ∨ s.actFence = some t ∨ s.actEnding = some t ∨
      s.actCandidate = some t ∨ s.actSelect = some t ∨ s.actGrant = some t ∨ s.actSpin = some t ∨ s.actSend = some t := by
  unfold State.act at h
  have key : ∀ (a b : Option State), (a <|> b) = some t → a = some t ∨ b = some t := by
    intro a b hab
    cases a with
    | none => exact .inr (by simpa using hab)
    | some x => exact .inl (by simpa using hab)
  iterate 9 (rcases key _ _ h with h | h; · simp [h])
  simp [h]

/-- A relation every immediate action satisfies holds of the whole of `settle`. -/
theorem settle_rel {P : State → State → Prop} (refl : ∀ s, P s s) (trans : ∀ a b c, P a b → P b c → P a c)
    (act : ∀ s t, s.act = some t → P s t) (n : Nat) (s : State) : P s (settle n s) := by
  induction n generalizing s with
  | zero => exact refl s
  | succ n ih =>
    simp only [settle]
    split
    · next t h => exact trans _ _ _ (act _ _ h) (ih t)
    · exact refl s

theorem State.actBoundary_eq {s t : State} (h : s.actBoundary = some t) :
    ∃ x rest, s.ring.run = x :: rest ∧ (x.state = .done ∨ x.state = .discard) ∧
      t = { s with ring := { boundary := (s.ring.boundary + 1) % 24, run := rest } } := by
  unfold State.actBoundary at h
  split at h
  · cases h
  · next x rest hr =>
    split at h <;> first | cases h; exact ⟨x, rest, hr, by simp_all, rfl⟩ | cases h

theorem State.actOffer_eq {s t : State} (h : s.actOffer = some t) :
    ∃ p o, t = s.modPort p fun c => { c with offered := o } := by
  unfold State.actOffer at h
  split at h
  · cases h
  · cases h; exact ⟨_, _, rfl⟩

theorem State.actSlots_eq {s t : State} (h : s.actSlots = some t) :
    (∃ (i : Fin 8) (e : Port × Order), (s.wslots.get i).state = .free ∧ t = s.giveSlot i e.1 e.2) ∨ ∃ w, t = { s with waitList := w } := by
  unfold State.actSlots at h
  split at h
  · cases h
  · split at h
    · next hf =>
      cases h
      exact .inl ⟨_, _, by simpa using List.find?_some hf, rfl⟩
    · cases h; exact .inr ⟨_, rfl⟩

theorem State.actFence_eq {s t : State} (h : s.actFence = some t) : ∃ oid, t = s.endOrder oid .complete := by
  unfold State.actFence at h
  obtain ⟨e, _, rfl⟩ := Option.map_eq_some_iff.mp h
  exact ⟨_, rfl⟩

theorem State.actEnding_eq {s t : State} (h : s.actEnding = some t) :
    (∃ l, t = { s with closing := l }) ∨ ∃ p o r, t = s.queueEnding p o r := by
  unfold State.actEnding at h
  split at h
  · obtain ⟨oid, _, h⟩ := List.exists_of_findSome?_eq_some h
    obtain ⟨e, _, h⟩ := Option.bind_eq_some_iff.mp h
    obtain ⟨r, _, rfl⟩ := Option.map_eq_some_iff.mp h
    exact .inr ⟨_, _, _, rfl⟩
  · cases h; exact .inl ⟨_, rfl⟩

theorem State.actCandidate_eq {s t : State} (h : s.actCandidate = some t) :
    s.reassign.state = .free ∧ ∃ i, t = s.takeCandidate i := by
  unfold State.actCandidate at h
  split at h
  · next hf =>
    obtain ⟨b, _, rfl⟩ := Option.map_eq_some_iff.mp h
    exact ⟨hf, _, rfl⟩
  · cases h

theorem State.actSelect_eq {s t : State} (h : s.actSelect = some t) : ∃ d, s.select d = some t := by
  obtain ⟨d, _, h⟩ := List.exists_of_findSome?_eq_some h
  exact ⟨d, h⟩

theorem State.actGrant_eq {s t : State} (h : s.actGrant = some t) :
    s.path.holder = none ∧ ∃ d,
      t = (s.modDrive d fun x => { x with request := false }) ∨
      ∃ op, (s.drive d).cur = some op ∧
        ((s.placeReady op op.index = true ∧ t = s.grant d op) ∨
          t = (s.modDrive d fun x => { x with request := false }).countMiss d op) := by
  unfold State.actGrant at h
  split at h
  · cases h
  · next hh =>
    have hn : s.path.holder = none := by simpa using hh
    split at h
    · cases h
    · next d _ =>
      split at h
      · cases h; exact ⟨hn, d, .inl rfl⟩
      · next op ho =>
        split at h
        · next hp => cases h; exact ⟨hn, d, .inr ⟨op, ho, .inl ⟨hp, rfl⟩⟩⟩
        · cases h; exact ⟨hn, d, .inr ⟨op, ho, .inr rfl⟩⟩

theorem State.actSpin_eq {s t : State} (h : s.actSpin = some t) :
    ∃ d, (s.drive d).state = .waitingSpin ∧ t = s.enterSpinningUp d := by
  unfold State.actSpin at h
  split at h
  · cases h
  · obtain ⟨d, hd, rfl⟩ := Option.map_eq_some_iff.mp h
    exact ⟨d, by simpa using List.find?_some hd, rfl⟩

/-- R159: what the start of a frame does to its port. -/
inductive FrameStart (s : State) (p : Port) : State → Prop where
  | reply (f : OutFrame) (rest : List OutFrame) (h : (s.port p).replies = f :: rest) :
    FrameStart s p (s.modPort p fun c => { c with replies := rest, sending := some f })
  | ending (f : OutFrame) (rest : List OutFrame) (h : (s.port p).endings = f :: rest) :
    FrameStart s p (s.modPort p fun c => { c with endings := rest, sending := some f })
  | request (f : OutFrame) (rest : List OutFrame) (h : (s.port p).dataReqs = f :: rest) :
    FrameStart s p (s.modPort p fun c => { c with dataReqs := rest, sending := some f })
  | data (f : OutFrame) : FrameStart s p (s.modPort p fun c => { c with sending := some f })
  | notice (f : OutFrame) (n : Fin 8) (k : Byte) :
    FrameStart s p (s.modPort p fun c => { c with sending := some f, notices := c.notices.set n (c.notices.get n &&& ~~~k) })

theorem State.actSend_eq {s t : State} (h : s.actSend = some t) :
    ∃ p, (s.port p).sending = none ∧ FrameStart s p t := by
  obtain ⟨p, _, h⟩ := List.exists_of_findSome?_eq_some h
  refine ⟨p, ?_⟩
  unfold State.startFrame at h
  dsimp only at h
  split at h
  · cases h
  · next hs =>
    refine ⟨by simpa using hs, ?_⟩
    split at h
    · next hr => cases h; exact .reply _ _ hr
    · next hr => cases h; exact .ending _ _ hr
    · next hr => cases h; exact .request _ _ hr
    · cases h; exact .data _
    · cases h; exact .notice _ _ _
    · cases h

/-! ## The core is kept -/

theorem State.core_setWslot (s : State) (i : Fin 8) (w : WriteSlot) : (s.setWslot i w).core = s.core := by
  simp [State.core, State.base, State.shed, State.setWslot]

theorem State.core_setRun (s : State) (l : List RingSlot) : (s.setRun l).core = s.core := by
  simp [State.core, State.base, State.shed, State.setRun]

theorem State.core_giveSlot (s : State) (i : Fin 8) (p : Port) (o : Order) : (s.giveSlot i p o).core = s.core := by
  have key : ∀ (w : WriteSlot) (f : OutFrame),
      ((s.setWslot i w).modPort p fun c => { c with dataReqs := c.dataReqs ++ [f] }).core = s.core := fun w f =>
    (State.core_modPort (s.setWslot i w) p _ rfl).trans (State.core_setWslot s i w)
  exact key _ _

theorem State.core_queueEnding (s : State) (p : Port) (o : Order) (r : Result) : (s.queueEnding p o r).core = s.core := by
  have key : ∀ (g : Order → Order) (f : OutFrame) (l : List Nat), (∀ x, (g x).base = x.base) →
      ({ (s.modOrder o.oid g).modPort p fun c => { c with endings := c.endings ++ [f] } with closing := l } : State).core =
        s.core := by
    intro g f l hg
    exact (State.core_modPort (s.modOrder o.oid g) p (fun c => { c with endings := c.endings ++ [f] }) rfl).trans
      (State.core_of_base (State.base_modOrder _ _ _ hg))
  exact key _ _ _ fun _ => rfl

theorem State.core_takeCandidate (s : State) (i : Nat) : (s.takeCandidate i).core = s.core := by
  unfold State.takeCandidate
  split
  · rfl
  · exact (State.core_modDrive _ _ _ (by rfl)).trans rfl

theorem State.core_countMiss (s : State) (d : DriveId) (op : Op) : (s.countMiss d op).core = s.core := by
  unfold State.countMiss
  split <;> first | rfl | exact State.core_modDrive _ _ _ (by rfl)

theorem State.core_takePlace (s : State) (op : Op) : (s.takePlace op).core = s.core := by
  unfold State.takePlace
  split
  · unfold State.ringTake; split <;> simp [State.core_setRun]
  · unfold State.setSlotState; split <;> simp [State.core_setWslot]
  all_goals rfl

theorem State.core_grant (s : State) (d : DriveId) (op : Op) : (s.grant d op).core = s.core := by
  unfold State.grant
  exact (State.core_takePlace (s.modDrive d fun x => { x with request := false }) op).trans
    (State.core_modDrive s d _ (by rfl))

theorem Drive.base_emptyMap (x : Drive) : x.emptyMap.base = x.base := rfl

theorem State.core_setDriveState (s : State) (d : DriveId) {st : DriveState} (h : st.armed = false) :
    (s.setDriveState d st).core = s.core := by
  unfold State.setDriveState
  exact State.core_modDrive s d _ (by simp [h]; rfl)

theorem State.core_enterSpinningUp (s : State) (d : DriveId) : (s.enterSpinningUp d).core = s.core := by
  unfold State.enterSpinningUp
  exact (State.core_modDrive _ d _ (by rfl)).trans (State.core_setDriveState s d rfl)

theorem State.core_frameStart {s t : State} {p : Port} (h : FrameStart s p t) : t.core = s.core := by
  cases h <;> exact State.core_modPort s p _ (by rfl)

theorem State.core_act {s t : State} (h : s.act = some t) : t.core = s.core := by
  rcases State.act_cases h with h | h | h | h | h | h | h | h | h | h
  · obtain ⟨_, _, _, _, rfl⟩ := State.actBoundary_eq h; rfl
  · obtain ⟨_, _, rfl⟩ := State.actOffer_eq h; exact State.core_modPort _ _ _ (by rfl)
  · obtain ⟨_, _, _, rfl⟩ | ⟨_, rfl⟩ := State.actSlots_eq h
    · exact State.core_giveSlot _ _ _ _
    · rfl
  · obtain ⟨_, rfl⟩ := State.actFence_eq h; exact State.core_of_base (State.base_endOrder _ _ _)
  · obtain ⟨_, rfl⟩ | ⟨_, _, _, rfl⟩ := State.actEnding_eq h
    · rfl
    · exact State.core_queueEnding _ _ _ _
  · obtain ⟨_, _, rfl⟩ := State.actCandidate_eq h; exact State.core_takeCandidate _ _
  · obtain ⟨_, h⟩ := State.actSelect_eq h; exact State.core_of_base (State.base_select h)
  · obtain ⟨_, _, rfl | ⟨_, _, ⟨_, rfl⟩ | rfl⟩⟩ := State.actGrant_eq h
    · exact State.core_modDrive _ _ _ (by rfl)
    · exact State.core_grant _ _ _
    · exact (State.core_countMiss _ _ _).trans (State.core_modDrive _ _ _ (by rfl))
  · obtain ⟨_, _, rfl⟩ := State.actSpin_eq h; exact State.core_enterSpinningUp _ _
  · obtain ⟨_, _, h⟩ := State.actSend_eq h; exact State.core_frameStart h

/-- The immediate actions keep the core. -/
theorem settle_core (n : Nat) (s : State) : (settle n s).core = s.core :=
  settle_rel (P := fun s t => t.core = s.core) (fun _ => rfl) (fun _ _ _ h1 h2 => h2.trans h1)
    (fun _ _ h => State.core_act h) n s

end Sys2Proof.Machine
end

