-- ==== Sys2Proof/Laws/Settled.lean ====
section
/-! SUPPORT. Field by field, what `settle` keeps; and the facts it keeps of results, frames, drives, slots and the watch list. -/

namespace Sys2Proof.Machine

/-! ## Field by field -/

@[simp] theorem settle_powered (n : Nat) (s : State) : (settle n s).powered = s.powered :=
  (congrArg State.powered (settle_core n s) :)

@[simp] theorem settle_clock (n : Nat) (s : State) : (settle n s).clock = s.clock :=
  (congrArg State.clock (settle_core n s) :)

@[simp] theorem settle_startCause (n : Nat) (s : State) : (settle n s).startCause = s.startCause :=
  (congrArg State.startCause (settle_core n s) :)

@[simp] theorem settle_plugs (n : Nat) (s : State) : (settle n s).plugs = s.plugs :=
  (congrArg State.plugs (settle_core n s) :)

@[simp] theorem settle_watchOverflows (n : Nat) (s : State) : (settle n s).watchOverflows = s.watchOverflows :=
  (congrArg State.watchOverflows (settle_core n s) :)

@[simp] theorem settle_media (n : Nat) (s : State) : (settle n s).media = s.media :=
  (congrArg State.media (settle_core n s) :)

@[simp] theorem settle_nextOid (n : Nat) (s : State) : (settle n s).nextOid = s.nextOid :=
  (congrArg State.nextOid (settle_core n s) :)

@[simp] theorem settle_pending (n : Nat) (s : State) : (settle n s).pending = s.pending :=
  (congrArg State.pending (settle_core n s) :)

theorem settle_drive (n : Nat) (s : State) (d : DriveId) : ((settle n s).drive d).base.shed = (s.drive d).base.shed := by
  have h := congrArg (fun c : State => c.drives.get d) (settle_core n s)
  simpa [State.core, State.shed, State.base, State.drive, State.port] using h

theorem settle_port (n : Nat) (s : State) (p : Port) : ((settle n s).port p).base.shed = (s.port p).base.shed := by
  have h := congrArg (fun c : State => c.ports.get p) (settle_core n s)
  simpa [State.core, State.shed, State.base, State.drive, State.port] using h

@[simp] theorem settle_present (n : Nat) (s : State) (d : DriveId) : ((settle n s).drive d).present = (s.drive d).present :=
  (congrArg Drive.present (settle_drive n s d) :)

@[simp] theorem settle_plugType (n : Nat) (s : State) (d : DriveId) : ((settle n s).drive d).plugType = (s.drive d).plugType :=
  (congrArg Drive.plugType (settle_drive n s d) :)

@[simp] theorem settle_counter (n : Nat) (s : State) (d : DriveId) : ((settle n s).drive d).counter = (s.drive d).counter :=
  (congrArg Drive.counter (settle_drive n s d) :)

@[simp] theorem settle_watchFrom (n : Nat) (s : State) (d : DriveId) : ((settle n s).drive d).watchFrom = (s.drive d).watchFrom :=
  (congrArg Drive.watchFrom (settle_drive n s d) :)

@[simp] theorem settle_watchLimit (n : Nat) (s : State) (d : DriveId) : ((settle n s).drive d).watchLimit = (s.drive d).watchLimit :=
  (congrArg Drive.watchLimit (settle_drive n s d) :)

@[simp] theorem settle_holder (n : Nat) (s : State) (d : DriveId) : ((settle n s).drive d).holder = (s.drive d).holder :=
  (congrArg Drive.holder (settle_drive n s d) :)

@[simp] theorem settle_geom (n : Nat) (s : State) (d : DriveId) : ((settle n s).drive d).geom = (s.drive d).geom :=
  (congrArg Drive.geom (settle_drive n s d) :)

@[simp] theorem settle_profile (n : Nat) (s : State) (d : DriveId) : ((settle n s).drive d).profile = (s.drive d).profile :=
  (congrArg Drive.profile (settle_drive n s d) :)

@[simp] theorem settle_policy (n : Nat) (s : State) (d : DriveId) : ((settle n s).drive d).policy = (s.drive d).policy :=
  (congrArg Drive.policy (settle_drive n s d) :)

@[simp] theorem settle_window (n : Nat) (s : State) (p : Port) : ((settle n s).port p).window = (s.port p).window :=
  (congrArg PortCtl.window (settle_port n s p) :)

@[simp] theorem settle_access (n : Nat) (s : State) (p : Port) : ((settle n s).port p).access = (s.port p).access :=
  (congrArg PortCtl.access (settle_port n s p) :)

@[simp] theorem settle_refusals (n : Nat) (s : State) (p : Port) : ((settle n s).port p).refusals = (s.port p).refusals :=
  (congrArg PortCtl.refusals (settle_port n s p) :)

@[simp] theorem settle_timeouts (n : Nat) (s : State) (p : Port) : ((settle n s).port p).timeouts = (s.port p).timeouts :=
  (congrArg PortCtl.timeouts (settle_port n s p) :)

@[simp] theorem settle_protocolErrors (n : Nat) (s : State) (p : Port) : ((settle n s).port p).protocolErrors = (s.port p).protocolErrors :=
  (congrArg PortCtl.protocolErrors (settle_port n s p) :)

/-- The order in a slot stays there, as the same order. -/
theorem settle_slot (n : Nat) (s : State) (p : Port) (t : Tag) :
    (((settle n s).port p).slots.get t).map Order.base = ((s.port p).slots.get t).map Order.base := by
  have h := congrArg (fun c : PortCtl => c.slots.get t) (settle_port n s p)
  simpa [PortCtl.base, PortCtl.shed] using h

theorem settle_slot_none (n : Nat) (s : State) (p : Port) (t : Tag) :
    ((settle n s).port p).slots.get t = none ↔ (s.port p).slots.get t = none := by
  have h := settle_slot n s p t
  constructor
  · intro h'; rw [h'] at h; simpa using h.symm
  · intro h'; rw [h'] at h; simpa using h

theorem settle_slot_some {n : Nat} {s : State} {p : Port} {t : Tag} {o : Order} (h : (s.port p).slots.get t = some o) :
    ∃ o', ((settle n s).port p).slots.get t = some o' ∧ o'.base = o.base := by
  have hb := settle_slot n s p t
  rw [h] at hb
  obtain ⟨o', ho, hbase⟩ := Option.map_eq_some_iff.mp hb
  exact ⟨o', ho, hbase⟩

/-! ## Results once fixed stay -/

/-- Every order with a fixed result keeps it, in its slot. -/
def ResultsKept (s t : State) : Prop :=
  ∀ p g o r, (s.port p).slots.get g = some o → o.result = some r →
    ∃ o', (t.port p).slots.get g = some o' ∧ o'.result = some r

theorem ResultsKept.refl (s : State) : ResultsKept s s := fun _ _ o _ h hr => ⟨o, h, hr⟩

theorem ResultsKept.trans {a b c : State} (h1 : ResultsKept a b) (h2 : ResultsKept b c) : ResultsKept a c := by
  intro p g o r h hr
  obtain ⟨o1, h1', hr1⟩ := h1 p g o r h hr
  exact h2 p g o1 r h1' hr1

theorem ResultsKept.of_slots {s t : State} (h : ∀ p, (t.port p).slots = (s.port p).slots) : ResultsKept s t := by
  intro p g o r ho hr
  exact ⟨o, by rw [h p]; exact ho, hr⟩

theorem PortCtl.slot_modOrder (c : PortCtl) (oid : Nat) (f : Order → Order) (g : Tag) :
    (c.modOrder oid f).slots.get g = (c.slots.get g).map fun x => if x.oid = oid then f x else x := by
  simp [PortCtl.modOrder]

theorem ResultsKept.modOrder (s : State) (oid : Nat) (f : Order → Order)
    (hf : ∀ o r, o.result = some r → (f o).result = some r) : ResultsKept s (s.modOrder oid f) := by
  intro p g o r ho hr
  refine ⟨if o.oid = oid then f o else o, ?_, ?_⟩
  · rw [State.port_modOrder, PortCtl.slot_modOrder, ho]; rfl
  · split
    · exact hf _ _ hr
    · exact hr

theorem ResultsKept.modDrive (s : State) (d : DriveId) (f : Drive → Drive) : ResultsKept s (s.modDrive d f) :=
  .of_slots fun _ => rfl

theorem ResultsKept.modPort (s : State) (p : Port) (f : PortCtl → PortCtl) (h : (f (s.port p)).slots = (s.port p).slots) :
    ResultsKept s (s.modPort p f) := by
  refine .of_slots fun q => ?_
  by_cases hq : q = p
  · subst hq; simpa using h
  · rw [State.port_modPort_ne _ _ hq]

theorem ResultsKept.endOrder (s : State) (oid : Nat) (r : Result) : ResultsKept s (s.endOrder oid r) := by
  unfold State.endOrder
  split
  · refine ResultsKept.trans (ResultsKept.modOrder s oid _ ?_) (.of_slots fun _ => rfl)
    intro o r' h
    simp [Order.live, h]
  · exact .refl s

theorem ResultsKept.foldl {α : Type} (f : State → α → State) (hf : ∀ s a, ResultsKept s (f s a)) (l : List α) (s : State) :
    ResultsKept s (l.foldl f s) := by
  induction l generalizing s with
  | nil => exact .refl s
  | cons a l ih => exact (hf s a).trans (ih _)

theorem ResultsKept.endOrders (s : State) (d : DriveId) (q : Order → Bool) (r : Result) :
    ResultsKept s (s.endOrders d q r) :=
  .foldl _ (fun _ _ => .endOrder _ _ _) _ _

theorem ResultsKept.clearOp_of {s : State} {d : DriveId} (h : ∀ op, (s.drive d).cur = some op → op.kind ≠ .surface) :
    ResultsKept s (s.clearOp d) := by
  unfold State.clearOp
  split
  · next op ho => simp only [if_neg (h op ho)]; exact .modDrive _ _ _
  · exact .modDrive _ _ _

theorem ResultsKept.reachTransfer (s : State) (d : DriveId) : ResultsKept s (s.reachTransfer d) := by
  unfold State.reachTransfer
  split
  · exact .refl s
  · next op _ =>
    dsimp only
    split
    · next hk =>
      refine .trans (.modDrive s d fun x => { x with headSel := op.phys.head, cur := some { op with stage := .transfer } })
        (.trans (.clearOp_of ?_) (.endOrder _ _ _))
      intro op' h
      simp only [State.drive_modDrive_self, Option.some.injEq] at h
      subst h
      simp [hk]
    · exact .modDrive _ _ _

theorem ResultsKept.recalFor (s : State) (d : DriveId) (n : Option Nat) : ResultsKept s (s.recalFor d n) := by
  unfold State.recalFor
  split
  · exact .modDrive _ _ _
  · split
    · exact .refl s
    · exact .trans (.modDrive _ _ _) (.modDrive _ _ _)

theorem ResultsKept.beginSeek (s : State) (d : DriveId) (t : Nat) (g : Goal) : ResultsKept s (s.beginSeek d t g) := by
  unfold State.beginSeek
  exact .trans (.modDrive _ _ _) (.trans (.modDrive _ _ _) (.modDrive _ _ _))

theorem ResultsKept.seekTo (s : State) (d : DriveId) (t : Nat) : ResultsKept s (s.seekTo d t) := by
  unfold State.seekTo
  dsimp only
  split
  · exact .modDrive _ _ _
  · split
    · split
      · exact .trans (.modDrive _ _ _) (.reachTransfer _ _)
      · exact .beginSeek _ _ _ _
    · exact .recalFor _ _ _

theorem ResultsKept.of_ports {s t : State} (h : t.ports = s.ports) : ResultsKept s t :=
  .of_slots fun p => by rw [State.port, State.port, h]

theorem ResultsKept.setNotice (s : State) (d : DriveId) (kind : Byte) : ResultsKept s (s.setNotice d kind) :=
  .of_slots fun p => by rw [State.port_setNotice]; rfl

theorem ResultsKept.reassignStuck (s : State) (d : DriveId) (i : Nat) (e : WatchEntry) :
    ResultsKept s (s.reassignStuck d i e) := by
  have h1 : ResultsKept s ((s.setWatch i { e with state := .stuck }).countReassignFailure d) :=
    .trans (b := (s.setWatch i { e with state := .stuck }).tallyDrive d DriveTallies.raiseReassignFailures)
      (.of_ports rfl) (.setNotice _ _ _)
  exact h1.trans (.trans (.endOrders _ _ _ _) (.of_ports rfl))

theorem ResultsKept.reassignBegin (s : State) (d : DriveId) (i : Nat) (e : WatchEntry) (pos : Nat) :
    ResultsKept s (s.reassignBegin d i e pos) := by
  unfold State.reassignBegin
  dsimp only
  refine ResultsKept.trans ?_ (.seekTo _ _ _)
  exact .of_ports rfl

theorem ResultsKept.startReassign (s : State) (d : DriveId) : ResultsKept s (s.startReassign d) := by
  unfold State.startReassign
  split
  · split
    · exact .of_ports rfl
    · split
      · exact .reassignStuck _ _ _ _
      · exact .reassignBegin _ _ _ _ _
  · exact .refl s

theorem ResultsKept.startMapWrite (s : State) (d : DriveId) : ResultsKept s (s.startMapWrite d) := by
  have hb : ResultsKept s (s.bindCommits d) :=
    .foldl _ (fun s oid => .modOrder s oid _ (by intro _ _ h; exact h)) _ s
  unfold State.startMapWrite
  split
  · exact .refl s
  · exact hb.trans (.trans (.modDrive _ _ _) (.seekTo _ _ _))

theorem ResultsKept.startMapLoad (s : State) (d : DriveId) : ResultsKept s (s.startMapLoad d) := by
  unfold State.startMapLoad
  split
  · exact .refl s
  · exact .trans (.modDrive _ _ _) (.seekTo _ _ _)

theorem ResultsKept.startSurface (s : State) (d : DriveId) (p : Port) (o : Order) :
    ResultsKept s (s.startSurface d p o) := by
  unfold State.startSurface
  split
  · exact .refl s
  · dsimp only
    refine ResultsKept.trans ?_ (.seekTo _ _ _)
    exact .of_ports rfl

theorem ResultsKept.startHost (s : State) (d : DriveId) (p : Port) (o : Order) : ResultsKept s (s.startHost d p o) := by
  unfold State.startHost
  exact .trans (.modDrive _ _ _) (.seekTo _ _ _)

theorem ResultsKept.startInternal (s : State) (d : DriveId) (k : OpKind) : ResultsKept s (s.startInternal d k) := by
  cases k with
  | recalibrate =>
    exact .trans (.modDrive s d fun x => { x with pendRecal := false }) (.trans (.modDrive _ _ _) (.recalFor _ _ _))
  | mapLoad => exact .trans (.modDrive s d fun x => { x with pendLoad := false }) (.startMapLoad _ _)
  | mapWrite => exact .trans (.modDrive s d fun x => { x with pendWrite := false }) (.startMapWrite _ _)
  | reassign => exact .trans (.modDrive s d fun x => { x with pendReassign := false }) (.startReassign _ _)
  | read => exact .refl s
  | write => exact .refl s
  | verify => exact .refl s
  | seek => exact .refl s
  | surface => exact .refl s

theorem ResultsKept.takeEntry (s : State) (d : DriveId) (es : List (Port × Order)) (c : Choice) :
    ResultsKept s (s.takeEntry d es c) := by
  have hp : ResultsKept s (if c.passes then s.passOver es c.entry.2.oid else s) := by
    split
    · exact .foldl _ (fun s e => .modOrder s _ _ (by intro _ _ h; exact h)) _ s
    · exact .refl s
  have key : ∀ s1 : State, ResultsKept s1 ((s1.modDrive d fun x =>
      { x with queue := x.queue.filter fun n => n ≠ c.entry.2.oid, sweepIn := c.sweepIn }).modOrder c.entry.2.oid
        fun o => { o with state := .active }) := fun s1 =>
    .trans (.modDrive _ _ _) (.modOrder _ _ _ (by intro _ _ h; exact h))
  unfold State.takeEntry
  dsimp only
  split
  · exact hp.trans ((key _).trans (.startSurface _ _ _ _))
  · exact hp.trans ((key _).trans (.startHost _ _ _ _))

theorem ResultsKept.select {s t : State} {d : DriveId} (h : s.select d = some t) : ResultsKept s t := by
  unfold State.select at h
  split at h
  · cases h
  · split at h
    · cases h; exact .startInternal _ _ _
    · obtain ⟨c, _, rfl⟩ := Option.map_eq_some_iff.mp h
      exact .takeEntry _ _ _ _

theorem State.ports_takePlace (s : State) (op : Op) : (s.takePlace op).ports = s.ports := by
  unfold State.takePlace State.ringTake State.setSlotState
  split <;> first | rfl | (split <;> rfl)

theorem State.ports_grant (s : State) (d : DriveId) (op : Op) : (s.grant d op).ports = s.ports :=
  State.ports_takePlace _ op

theorem State.ports_countMiss (s : State) (d : DriveId) (op : Op) : (s.countMiss d op).ports = s.ports := by
  unfold State.countMiss
  split <;> rfl

theorem ResultsKept.queueEnding (s : State) (p : Port) (o : Order) (r : Result) : ResultsKept s (s.queueEnding p o r) := by
  have h1 : ResultsKept s (s.modOrder o.oid fun x => { x with result := some (x.result.getD r), state := .ending }) :=
    .modOrder s o.oid _ fun x r' hx => by simp [hx]
  have key : ∀ (s1 : State) (f : OutFrame) (l : List Nat), ResultsKept s1
      ({ s1.modPort p fun c => { c with endings := c.endings ++ [f] } with closing := l } : State) := fun s1 f l =>
    .trans (b := s1.modPort p fun c => { c with endings := c.endings ++ [f] }) (.modPort _ _ _ rfl) (.of_ports rfl)
  exact h1.trans (key _ _ _)

theorem ResultsKept.act {s t : State} (h : s.act = some t) : ResultsKept s t := by
  rcases State.act_cases h with h | h | h | h | h | h | h | h | h | h
  · obtain ⟨_, _, _, _, rfl⟩ := State.actBoundary_eq h; exact .of_ports rfl
  · obtain ⟨_, _, rfl⟩ := State.actOffer_eq h; exact .modPort _ _ _ rfl
  · obtain ⟨i, e, _, rfl⟩ | ⟨_, rfl⟩ := State.actSlots_eq h
    · have key : ∀ (w : WriteSlot) (f : OutFrame),
          ResultsKept s ((s.setWslot i w).modPort e.1 fun c => { c with dataReqs := c.dataReqs ++ [f] }) := fun w f =>
        .trans (b := s.setWslot i w) (.of_ports rfl) (.modPort _ _ _ rfl)
      exact key _ _
    · exact .of_ports rfl
  · obtain ⟨_, rfl⟩ := State.actFence_eq h; exact .endOrder _ _ _
  · obtain ⟨_, rfl⟩ | ⟨p, o, r, rfl⟩ := State.actEnding_eq h
    · exact .of_ports rfl
    · exact .queueEnding _ _ _ _
  · obtain ⟨_, _, rfl⟩ := State.actCandidate_eq h
    unfold State.takeCandidate
    split
    · exact .refl s
    · exact .of_ports rfl
  · obtain ⟨_, h⟩ := State.actSelect_eq h; exact .select h
  · obtain ⟨_, _, rfl | ⟨_, _, ⟨_, rfl⟩ | rfl⟩⟩ := State.actGrant_eq h
    · exact .modDrive _ _ _
    · exact .of_ports (State.ports_grant _ _ _)
    · exact .trans (.modDrive _ _ _) (.of_ports (State.ports_countMiss _ _ _))
  · obtain ⟨_, _, rfl⟩ := State.actSpin_eq h; exact .of_ports rfl
  · obtain ⟨_, _, h⟩ := State.actSend_eq h
    cases h <;> exact .modPort _ _ _ rfl

/-- A result once fixed stays through the immediate actions. -/
theorem settle_results (n : Nat) (s : State) : ResultsKept s (settle n s) :=
  settle_rel (P := ResultsKept) ResultsKept.refl (fun _ _ _ => ResultsKept.trans) (fun _ _ => ResultsKept.act) n s

end Sys2Proof.Machine
end

