-- ==== Sys2Proof/Laws/Busy.lean ====
section
/-! SUPPORT. What `settle` keeps of a drive that takes no new work, of a channel in flight, and of the drive states; and which
drives take no new work. -/

namespace Sys2Proof.Machine

/-! ## Drives the action does not concern -/

theorem State.drives_giveSlot (s : State) (i : Fin 8) (p : Port) (o : Order) : (s.giveSlot i p o).drives = s.drives := rfl

theorem State.drives_endOrder (s : State) (oid : Nat) (r : Result) : (s.endOrder oid r).drives = s.drives := by
  unfold State.endOrder
  split <;> rfl

theorem State.drives_takePlace (s : State) (op : Op) : (s.takePlace op).drives = s.drives := by
  unfold State.takePlace State.ringTake State.setSlotState
  split <;> first | rfl | (split <;> rfl)

theorem State.drives_takeCandidate (s : State) (i : Nat) :
    (s.takeCandidate i).drives = s.drives ∨
      ∃ d, (s.takeCandidate i).drives = (s.modDrive d fun x => { x with pendReassign := true }).drives := by
  unfold State.takeCandidate
  split
  · exact .inl rfl
  · exact .inr ⟨_, rfl⟩

/-- What an action does to the drives: nothing, a REASSIGN placed, a selection, a grant or a withdrawn request, or the spin-up
turn. -/
theorem State.act_drives {s t : State} (h : s.act = some t) :
    t.drives = s.drives ∨
    (∃ d, t.drives = (s.modDrive d fun x => { x with pendReassign := true }).drives) ∨
    (∃ d, s.select d = some t) ∨
    (∃ (d : DriveId) (f : DriveTallies → DriveTallies), t.drives = (s.modDrive d fun x => { x with request := false, tally := f x.tally }).drives) ∨
    (∃ d, (s.drive d).state = .waitingSpin ∧ t = s.enterSpinningUp d) := by
  rcases State.act_cases h with h | h | h | h | h | h | h | h | h | h
  · obtain ⟨_, _, _, _, rfl⟩ := State.actBoundary_eq h; exact .inl rfl
  · obtain ⟨_, _, rfl⟩ := State.actOffer_eq h; exact .inl rfl
  · obtain ⟨_, _, _, rfl⟩ | ⟨_, rfl⟩ := State.actSlots_eq h <;> exact .inl rfl
  · obtain ⟨_, rfl⟩ := State.actFence_eq h; exact .inl (State.drives_endOrder _ _ _)
  · obtain ⟨_, rfl⟩ | ⟨_, _, _, rfl⟩ := State.actEnding_eq h <;> exact .inl rfl
  · obtain ⟨_, _, rfl⟩ := State.actCandidate_eq h
    exact (State.drives_takeCandidate s _).imp id .inl
  · exact .inr (.inr (.inl (State.actSelect_eq h)))
  · refine .inr (.inr (.inr (.inl ?_)))
    obtain ⟨_, d, rfl | ⟨op, _, ⟨_, rfl⟩ | rfl⟩⟩ := State.actGrant_eq h
    · exact ⟨d, id, rfl⟩
    · refine ⟨d, id, ?_⟩
      unfold State.grant
      exact State.drives_takePlace _ _
    · unfold State.countMiss
      split
      · exact ⟨d, DriveTallies.raiseRingMisses, by simp [State.tallyDrive, State.modDrive]⟩
      · exact ⟨d, DriveTallies.raiseSlotMisses, by simp [State.tallyDrive, State.modDrive]⟩
      all_goals exact ⟨d, id, rfl⟩
  · exact .inr (.inr (.inr (.inr (State.actSpin_eq h))))
  · obtain ⟨_, _, h⟩ := State.actSend_eq h
    cases h <;> exact .inl rfl

theorem State.drive_eq_of_drives {s t : State} (h : t.drives = s.drives) (d : DriveId) : t.drive d = s.drive d := by
  rw [State.drive, State.drive, h]

/-! ## A drive that takes no new work -/

theorem State.select_none {s : State} {d : DriveId} (h : (s.drive d).takesNoWork = true) : s.select d = none := by
  unfold State.select
  split
  · rfl
  · next hc =>
    have hd : (s.drive d).state.dormant = true := by
      simp only [Drive.takesNoWork, hc, Bool.false_and, Bool.false_or] at h
      exact h
    have hi : ∀ k, (s.drive d).internalEligible k = false := by
      intro k
      unfold Drive.internalEligible
      split <;> first | rfl | simp_all [DriveState.dormant]
    have hn : (s.drive d).nextInternal = none := by simp [Drive.nextInternal, hi]
    have hh : ∀ o, s.hostEligible d o = false := by
      intro o
      unfold State.hostEligible
      split <;> first | rfl | simp_all [DriveState.dormant]
    have he : s.eligibleEntries d = [] := by
      unfold State.eligibleEntries
      rw [List.filterMap_eq_nil_iff]
      intro oid _
      split
      · simp [hh]
      · rfl
    simp [hn, he, State.chooseEntry, State.nearest]

/-- What the immediate actions keep of drives that take no new work. -/
def BusyKept (s t : State) : Prop := ∀ d, (s.drive d).takesNoWork = true → (t.drive d).kept = (s.drive d).kept

theorem Drive.takesNoWork_of_kept {x y : Drive} (h : y.kept = x.kept) : y.takesNoWork = x.takesNoWork := by
  have hc : y.cur = x.cur := (congrArg Drive.cur h :)
  have hs : y.state = x.state := (congrArg Drive.state h :)
  simp [Drive.takesNoWork, hc, hs]

theorem State.kept_modDrive (s : State) (d e : DriveId) (f : Drive → Drive) (h : ∀ x, (f x).kept = x.kept) :
    ((s.modDrive d f).drive e).kept = (s.drive e).kept := by
  by_cases he : e = d
  · subst he; rw [State.drive_modDrive_self, h]
  · rw [State.drive_modDrive_ne _ _ he]

theorem BusyKept.act {s t : State} (h : s.act = some t) : BusyKept s t := by
  intro d hd
  rcases State.act_drives h with h | ⟨e, h⟩ | ⟨e, h⟩ | ⟨e, f, h⟩ | ⟨e, hw, rfl⟩
  · rw [State.drive_eq_of_drives h]
  · rw [State.drive_eq_of_drives h]; exact State.kept_modDrive s e d _ fun _ => rfl
  · by_cases hde : d = e
    · subst hde; rw [State.select_none hd] at h; cases h
    · rw [State.drive_of_others (State.others_select h) hde]
  · rw [State.drive_eq_of_drives h]; exact State.kept_modDrive s e d _ fun _ => rfl
  · have hde : d ≠ e := by
      rintro rfl
      simp [Drive.takesNoWork, hw, DriveState.dormant] at hd
    unfold State.enterSpinningUp State.setDriveState
    rw [State.drive_modDrive_ne _ _ hde, State.drive_modDrive_ne _ _ hde]

/-- A drive that takes no new work is left whole by the immediate actions, but for its request, its tallies and a REASSIGN
placed. -/
theorem settle_busy (n : Nat) (s : State) : BusyKept s (settle n s) :=
  settle_rel (P := BusyKept) (fun _ _ _ => rfl)
    (fun _ _ _ h1 h2 d hd => (h2 d (by rw [Drive.takesNoWork_of_kept (h1 d hd)]; exact hd)).trans (h1 d hd))
    (fun _ _ => BusyKept.act) n s

/-! ## A channel in flight -/

/-- What the immediate actions keep of channels in flight. -/
def FlightKept (s t : State) : Prop :=
  ∀ d, (s.drive d).chan.phase.inFlight = true → (t.drive d).chan = (s.drive d).chan

theorem State.chan_modDrive (s : State) (d e : DriveId) (f : Drive → Drive) (h : ∀ x, (f x).chan = x.chan) :
    ((s.modDrive d f).drive e).chan = (s.drive e).chan := by
  by_cases he : e = d
  · subst he; rw [State.drive_modDrive_self, h]
  · rw [State.drive_modDrive_ne _ _ he]

theorem State.chan_setDriveState (s : State) (d e : DriveId) (st : DriveState) :
    ((s.setDriveState d st).drive e).chan = (s.drive e).chan :=
  State.chan_modDrive s d e _ fun x => by split <;> rfl

theorem FlightKept.act {s t : State} (h : s.act = some t) : FlightKept s t := by
  intro d hd
  rcases State.act_drives h with h | ⟨e, h⟩ | ⟨e, h⟩ | ⟨e, f, h⟩ | ⟨e, _, rfl⟩
  · rw [State.drive_eq_of_drives h]
  · rw [State.drive_eq_of_drives h]; exact State.chan_modDrive s e d _ fun _ => rfl
  · by_cases hde : d = e
    · subst hde; exact State.chan_select h hd
    · rw [State.drive_of_others (State.others_select h) hde]
  · rw [State.drive_eq_of_drives h]; exact State.chan_modDrive s e d _ fun _ => rfl
  · unfold State.enterSpinningUp
    exact (State.chan_modDrive (s.setDriveState e .spinningUp) e d _ (by intro _; rfl)).trans (State.chan_setDriveState _ _ _ _)

/-- A channel in flight is left as it is by the immediate actions. -/
theorem settle_chan {n : Nat} {s : State} {d : DriveId} (h : (s.drive d).chan.phase.inFlight = true) :
    ((settle n s).drive d).chan = (s.drive d).chan :=
  settle_rel (P := FlightKept) (fun _ _ _ => rfl)
    (fun _ _ _ h1 h2 d hd => (h2 d (by rw [h1 d hd]; exact hd)).trans (h1 d hd))
    (fun _ _ => FlightKept.act) n s d h

/-! ## Drive states -/

/-- The part of a drive that only the spin-up turn changes. -/
def Drive.service (x : Drive) : DriveState × Option Nat × Nat × Nat × Bool := (x.state, x.lastIndex, x.qual, x.spinFrom, x.mapHeld)

/-- What the immediate actions keep of drives that do not wait for the spin-up turn. -/
def ServiceKept (s t : State) : Prop := ∀ d, (s.drive d).state ≠ .waitingSpin → (t.drive d).service = (s.drive d).service

theorem State.service_modDrive (s : State) (d e : DriveId) (f : Drive → Drive) (h : ∀ x, (f x).service = x.service) :
    ((s.modDrive d f).drive e).service = (s.drive e).service := by
  by_cases he : e = d
  · subst he; rw [State.drive_modDrive_self, h]
  · rw [State.drive_modDrive_ne _ _ he]

theorem State.service_of_base {s t : State} (h : t.base = s.base) (d : DriveId) : (t.drive d).service = (s.drive d).service := by
  have h' := congrArg (fun c : State => (c.drives.get d).service) h
  simpa [State.base, State.drive, Drive.base, Drive.service] using h'

theorem ServiceKept.act {s t : State} (h : s.act = some t) : ServiceKept s t := by
  intro d hd
  rcases State.act_drives h with h | ⟨e, h⟩ | ⟨e, h⟩ | ⟨e, f, h⟩ | ⟨e, hw, rfl⟩
  · rw [State.drive_eq_of_drives h]
  · rw [State.drive_eq_of_drives h]; exact State.service_modDrive s e d _ fun _ => rfl
  · exact State.service_of_base (State.base_select h) d
  · rw [State.drive_eq_of_drives h]; exact State.service_modDrive s e d _ fun _ => rfl
  · have hde : d ≠ e := by rintro rfl; exact hd hw
    unfold State.enterSpinningUp State.setDriveState
    rw [State.drive_modDrive_ne _ _ hde, State.drive_modDrive_ne _ _ hde]

theorem Drive.state_of_service {x y : Drive} (h : y.service = x.service) : y.state = x.state := (congrArg Prod.fst h :)

theorem settle_service {n : Nat} {s : State} {d : DriveId} (h : (s.drive d).state ≠ .waitingSpin) :
    ((settle n s).drive d).service = (s.drive d).service :=
  settle_rel (P := ServiceKept) (fun _ _ _ => rfl)
    (fun _ _ _ h1 h2 d hd =>
      (h2 d (by rw [Drive.state_of_service (h1 d hd)]; exact hd)).trans (h1 d hd))
    (fun _ _ => ServiceKept.act) n s d h

/-- The drive state after the immediate actions. -/
theorem settle_state {n : Nat} {s : State} {d : DriveId} (h : (s.drive d).state ≠ .waitingSpin) :
    ((settle n s).drive d).state = (s.drive d).state :=
  Drive.state_of_service (settle_service h)

theorem settle_lastIndex {n : Nat} {s : State} {d : DriveId} (h : (s.drive d).state ≠ .waitingSpin) :
    ((settle n s).drive d).lastIndex = (s.drive d).lastIndex :=
  (congrArg (fun x => x.2.1) (settle_service h) :)

theorem settle_mapHeld {n : Nat} {s : State} {d : DriveId} (h : (s.drive d).state ≠ .waitingSpin) :
    ((settle n s).drive d).mapHeld = (s.drive d).mapHeld :=
  (congrArg (fun x => x.2.2.2.2) (settle_service h) :)

end Sys2Proof.Machine
end

