-- ==== Sys2Proof/Laws/Media.lean ====
section
/-! SUPPORT. The media: laying a frame down keeps the one form, gives that frame back and leaves every other sector alone. -/

namespace Sys2Proof.Machine

theorem mediaPut_keys {m : List (Nat × Frame)} {k : Nat} {f : Frame} {x : Nat × Frame} (h : x ∈ mediaPut m k f) :
    x = (k, f) ∨ x ∈ m := by
  induction m with
  | nil => simpa [mediaPut] using h
  | cons a m ih =>
    obtain ⟨j, g⟩ := a
    simp only [mediaPut] at h
    split at h
    · simpa using h
    · split at h
      · rcases List.mem_cons.mp h with h | h
        · exact .inl h
        · exact .inr (List.mem_cons_of_mem _ h)
      · rcases List.mem_cons.mp h with h | h
        · exact .inr (h ▸ List.mem_cons_self)
        · exact (ih h).imp id (List.mem_cons_of_mem _)

theorem mediaPut_sorted {m : List (Nat × Frame)} (h : mediaSorted m) (k : Nat) (f : Frame) : mediaSorted (mediaPut m k f) := by
  induction m with
  | nil => simp [mediaPut]
  | cons a m ih =>
    obtain ⟨j, g⟩ := a
    have hc := List.pairwise_cons.mp h
    simp only [mediaPut]
    split
    · next hk =>
      refine List.pairwise_cons.mpr ⟨fun x hx => ?_, h⟩
      rcases List.mem_cons.mp hx with rfl | hx
      · exact hk
      · exact hk.trans (hc.1 x hx)
    · split
      · next hk => exact List.pairwise_cons.mpr ⟨fun x hx => by simpa [hk] using hc.1 x hx, hc.2⟩
      · next h1 h2 =>
        refine List.pairwise_cons.mpr ⟨fun x hx => ?_, ih hc.2⟩
        rcases mediaPut_keys hx with rfl | hx
        · exact Nat.lt_of_le_of_ne (Nat.le_of_not_lt h1) fun e => h2 e.symm
        · exact hc.1 x hx

theorem mediaGet_put_self (m : List (Nat × Frame)) (k : Nat) (f : Frame) : mediaGet (mediaPut m k f) k = f := by
  induction m with
  | nil => simp [mediaPut, mediaGet]
  | cons a m ih =>
    obtain ⟨j, g⟩ := a
    simp only [mediaPut]
    split
    · simp [mediaGet]
    · split
      · simp [mediaGet]
      · next h => simp only [mediaGet, ih]; rw [if_neg fun e => h e.symm]

theorem mediaGet_put_ne (m : List (Nat × Frame)) {k j : Nat} (f : Frame) (h : j ≠ k) :
    mediaGet (mediaPut m k f) j = mediaGet m j := by
  induction m with
  | nil => simp [mediaPut, mediaGet, h.symm]
  | cons a m ih =>
    obtain ⟨i, g⟩ := a
    simp only [mediaPut]
    split
    · simp [mediaGet, h.symm]
    · split
      · next hk => simp only [mediaGet]; rw [if_neg h.symm, if_neg (hk ▸ h.symm)]
      · simp only [mediaGet, ih]

/-- The sectors of the part have keys of their own: cylinders below 1024, heads below 16, sectors below 32 (R46). -/
theorem mediaKey_inj {d e : DriveId} {t u : Track} {m n : Nat} (ht : t.cyl < 1024) (hu : u.cyl < 1024) (hth : t.head < 16)
    (huh : u.head < 16) (hm : m < 32) (hn : n < 32) (h : mediaKey d t m = mediaKey e u n) : d = e ∧ t = u ∧ m = n := by
  obtain ⟨tc, th⟩ := t
  obtain ⟨uc, uh⟩ := u
  simp only [mediaKey] at *
  refine ⟨Fin.ext (by omega), ?_, by omega⟩
  have : tc = uc := by omega
  have : th = uh := by omega
  simp_all

end Sys2Proof.Machine
end

