-- ==== Sys2Proof/Laws/Lawful.lean ====
section
/-! SUPPORT. Two relations. `Lawful`: what every command but TABLE PUT and power-on keeps, the queue of commands, the settings and
the laws of the part (Safety.lean). `Work`: what the operations inside a command keep beyond that, the bus records, the
reservations, the windows, the port tallies, the media and the orders in their slots. Each lemma is in composed form: what holds
up to `t` holds past one more operation. -/

set_option Elab.async false

namespace Sys2Proof.Machine

/-! ## The relation -/

/-- A drive's part of the relation. -/
structure Drive.Lawful (m : Nat) (x y : Drive) : Prop where
  geom : y.geom = x.geom
  profile : y.profile = x.profile
  policy : y.policy = x.policy
  tally : (∀ n ∈ x.tally.counters, n ≤ 65535) → ∀ n ∈ y.tally.counters, n ≤ 65535
  chan : x.chan.law m → y.chan.law m

/-- A port's part of the relation. -/
structure PortCtl.Lawful (c e : PortCtl) : Prop where
  access : e.access = c.access
  tally : (∀ n ∈ c.counters, n ≤ 65535) → ∀ n ∈ e.counters, n ≤ 65535

/-- The relation. -/
structure Lawful (s t : State) : Prop where
  pending : t.pending = s.pending
  plugs : t.plugs = s.plugs
  clock : t.clock = s.clock
  drive : ∀ d, Drive.Lawful s.m (s.drive d) (t.drive d)
  port : ∀ p, PortCtl.Lawful (s.port p) (t.port p)
  overflows : s.watchOverflows ≤ 65535 → t.watchOverflows ≤ 65535
  watch : s.watch.length = 16 → t.watch.length = 16
  ring : s.ringLaw → t.ringLaw
  media : s.mediaLaw → t.mediaLaw
  number : s.numberLaw → t.numberLaw

theorem Drive.Lawful.refl (m : Nat) (x : Drive) : Drive.Lawful m x x := ⟨rfl, rfl, rfl, id, id⟩

theorem Drive.Lawful.trans {m : Nat} {x y z : Drive} (h1 : Drive.Lawful m x y) (h2 : Drive.Lawful m y z) :
    Drive.Lawful m x z :=
  ⟨h2.geom.trans h1.geom, h2.profile.trans h1.profile, h2.policy.trans h1.policy, h2.tally ∘ h1.tally, h2.chan ∘ h1.chan⟩

theorem PortCtl.Lawful.refl (c : PortCtl) : PortCtl.Lawful c c := ⟨rfl, id⟩

theorem PortCtl.Lawful.trans {a b c : PortCtl} (h1 : PortCtl.Lawful a b) (h2 : PortCtl.Lawful b c) : PortCtl.Lawful a c :=
  ⟨h2.access.trans h1.access, h2.tally ∘ h1.tally⟩

theorem Lawful.refl (s : State) : Lawful s s := ⟨rfl, rfl, rfl, fun _ => .refl _ _, fun _ => .refl _, id, id, id, id, id⟩

theorem Lawful.m {s t : State} (h : Lawful s t) : t.m = s.m := by rw [State.m, State.m, h.plugs]

theorem Lawful.trans {a b c : State} (h1 : Lawful a b) (h2 : Lawful b c) : Lawful a c :=
  ⟨h2.pending.trans h1.pending, h2.plugs.trans h1.plugs, h2.clock.trans h1.clock,
   fun d => (h1.drive d).trans (h1.m ▸ h2.drive d), fun p => (h1.port p).trans (h2.port p),
   h2.overflows ∘ h1.overflows, h2.watch ∘ h1.watch, h2.ring ∘ h1.ring, h2.media ∘ h1.media,
   h2.number ∘ h1.number⟩

/-! ## The relation inside a command -/

/-- What tells an order from another: the fields its acceptance fixes (R99). -/
def Order.ident (o : Order) : Order :=
  { o with
    state := .queued, done := 0, retry := 0, passOver := 0, failing := none, result := none, held := none, clamped := false,
    body := [], bound := false }

/-- The orders in a port's slots. -/
def PortCtl.idents (c : PortCtl) : Quad (Option Order) := c.slots.map (Option.map Order.ident)

/-- A drive's part. -/
structure Drive.Work (m : Nat) (x y : Drive) : Prop extends Drive.Lawful m x y where
  present : y.present = x.present
  plugType : y.plugType = x.plugType
  counter : y.counter = x.counter
  holder : y.holder = x.holder

/-- A port's part. -/
structure PortCtl.Work (c e : PortCtl) : Prop extends PortCtl.Lawful c e where
  window : e.window = c.window
  refusals : e.refusals = c.refusals
  timeouts : e.timeouts = c.timeouts
  protocolErrors : e.protocolErrors = c.protocolErrors
  idents : e.idents = c.idents
  frames : ∀ f, f ∈ c.toSend → f ∈ e.toSend

/-- The relation. -/
structure Work (s t : State) : Prop extends Lawful s t where
  powered : t.powered = s.powered
  startCause : t.startCause = s.startCause
  nextOid : t.nextOid = s.nextOid
  laid : t.media = s.media
  bus : ∀ d, Drive.Work s.m (s.drive d) (t.drive d)
  link : ∀ p, PortCtl.Work (s.port p) (t.port p)

theorem Drive.Work.refl (m : Nat) (x : Drive) : Drive.Work m x x := ⟨.refl m x, rfl, rfl, rfl, rfl⟩

theorem Drive.Work.trans {m : Nat} {x y z : Drive} (h1 : Drive.Work m x y) (h2 : Drive.Work m y z) : Drive.Work m x z :=
  ⟨h1.toLawful.trans h2.toLawful, h2.present.trans h1.present, h2.plugType.trans h1.plugType, h2.counter.trans h1.counter,
   h2.holder.trans h1.holder⟩

theorem PortCtl.Work.refl (c : PortCtl) : PortCtl.Work c c := ⟨.refl c, rfl, rfl, rfl, rfl, rfl, fun _ h => h⟩

theorem PortCtl.Work.trans {a b c : PortCtl} (h1 : PortCtl.Work a b) (h2 : PortCtl.Work b c) : PortCtl.Work a c :=
  ⟨h1.toLawful.trans h2.toLawful, h2.window.trans h1.window, h2.refusals.trans h1.refusals, h2.timeouts.trans h1.timeouts,
   h2.protocolErrors.trans h1.protocolErrors, h2.idents.trans h1.idents, fun f h => h2.frames f (h1.frames f h)⟩

theorem Work.refl (s : State) : Work s s := ⟨.refl s, rfl, rfl, rfl, rfl, fun _ => .refl _ _, fun _ => .refl _⟩

theorem Work.trans {a b c : State} (h1 : Work a b) (h2 : Work b c) : Work a c :=
  ⟨h1.toLawful.trans h2.toLawful, h2.powered.trans h1.powered, h2.startCause.trans h1.startCause, h2.nextOid.trans h1.nextOid,
   h2.laid.trans h1.laid, fun d => (h1.bus d).trans (h1.toLawful.m ▸ h2.bus d), fun p => (h1.link p).trans (h2.link p)⟩

theorem Work.m {s t : State} (h : Work s t) : t.m = s.m := h.toLawful.m

variable {s t u : State}

/-- Work inside a command keeps what is lawful. -/
theorem Lawful.work (h : Lawful s t) (w : Work t u) : Lawful s u := h.trans w.toLawful

/-! ## Elementary updates -/

/-- Slots that lose orders, and none that gains one, keep the law of the serial numbers. -/
theorem numberLaw_of (h : s.numberLaw) (hn : s.nextOid ≤ t.nextOid)
    (hs : ∀ p g o, (t.port p).slots.get g = some o → ∃ r, (s.port p).slots.get g = some r ∧ r.oid = o.oid) : t.numberLaw := by
  refine ⟨h.next.trans_le hn, fun p g o ho => ?_, fun p g o q k r ho hr he => ?_⟩
  · obtain ⟨r, hr, e⟩ := hs p g o ho
    have := h.range p g r hr
    omega
  · obtain ⟨o', ho', e1⟩ := hs p g o ho
    obtain ⟨r', hr', e2⟩ := hs q k r hr
    exact h.distinct p g o' q k r' ho' hr' (by omega)

/-- The same of ports whose orders are the same. -/
theorem numberLaw_idents (h : s.numberLaw) (hn : t.nextOid = s.nextOid) (hs : ∀ p, (t.port p).idents = (s.port p).idents) :
    t.numberLaw :=
  numberLaw_of h hn.ge fun p g o ho => by
    have h1 := congrArg (fun q => q.get g) (hs p)
    simp only [PortCtl.idents, Quad.get_map, ho, Option.map_some] at h1
    cases hr : (s.port p).slots.get g with
    | none => rw [hr] at h1; cases h1
    | some r =>
      rw [hr] at h1
      exact ⟨r, rfl, (congrArg Order.oid (Option.some.inj h1) :).symm⟩

theorem bump_le {n : Nat} (h : n ≤ 65535) : bump n ≤ 65535 := by unfold bump; split <;> omega

theorem Lawful.modDrive (h : Lawful s t) (d : DriveId) (f : Drive → Drive)
    (hf : ∀ x, Drive.Lawful s.m x (f x) := by intro _; exact ⟨rfl, rfl, rfl, id, id⟩) : Lawful s (t.modDrive d f) := by
  refine ⟨h.pending, h.plugs, h.clock, fun e => ?_, h.port, h.overflows, h.watch, h.ring, h.media,
    fun x => numberLaw_of (h.number x) le_rfl fun _ _ o ho => ⟨o, ho, rfl⟩⟩
  by_cases he : e = d
  · subst he; rw [State.drive_modDrive_self]; exact (h.drive e).trans (hf _)
  · rw [State.drive_modDrive_ne _ _ he]; exact h.drive e

theorem Work.modDrive (h : Work s t) (d : DriveId) (f : Drive → Drive)
    (hf : ∀ x, Drive.Work s.m x (f x) := by intro _; exact ⟨⟨rfl, rfl, rfl, id, id⟩, rfl, rfl, rfl, rfl⟩) :
    Work s (t.modDrive d f) := by
  refine ⟨h.toLawful.modDrive d f fun x => (hf x).toLawful, h.powered, h.startCause, h.nextOid, h.laid, fun e => ?_, h.link⟩
  by_cases he : e = d
  · subst he; rw [State.drive_modDrive_self]; exact (h.bus e).trans (hf _)
  · rw [State.drive_modDrive_ne _ _ he]; exact h.bus e

/-- An update of one port, judged on that port as it stands. -/
theorem Lawful.modPort' (h : Lawful s t) (p : Port) (f : PortCtl → PortCtl) (hf : PortCtl.Lawful (t.port p) (f (t.port p)))
    (hs : ∀ g o, (f (t.port p)).slots.get g = some o → ∃ r, (t.port p).slots.get g = some r ∧ r.oid = o.oid) :
    Lawful s (t.modPort p f) := by
  refine ⟨h.pending, h.plugs, h.clock, h.drive, fun q => ?_, h.overflows, h.watch, h.ring, h.media,
    fun x => numberLaw_of (h.number x) le_rfl fun q g o ho => ?_⟩
  · by_cases hq : q = p
    · subst hq; rw [State.port_modPort_self]; exact (h.port q).trans hf
    · rw [State.port_modPort_ne _ _ hq]; exact h.port q
  · by_cases hq : q = p
    · subst hq; rw [State.port_modPort_self] at ho; exact hs _ _ ho
    · rw [State.port_modPort_ne _ _ hq] at ho; exact ⟨o, ho, rfl⟩

theorem Lawful.modPort (h : Lawful s t) (p : Port) (f : PortCtl → PortCtl)
    (hf : ∀ x, PortCtl.Lawful x (f x) := by intro _; exact ⟨rfl, id⟩)
    (hs : ∀ x g o, (f x).slots.get g = some o → ∃ r, x.slots.get g = some r ∧ r.oid = o.oid := by
      intro _ _ o ho; exact ⟨o, ho, rfl⟩) : Lawful s (t.modPort p f) :=
  h.modPort' p f (hf _) (hs _)

theorem Quad.idents_slots {x y : PortCtl} (h : y.idents = x.idents) (g : Tag) (o : Order) (ho : y.slots.get g = some o) :
    ∃ r, x.slots.get g = some r ∧ r.oid = o.oid := by
  have h1 := congrArg (fun q => q.get g) h
  simp only [PortCtl.idents, Quad.get_map, ho, Option.map_some] at h1
  cases hr : x.slots.get g with
  | none => rw [hr] at h1; cases h1
  | some r =>
    rw [hr] at h1
    exact ⟨r, rfl, (congrArg Order.oid (Option.some.inj h1) :).symm⟩

theorem Work.modPort (h : Work s t) (p : Port) (f : PortCtl → PortCtl)
    (hf : ∀ x, PortCtl.Work x (f x) := by intro _; exact ⟨⟨rfl, id⟩, rfl, rfl, rfl, rfl, rfl, fun _ h => h⟩) : Work s (t.modPort p f) := by
  refine ⟨h.toLawful.modPort p f (fun x => (hf x).toLawful) fun x => Quad.idents_slots (hf x).idents, h.powered, h.startCause,
    h.nextOid, h.laid, h.bus, fun q => ?_⟩
  by_cases hq : q = p
  · subst hq; rw [State.port_modPort_self]; exact (h.link q).trans (hf _)
  · rw [State.port_modPort_ne _ _ hq]; exact h.link q

/-- An update of every drive. -/
theorem Lawful.mapDrives (h : Lawful s t) (f : Drive → Drive)
    (hf : ∀ x, Drive.Lawful s.m x (f x) := by intro _; exact ⟨rfl, rfl, rfl, id, id⟩) :
    Lawful s { t with drives := t.drives.map f } :=
  ⟨h.pending, h.plugs, h.clock, fun d => by simpa [State.drive] using (h.drive d).trans (hf _), h.port, h.overflows, h.watch,
   h.ring, h.media, fun x => numberLaw_of (h.number x) le_rfl fun _ _ o ho => ⟨o, ho, rfl⟩⟩

theorem Work.mapDrives (h : Work s t) (f : Drive → Drive)
    (hf : ∀ x, Drive.Work s.m x (f x) := by intro _; exact ⟨⟨rfl, rfl, rfl, id, id⟩, rfl, rfl, rfl, rfl⟩) :
    Work s { t with drives := t.drives.map f } :=
  ⟨h.toLawful.mapDrives f fun x => (hf x).toLawful, h.powered, h.startCause, h.nextOid, h.laid,
   fun d => by simpa [State.drive] using (h.bus d).trans (hf _), h.link⟩

/-- An update of every port. -/
theorem Lawful.mapPorts (h : Lawful s t) (f : PortCtl → PortCtl)
    (hf : ∀ x, PortCtl.Lawful x (f x) := by intro _; exact ⟨rfl, id⟩)
    (hs : ∀ x g o, (f x).slots.get g = some o → ∃ r, x.slots.get g = some r ∧ r.oid = o.oid := by
      intro _ _ o ho; exact ⟨o, ho, rfl⟩) : Lawful s { t with ports := t.ports.map f } :=
  ⟨h.pending, h.plugs, h.clock, h.drive, fun p => by simpa [State.port] using (h.port p).trans (hf _), h.overflows, h.watch,
   h.ring, h.media, fun x => numberLaw_of (h.number x) le_rfl fun p g o ho => hs (t.port p) g o (by simpa [State.port] using ho)⟩

theorem Work.mapPorts (h : Work s t) (f : PortCtl → PortCtl)
    (hf : ∀ x, PortCtl.Work x (f x) := by intro _; exact ⟨⟨rfl, id⟩, rfl, rfl, rfl, rfl, rfl, fun _ h => h⟩) :
    Work s { t with ports := t.ports.map f } :=
  ⟨h.toLawful.mapPorts f (fun x => (hf x).toLawful) fun x => Quad.idents_slots (hf x).idents, h.powered, h.startCause,
   h.nextOid, h.laid, h.bus, fun p => by simpa [State.port] using (h.link p).trans (hf _)⟩

/-- An update of parts the relation does not speak of. -/
theorem Work.rest (h : Work s t) {u : State} (h1 : u.pending = t.pending := by rfl) (h2 : u.plugs = t.plugs := by rfl)
    (h3 : u.clock = t.clock := by rfl) (h4 : u.drives = t.drives := by rfl) (h5 : u.ports = t.ports := by rfl)
    (h6 : u.watchOverflows = t.watchOverflows := by rfl) (h7 : u.watch = t.watch := by rfl) (h8 : u.ring = t.ring := by rfl)
    (h9 : u.media = t.media := by rfl) (h10 : u.powered = t.powered := by rfl) (h11 : u.startCause = t.startCause := by rfl)
    (h12 : u.nextOid = t.nextOid := by rfl) : Work s u := by
  have hd : ∀ d, u.drive d = t.drive d := fun d => by rw [State.drive, State.drive, h4]
  have hp : ∀ p, u.port p = t.port p := fun p => by rw [State.port, State.port, h5]
  exact ⟨⟨h1.trans h.pending, h2.trans h.plugs, h3.trans h.clock, fun d => by rw [hd]; exact h.drive d,
    fun p => by rw [hp]; exact h.port p, fun x => by rw [h6]; exact h.overflows x,
    fun x => by rw [h7]; exact h.watch x, fun x => by rw [State.ringLaw, h8]; exact h.ring x,
    fun x => by rw [State.mediaLaw, h9]; exact h.media x,
    fun x => numberLaw_of (h.number x) h12.ge fun p g o ho => by rw [hp] at ho; exact ⟨o, ho, rfl⟩⟩, h10.trans h.powered, h11.trans h.startCause, h12.trans h.nextOid,
    h9.trans h.laid, fun d => by rw [hd]; exact h.bus d, fun p => by rw [hp]; exact h.link p⟩

theorem Work.mapWatch (h : Work s t) (w : List WatchSlot) (hw : w.length = t.watch.length) : Work s { t with watch := w } :=
  ⟨⟨h.pending, h.plugs, h.clock, h.drive, h.port, h.overflows, fun x => hw.trans (h.watch x), h.ring, h.media,
   fun x => numberLaw_of (h.number x) le_rfl fun _ _ o ho => ⟨o, ho, rfl⟩⟩, h.powered,
   h.startCause, h.nextOid, h.laid, h.bus, h.link⟩

theorem Work.setRing (h : Work s t) (r : Ring) (hr : t.ringLaw → r.run.length ≤ 24 ∧ r.boundary < 24) :
    Work s { t with ring := r } :=
  ⟨⟨h.pending, h.plugs, h.clock, h.drive, h.port, h.overflows, h.watch, fun x => hr (h.ring x), h.media,
   fun x => numberLaw_of (h.number x) le_rfl fun _ _ o ho => ⟨o, ho, rfl⟩⟩, h.powered,
   h.startCause, h.nextOid, h.laid, h.bus, h.link⟩

theorem Work.setRun (h : Work s t) (l : List RingSlot) (hl : l.length ≤ t.ring.run.length) : Work s (t.setRun l) :=
  h.setRing _ fun x => ⟨hl.trans x.1, x.2⟩

theorem Lawful.layDown (h : Lawful s t) (d : DriveId) (k : Track) (n : Nat) (f : Frame) : Lawful s (t.layDown d k n f) :=
  ⟨h.pending, h.plugs, h.clock, h.drive, h.port, h.overflows, h.watch, h.ring, fun x => mediaPut_sorted (h.media x) _ _,
   fun x => numberLaw_of (h.number x) le_rfl fun _ _ o ho => ⟨o, ho, rfl⟩⟩

theorem Work.foldl {α : Type} (f : State → α → State) (hf : ∀ u a, Work s u → Work s (f u a)) (l : List α)
    (h : Work s t) : Work s (l.foldl f t) := by
  induction l generalizing t with
  | nil => exact h
  | cons a l ih => exact ih (hf _ _ h)

theorem Lawful.foldl {α : Type} (f : State → α → State) (hf : ∀ u a, Lawful s u → Lawful s (f u a)) (l : List α)
    (h : Lawful s t) : Lawful s (l.foldl f t) := by
  induction l generalizing t with
  | nil => exact h
  | cons a l ih => exact ih (hf _ _ h)

theorem Work.ite {c : Prop} [Decidable c] {a b : State} (ha : c → Work s a) (hb : ¬c → Work s b) :
    Work s (if c then a else b) := by split <;> rename_i hc <;> [exact ha hc; exact hb hc]

theorem Lawful.ite {c : Prop} [Decidable c] {a b : State} (ha : c → Lawful s a) (hb : ¬c → Lawful s b) :
    Lawful s (if c then a else b) := by split <;> rename_i hc <;> [exact ha hc; exact hb hc]

/-! ## The named operations -/

theorem PortCtl.Work.modOrder (c : PortCtl) (oid : Nat) (f : Order → Order) (hf : ∀ o, (f o).ident = o.ident) :
    PortCtl.Work c (c.modOrder oid f) := by
  refine ⟨⟨rfl, id⟩, rfl, rfl, rfl, rfl, ?_, fun _ h => h⟩
  refine Quad.ext_get fun g => ?_
  simp only [PortCtl.idents, PortCtl.modOrder, Quad.get_map]
  cases c.slots.get g with
  | none => rfl
  | some o => simp only [Option.map_some]; split <;> simp [hf]

theorem Work.modOrder (h : Work s t) (oid : Nat) (f : Order → Order) (hf : ∀ o, (f o).ident = o.ident := by intro _; rfl) :
    Work s (t.modOrder oid f) :=
  h.mapPorts _ fun c => .modOrder c oid f hf

theorem Work.setNotice (h : Work s t) (d : DriveId) (k : Byte) : Work s (t.setNotice d k) := h.mapPorts _

theorem Work.setSlot (h : Work s t) (i : Nat) (w : WatchSlot) : Work s (t.setSlot i w) :=
  h.mapWatch _ (List.length_set ..)

theorem Work.setWatch (h : Work s t) (i : Nat) (e : WatchEntry) : Work s (t.setWatch i e) := h.setSlot _ _

theorem Work.setEngine (h : Work s t) (r : ReassignEngine) : Work s (t.setEngine r) := h.rest

theorem Work.engineFree (h : Work s t) : Work s t.engineFree := h.rest

theorem Work.modVerify (h : Work s t) (f : VerifyEngine → VerifyEngine) : Work s (t.modVerify f) := h.rest

theorem Work.setOp (h : Work s t) (d : DriveId) (op : Op) : Work s (t.setOp d op) := h.modDrive d _

theorem Work.modOp (h : Work s t) (d : DriveId) (f : Op → Op) : Work s (t.modOp d f) := h.modDrive d _

theorem Work.modChan (h : Work s t) (d : DriveId) (f : Channel → Channel) (hf : ∀ ch, ch.law s.m → (f ch).law s.m) :
    Work s (t.modChan d f) :=
  h.modDrive d _ fun _ => ⟨⟨rfl, rfl, rfl, id, hf _⟩, rfl, rfl, rfl, rfl⟩

theorem Work.close (h : Work s t) (oid : Nat) : Work s (t.close oid) := h.rest

theorem Work.endOrder (h : Work s t) (oid : Nat) (r : Result) : Work s (t.endOrder oid r) := by
  unfold State.endOrder; split
  · refine Work.close (h.modOrder _ _ fun o => ?_) _
    split <;> rfl
  · exact h

theorem Work.holdResult (h : Work s t) (oid : Nat) (r : Result) : Work s (t.holdResult oid r) := by
  unfold State.holdResult; split
  · exact (h.modOrder _ _).close _
  · exact h

theorem Work.endOrders (h : Work s t) (d : DriveId) (q : Order → Bool) (r : Result) : Work s (t.endOrders d q r) :=
  h.foldl _ (fun _ _ hu => hu.endOrder _ _) _

theorem Work.setDriveState (h : Work s t) (d : DriveId) (st : DriveState) : Work s (t.setDriveState d st) :=
  h.modDrive d _ fun x => by
    split <;> exact ⟨⟨rfl, rfl, rfl, id, id⟩, rfl, rfl, rfl, rfl⟩

/-! ## Tallies -/

/-- A count of a drive's tallies keeps them in range. -/
def TallyUp (f : DriveTallies → DriveTallies) : Prop :=
  ∀ t : DriveTallies, (∀ n ∈ t.counters, n ≤ 65535) → ∀ n ∈ (f t).counters, n ≤ 65535

theorem Work.tallyDrive (h : Work s t) (d : DriveId) {f : DriveTallies → DriveTallies} (hf : TallyUp f) :
    Work s (t.tallyDrive d f) :=
  h.modDrive d _ fun x => ⟨⟨rfl, rfl, rfl, hf x.tally, id⟩, rfl, rfl, rfl, rfl⟩

theorem tallyUp_of {f : DriveTallies → DriveTallies}
    (hf : ∀ t : DriveTallies, ∀ n ∈ (f t).counters, n ∈ t.counters ∨ ∃ k ∈ t.counters, n = bump k) : TallyUp f := by
  intro t ht n hn
  rcases hf t n hn with h | ⟨k, hk, rfl⟩
  · exact ht n h
  · exact bump_le (ht k hk)

theorem up_seeks : TallyUp DriveTallies.raiseSeeks := tallyUp_of fun t n hn => by
  simp only [DriveTallies.counters, DriveTallies.raiseSeeks, List.mem_cons] at *
  rcases hn with rfl | hn <;> simp_all
theorem up_hard : TallyUp DriveTallies.raiseHardArrivals := tallyUp_of fun t n hn => by
  simp only [DriveTallies.counters, DriveTallies.raiseHardArrivals, List.mem_cons] at *
  rcases hn with hn | rfl | hn <;> simp_all
theorem up_seekChecks : TallyUp DriveTallies.raiseSeekChecks := tallyUp_of fun t n hn => by
  simp only [DriveTallies.counters, DriveTallies.raiseSeekChecks, List.mem_cons] at *
  rcases hn with hn | hn | rfl | hn <;> simp_all
theorem up_recovered : TallyUp DriveTallies.raiseRecovered := tallyUp_of fun t n hn => by
  simp only [DriveTallies.counters, DriveTallies.raiseRecovered, List.mem_cons] at *
  rcases hn with hn | hn | hn | rfl | hn <;> simp_all
theorem up_unrecovered : TallyUp DriveTallies.raiseUnrecovered := tallyUp_of fun t n hn => by
  simp only [DriveTallies.counters, DriveTallies.raiseUnrecovered, List.mem_cons] at *
  rcases hn with hn | hn | hn | hn | rfl | hn <;> simp_all
theorem up_incomplete : TallyUp DriveTallies.raiseIncomplete := tallyUp_of fun t n hn => by
  simp only [DriveTallies.counters, DriveTallies.raiseIncomplete, List.mem_cons] at *
  rcases hn with hn | hn | hn | hn | hn | rfl | hn <;> simp_all
theorem up_arbiter : TallyUp DriveTallies.raiseArbiterMisses := tallyUp_of fun t n hn => by
  simp only [DriveTallies.counters, DriveTallies.raiseArbiterMisses, List.mem_cons] at *
  rcases hn with hn | hn | hn | hn | hn | hn | rfl | hn <;> simp_all
theorem up_ring : TallyUp DriveTallies.raiseRingMisses := tallyUp_of fun t n hn => by
  simp only [DriveTallies.counters, DriveTallies.raiseRingMisses, List.mem_cons] at *
  rcases hn with hn | hn | hn | hn | hn | hn | hn | rfl | hn <;> simp_all
theorem up_slot : TallyUp DriveTallies.raiseSlotMisses := tallyUp_of fun t n hn => by
  simp only [DriveTallies.counters, DriveTallies.raiseSlotMisses, List.mem_cons] at *
  rcases hn with hn | hn | hn | hn | hn | hn | hn | hn | rfl | hn <;> simp_all
theorem up_reassign : TallyUp DriveTallies.raiseReassignments := tallyUp_of fun t n hn => by
  simp only [DriveTallies.counters, DriveTallies.raiseReassignments, List.mem_cons] at *
  rcases hn with hn | hn | hn | hn | hn | hn | hn | hn | hn | rfl | hn <;> simp_all
theorem up_fail : TallyUp DriveTallies.raiseReassignFailures := tallyUp_of fun t n hn => by
  simp only [DriveTallies.counters, DriveTallies.raiseReassignFailures, List.mem_cons] at *
  rcases hn with hn | hn | hn | hn | hn | hn | hn | hn | hn | hn | hn <;> simp_all

theorem Lawful.protocolError (h : Lawful s t) (p : Port) : Lawful s (t.protocolError p) :=
  h.modPort p _ fun c => ⟨rfl, fun hc n hn => by
    simp only [PortCtl.counters, List.mem_cons, List.not_mem_nil, or_false] at *
    rcases hn with rfl | rfl | rfl <;> first | (exact bump_le (hc _ (by simp))) | exact hc _ (by simp)⟩

theorem Lawful.countRefusal (h : Lawful s t) (p : Port) : Lawful s (t.countRefusal p) :=
  h.modPort p _ fun c => ⟨rfl, fun hc n hn => by
    simp only [PortCtl.counters, List.mem_cons, List.not_mem_nil, or_false] at *
    rcases hn with rfl | rfl | rfl <;> first | (exact bump_le (hc _ (by simp))) | exact hc _ (by simp)⟩

theorem Lawful.countTimeout (h : Lawful s t) (p : Port) : Lawful s (t.countTimeout p) :=
  h.modPort p _ fun c => ⟨rfl, fun hc n hn => by
    simp only [PortCtl.counters, List.mem_cons, List.not_mem_nil, or_false] at *
    rcases hn with rfl | rfl | rfl <;> first | (exact bump_le (hc _ (by simp))) | exact hc _ (by simp)⟩

/-! ## The channel (R25, R31) -/

theorem Channel.law_adopt {m : Nat} {ch : Channel} (h : ch.law m) : ch.adopt.profile.fits := by
  unfold Channel.adopt
  cases hs : ch.staged with
  | none => simpa [hs] using h.profile
  | some p => simpa [hs] using h.staged p hs

theorem Channel.law_stop {m : Nat} {ch : Channel} (h : ch.law m) : ch.stop.law m := by
  unfold Channel.stop
  split
  · exact h
  · exact ⟨h.profile, h.staged, Nat.zero_le _, fun _ => rfl⟩

theorem Channel.law_startSeek {m : Nat} {ch : Channel} (target : Nat) (h : ch.law m) : (ch.startSeek target).law m :=
  ⟨Channel.law_adopt h, by simp [Channel.startSeek, Channel.adopt], Nat.zero_le _, fun _ => rfl⟩

theorem Channel.law_startRecal {m : Nat} {ch : Channel} (g : Geometry) (h : ch.law m) : (ch.startRecal m g).law m :=
  ⟨Channel.law_adopt h, by simp [Channel.startRecal, Channel.adopt], Nat.mul_le_mul_right m (Channel.law_adopt h),
   by simp [Channel.startRecal]⟩

theorem nextVelocity_le {au vmaxu cu v r : Nat} (phase : Phase) (hc : cu ≤ vmaxu) (hv : v ≤ vmaxu) :
    (nextVelocity au vmaxu cu phase v r).2 ≤ vmaxu := by
  unfold nextVelocity
  repeat' split
  all_goals simp only
  all_goals omega

theorem nextVelocity_phase (au vmaxu cu v r : Nat) (phase : Phase) :
    (nextVelocity au vmaxu cu phase v r).1 = .decel ∨ (nextVelocity au vmaxu cu phase v r).1 = .cruise ∨
      (nextVelocity au vmaxu cu phase v r).1 = .accel := by
  unfold nextVelocity
  repeat' split
  all_goals simp

theorem Channel.law_seekStep {m : Nat} {ch : Channel} (h : ch.law m) : (ch.seekStep m).law m := by
  unfold Channel.seekStep
  dsimp only
  split
  · refine ⟨h.profile, h.staged, nextVelocity_le _ (Nat.mul_le_mul_right m h.profile) h.velocity, fun hp => ?_⟩
    rcases nextVelocity_phase (ch.profile.au m) (ch.profile.vmaxu m) (ch.profile.cu m) ch.vel ch.remaining ch.phase with e | e | e <;>
      simp [e] at hp
  · exact ⟨h.profile, h.staged, Nat.zero_le _, fun _ => rfl⟩

theorem Channel.law_settleStep {m : Nat} {ch : Channel} (hp : ch.phase = .settling) (h : ch.law m) : ch.settleStep.law m :=
  ⟨h.profile, h.staged, h.velocity, fun _ => h.rest (.inr (.inl hp))⟩

theorem Channel.law_recalStep {m : Nat} {ch : Channel} (home : Bool) (hp : ch.phase = .recal) (h : ch.law m) :
    (ch.recalStep m home).law m := by
  unfold Channel.recalStep
  split
  · exact ⟨h.profile, h.staged, Nat.zero_le _, fun _ => rfl⟩
  · split
    · exact ⟨h.profile, h.staged, Nat.zero_le _, fun _ => rfl⟩
    · exact ⟨h.profile, h.staged, h.velocity, by simp [hp]⟩

theorem Channel.law_update {m : Nat} {ch : Channel} (home : Bool) (h : ch.law m) : (ch.update m home).law m := by
  unfold Channel.update
  split
  · exact Channel.law_seekStep h
  · exact Channel.law_seekStep h
  · exact Channel.law_seekStep h
  · next hp => exact Channel.law_settleStep hp h
  · next hp => exact Channel.law_recalStep home hp h
  · exact h
  · exact h

theorem Channel.law_retarget {m : Nat} {ch : Channel} (target : Nat) (h : ch.law m) : ({ ch with target := target } : Channel).law m :=
  ⟨h.profile, h.staged, h.velocity, h.rest⟩

theorem Work.stopChannel (h : Work s t) (d : DriveId) : Work s (t.stopChannel d) :=
  h.modChan d _ fun _ => Channel.law_stop

end Sys2Proof.Machine
end

