-- ==== Sys2Proof/Laws/LawfulWork.lean ====
section
/-! SUPPORT. The operations of the sequencers, the staging store, the watch list and the engines are lawful. -/

set_option Elab.async false

namespace Sys2Proof.Machine

variable {s t : State}

/-! ## Watch list -/

theorem Work.candidate (h : Work s t) (i : Nat) (e : WatchEntry) (c : Cause) : Work s (t.candidate i e c) :=
  (h.setWatch _ _).setNotice _ _

theorem Work.overflowWatch (h : Work s t) : Work s t.overflowWatch :=
  ⟨⟨h.pending, h.plugs, h.clock, h.drive, h.port, fun x => bump_le (h.overflows x), h.watch, h.ring, h.media,
   fun x => numberLaw_of (h.number x) le_rfl fun _ _ o ho => ⟨o, ho, rfl⟩⟩, h.powered,
   h.startCause, h.nextOid, h.laid, h.bus, h.link⟩

theorem Work.recoveredReport (h : Work s t) (d : DriveId) (k : Track) : Work s (t.recoveredReport d k) := by
  unfold State.recoveredReport
  repeat' (first | split | dsimp only)
  all_goals first | exact h | exact h.overflowWatch | exact h.candidate _ _ _ | exact h.setWatch _ _

theorem Work.unrecoveredReport (h : Work s t) (d : DriveId) (k : Track) : Work s (t.unrecoveredReport d k) := by
  unfold State.unrecoveredReport
  repeat' split
  all_goals first | exact h | exact h.overflowWatch | exact h.candidate _ _ _ | exact h.setWatch _ _

theorem Work.shortfallReport (h : Work s t) (d : DriveId) (k : Track) : Work s (t.shortfallReport d k) := by
  unfold State.shortfallReport
  repeat' split
  all_goals first | exact h | exact h.overflowWatch | exact h.candidate _ _ _

theorem Work.forgetWatch (h : Work s t) (d : DriveId) (k : Track) : Work s (t.forgetWatch d k) := by
  unfold State.forgetWatch
  split <;> first | exact h | exact h.setSlot _ _

theorem Work.forgetDrive (h : Work s t) (d : DriveId) : Work s (t.forgetDrive d) := h.mapWatch _ (List.length_map ..)

theorem Work.expireWatch (h : Work s t) (i : Nat) : Work s (t.expireWatch i) := by
  unfold State.expireWatch
  split
  · exact h
  · split <;> first | exact h | exact h.setSlot _ _

theorem Work.expireAll (h : Work s t) : Work s t.expireAll := h.mapWatch _ (List.length_map ..)

/-! ## Staging store -/

theorem Work.ringTake (h : Work s t) (op : Op) : Work s (t.ringTake op) := by
  unfold State.ringTake
  split
  · exact h
  · next hf =>
    refine h.setRing _ fun x => ⟨?_, x.2⟩
    simp only [Ring.full, decide_eq_true_eq] at hf
    simp only [List.length_append, List.length_cons, List.length_nil]
    omega

theorem Work.ringBack (h : Work s t) : Work s t.ringBack := by
  unfold State.ringBack
  split
  · exact h.setRun _ (by simp)
  · exact h

theorem Work.ringGood (h : Work s t) (p : Payload) : Work s (t.ringGood p) := by
  unfold State.ringGood
  split
  · next x hx =>
    split
    · refine h.setRun _ ?_
      have : t.ring.run ≠ [] := by rintro e; simp [e] at hx
      have := List.length_pos_iff.mpr this
      simp only [List.length_append, List.length_dropLast, List.length_cons, List.length_nil]
      omega
    · exact h
  · exact h

theorem Work.ringDiscard (h : Work s t) (l : List Nat) : Work s (t.ringDiscard l) := h.setRun _ (by simp)

theorem Work.ringTaken (h : Work s t) (a b : Nat) : Work s (t.ringTaken a b) := h.setRun _ (by simp)

theorem Work.setWslot (h : Work s t) (i : Fin 8) (w : WriteSlot) : Work s (t.setWslot i w) := h.rest

theorem Work.giveSlot (h : Work s t) (i : Fin 8) (p : Port) (o : Order) : Work s (t.giveSlot i p o) := by
  unfold State.giveSlot
  exact (h.setWslot i _).modPort p _

theorem Work.freeSlot (h : Work s t) (i : Fin 8) : Work s (t.freeSlot i) := by
  unfold State.freeSlot
  dsimp only
  split
  · exact h.setWslot _ _
  · next oid rest _ =>
    have h1 : Work s { t.setWslot i WriteSlot.free with waitList := rest } := (h.setWslot i WriteSlot.free).rest
    split
    · exact h1
    · next p o _ =>
      split
      · exact (h1.giveSlot i p o).rest
      · exact h1.giveSlot i p o

theorem Work.freeSlots (h : Work s t) (l : List Nat) : Work s (t.freeSlots l) :=
  h.foldl _ (fun _ _ hu => .ite (fun _ => hu.freeSlot _) fun _ => hu) _

theorem Work.setSlotState (h : Work s t) (a b : Nat) (st : WriteState) : Work s (t.setSlotState a b st) := by
  unfold State.setSlotState
  split <;> first | exact h | exact h.setWslot _ _

theorem Work.leaveWaitList (h : Work s t) (l : List Nat) : Work s (t.leaveWaitList l) := h.rest

theorem Work.dropRequests (h : Work s t) (l : List Nat) : Work s (t.dropRequests l) := h.mapPorts _

/-! ## Data path -/

theorem Work.takePlace (h : Work s t) (op : Op) : Work s (t.takePlace op) := by
  unfold State.takePlace
  split <;> first | exact h | exact h.ringTake _ | exact h.setSlotState _ _ _

theorem Work.giveBack (h : Work s t) (op : Op) : Work s (t.giveBack op) := by
  unfold State.giveBack
  split <;> first | exact h | exact h.ringBack | exact h.setSlotState _ _ _

theorem Work.setPath (h : Work s t) (p : DataPath) : Work s { t with path := p } := h.rest

theorem Work.release (h : Work s t) : Work s t.release := h.setPath _

theorem Work.grant (h : Work s t) (d : DriveId) (op : Op) : Work s (t.grant d op) := by
  unfold State.grant
  exact ((h.modDrive d _).takePlace op).setPath _

theorem Work.countMiss (h : Work s t) (d : DriveId) (op : Op) : Work s (t.countMiss d op) := by
  unfold State.countMiss
  split <;> first | exact h | exact h.tallyDrive _ up_ring | exact h.tallyDrive _ up_slot

theorem Work.consider (h : Work s t) (d : DriveId) (op : Op) : Work s (t.consider d op) := by
  unfold State.consider
  exact .ite (fun _ => .ite (fun _ => h.modDrive d _) fun _ => h.countMiss _ _) fun _ => h

theorem Work.planContinuation (h : Work s t) (d : DriveId) (op : Op) : Work s (t.planContinuation d op).1 := by
  unfold State.planContinuation
  dsimp only
  repeat' split
  all_goals first | exact h | exact h.countMiss _ _

theorem Work.beginTransfer (h : Work s t) (d : DriveId) (op : Op) (x : Xfer) : Work s (t.beginTransfer d op x) := by
  unfold State.beginTransfer
  exact (Work.planContinuation (.ite (fun _ => (h.takePlace op).setPath _) fun _ => h) d op).setPath _

theorem Lawful.tear (h : Lawful s t) (d : DriveId) (k : Track) (n : Nat) (f : Frame) : Lawful s (t.tear d k n f) :=
  (h.layDown d k n _).work (Work.refl _).rest

theorem Lawful.cutOff (h : Lawful s t) (d : DriveId) : Lawful s (t.cutOff d) := by
  unfold State.cutOff
  split
  · split
    · next op x _ _ =>
      dsimp only
      have h1 : Lawful s (match x.frame with
          | some f => if x.begun then t.tear d op.phys x.sector f else t
          | none => t) := by
        split
        · exact .ite (fun _ => h.tear _ _ _ _) fun _ => h
        · exact h
      exact (Lawful.ite (fun _ => h1) fun _ => h1.work ((Work.refl _).giveBack _)).work (Work.refl _).release
    · exact h.work (Work.refl _).release
  · exact h

theorem Work.abandonGrant (h : Work s t) (op : Op) (x : Xfer) : Work s (t.abandonGrant op x) :=
  (Work.ite (fun _ => h) fun _ => h.giveBack op).release

/-! ## The ends of operations and orders -/

theorem Work.closeVerify (h : Work s t) (oid : Nat) : Work s (t.closeVerify oid) :=
  (h.modOrder oid fun o => { o with body := t.verify.wholeTracks.body, done := t.verify.verified }).rest

theorem Work.clearOp (h : Work s t) (d : DriveId) : Work s (t.clearOp d) := by
  unfold State.clearOp
  refine Work.modDrive ?_ d _
  split
  · exact .ite (fun _ => h.closeVerify _) fun _ => h
  · exact h

theorem Work.windDown (h : Work s t) (d : DriveId) : Work s (t.windDown d) := by
  unfold State.windDown
  refine .ite (fun _ => ?_) fun _ => h.clearOp d
  have h1 : Work s (t.modDrive d fun x =>
      { x with cur := x.cur.map fun op => { op with ended := true }, request := false }) := h.modDrive d _
  dsimp only
  split
  · exact .ite (fun _ => h1.release.clearOp d) fun _ => h1.setPath _
  · exact h1

theorem Work.stopOps (h : Work s t) (l : List Nat) (soft : Bool) : Work s (t.stopOps l soft) := by
  refine h.foldl _ (fun u d hu => ?_) _
  split
  · exact .ite (fun _ => .ite (fun _ => hu.modOp _ _) fun _ => hu.windDown _) fun _ => hu
  · exact hu

theorem Work.leaveQueues (h : Work s t) (l : List Nat) : Work s (t.leaveQueues l) := h.mapDrives _

theorem Work.endTogether (h : Work s t) (l : List Nat) (r : Result) (soft : Bool) : Work s (t.endTogether l r soft) := by
  unfold State.endTogether
  have h1 : Work s (l.foldl (fun s oid => s.endOrder oid r) t) := h.foldl _ (fun _ _ hu => hu.endOrder _ _) _
  exact (((((h1.leaveWaitList l).leaveQueues l).ringDiscard l).dropRequests l).stopOps l soft).freeSlots l

theorem Drive.Work.modEntry (m : Nat) (x : Drive) (k : Track) (f : SpareEntry → SpareEntry) :
    Drive.Work m x (x.modEntry k f) := ⟨⟨rfl, rfl, rfl, id, id⟩, rfl, rfl, rfl, rfl⟩

theorem Drive.Work.dropEntry (m : Nat) (x : Drive) (k : Track) : Drive.Work m x (x.dropEntry k) := ⟨⟨rfl, rfl, rfl, id, id⟩, rfl, rfl, rfl, rfl⟩

theorem Drive.Work.markTrack (m : Nat) (x : Drive) (k : Track) (st : PoolState) : Drive.Work m x (x.markTrack k st) := by
  unfold Drive.markTrack
  split <;> exact ⟨⟨rfl, rfl, rfl, id, id⟩, rfl, rfl, rfl, rfl⟩

theorem Drive.Work.releaseTrack (m : Nat) (x : Drive) (k : Track) : Drive.Work m x (x.releaseTrack k) := by
  unfold Drive.releaseTrack
  split
  · exact .refl _ _
  · split <;> exact ⟨⟨rfl, rfl, rfl, id, id⟩, rfl, rfl, rfl, rfl⟩

theorem Drive.Work.addEntry (m : Nat) (x : Drive) (k a : Track) (p : Bool) (o : Origin) :
    Drive.Work m x (x.addEntry k a p o) := by
  unfold Drive.addEntry
  split <;> exact ⟨⟨rfl, rfl, rfl, id, id⟩, rfl, rfl, rfl, rfl⟩

theorem Drive.Work.mapChanged (m : Nat) (x : Drive) : Drive.Work m x x.mapChanged := ⟨⟨rfl, rfl, rfl, id, id⟩, rfl, rfl, rfl, rfl⟩

theorem Drive.Work.beginSparing (m : Nat) (x : Drive) (k : Track) (n : Nat) : Drive.Work m x (x.beginSparing k n) := by
  unfold Drive.beginSparing
  dsimp only
  split
  · exact (Drive.Work.markTrack m x _ _).trans (.addEntry _ _ _ _ _ _)
  · exact (Drive.Work.markTrack m x _ _).trans (.modEntry _ _ _ _)

theorem Drive.Work.killTrial (m : Nat) (x : Drive) (k : Track) : Drive.Work m x (x.killTrial k) := by
  unfold Drive.killTrial
  split <;> first | exact .refl _ _ | exact .markTrack _ _ _ _

theorem Drive.Work.nextTrial (m : Nat) (x : Drive) (k : Track) (n : Nat) : Drive.Work m x (x.nextTrial k n) :=
  (Drive.Work.markTrack m x _ _).trans (.modEntry _ _ _ _)

theorem Drive.Work.sparingDone (m : Nat) (x : Drive) (k : Track) (o : Origin) : Drive.Work m x (x.sparingDone k o) := by
  unfold Drive.sparingDone
  repeat' (first | split | dsimp only)
  all_goals first
    | exact .refl _ _
    | exact .modEntry _ _ _ _
    | exact (Drive.Work.markTrack m x _ _).trans (.modEntry _ _ _ _)

theorem Drive.Work.sparingUndone (m : Nat) (x : Drive) (k : Track) : Drive.Work m x (x.sparingUndone k) := by
  unfold Drive.sparingUndone
  repeat' split
  all_goals first
    | exact .refl _ _
    | exact (Drive.Work.releaseTrack m x _).trans (.dropEntry _ _ _)
    | exact (Drive.Work.releaseTrack m x _).trans (.modEntry _ _ _ _)

theorem Drive.Work.spareByVerify (m : Nat) (x : Drive) (k : Track) (n : Nat) : Drive.Work m x (x.spareByVerify k n) := by
  unfold Drive.spareByVerify
  dsimp only
  split
  · exact (Drive.Work.markTrack m x _ _).trans (.addEntry _ _ _ _ _ _)
  · exact ((Drive.Work.markTrack m x _ _).trans (.markTrack _ _ _ _)).trans (.modEntry _ _ _ _)

theorem Work.mapChanged (h : Work s t) (d : DriveId) : Work s (t.mapChanged d) := h.modDrive d _

theorem Work.abortReassign (h : Work s t) (d : DriveId) : Work s (t.abortReassign d) := by
  unfold State.abortReassign
  split
  · split
    · exact ((h.modDrive d _ fun x => .sparingUndone _ _ _).setWatch _ _).engineFree
    · exact (h.modDrive d _).engineFree
  · exact h

/-! ## Entries to drive states -/

theorem Work.endStateOrders (h : Work s t) (d : DriveId) (k : List OrderKind) (r : Result) :
    Work s (t.endStateOrders d k r) := h.endOrders _ _ _

theorem Work.enterRecalibrating (h : Work s t) (d : DriveId) : Work s (t.enterRecalibrating d) :=
  (h.setDriveState d _).modDrive d _

theorem Work.enterReady (h : Work s t) (d : DriveId) : Work s (t.enterReady d) :=
  (((h.setDriveState d .ready).modDrive d fun x => { x with mapHeld := true }).setNotice d _).endStateOrders d _ _

theorem Work.enterMapLost (h : Work s t) (d : DriveId) : Work s (t.enterMapLost d) := by
  unfold State.enterMapLost
  exact ((((h.setDriveState d .mapLost).modDrive d fun x => x.emptyMap).modDrive d
    fun x => { x with mapHeld := false }).setNotice d _).endTogether _ _ _

theorem Work.enterSpinningUp (h : Work s t) (d : DriveId) : Work s (t.enterSpinningUp d) :=
  (h.setDriveState d _).modDrive d _

theorem Work.mapStep (h : Work s t) (d : DriveId) : Work s (t.mapStep d) :=
  .ite (fun _ => (h.setDriveState d _).modDrive d _) fun _ =>
    .ite (fun _ => h.enterReady d) fun _ => (h.setDriveState d _).modDrive d _

theorem Work.cutMapWrite (h : Work s t) (d : DriveId) (st : MapState) : Work s (t.cutMapWrite d st) := by
  unfold State.cutMapWrite
  split
  · exact .ite (fun _ => h.modDrive d _) fun _ => h
  · exact h

theorem Lawful.stopDrive (h : Lawful s t) (d : DriveId) (r : Result) (ms : MapState) (k : Option Nat) :
    Lawful s (t.stopDrive d r ms k) :=
  (h.cutOff d).work ((((((Work.refl _).cutMapWrite d ms).abortReassign d).clearOp d).endTogether _ r false).modDrive d _)

theorem Lawful.enterNotReady (h : Lawful s t) (d : DriveId) : Lawful s (t.enterNotReady d) :=
  (h.stopDrive d .notReady .unsaved none).work ((((Work.refl _).stopChannel d).setDriveState d .notReady).setNotice d _)

/-! ## Motion -/

theorem Work.reachTransfer (h : Work s t) (d : DriveId) : Work s (t.reachTransfer d) := by
  unfold State.reachTransfer
  split
  · exact h
  · next op _ =>
    have h1 : Work s (t.modDrive d fun x => { x with headSel := op.phys.head, cur := some { op with stage := .transfer } }) :=
      h.modDrive d _
    exact .ite (fun _ => (h1.clearOp d).endOrder _ _) fun _ => h1

theorem Work.recalFor (h : Work s t) (d : DriveId) (n : Option Nat) : Work s (t.recalFor d n) := by
  unfold State.recalFor
  refine .ite (fun _ => h.modOp d _) fun _ => ?_
  split
  · exact h
  · next g _ => exact (h.modChan d _ fun ch hc => by rw [h.m]; exact Channel.law_startRecal g hc).modOp d _

theorem Work.beginSeek (h : Work s t) (d : DriveId) (n : Nat) (g : Goal) : Work s (t.beginSeek d n g) :=
  ((h.modDrive d (fun x => { x with chan := x.chan.startSeek (x.targetIn n) }) fun _ =>
    ⟨⟨rfl, rfl, rfl, id, Channel.law_startSeek _⟩, rfl, rfl, rfl, rfl⟩).tallyDrive d up_seeks).modOp d _

theorem Work.seekTo (h : Work s t) (d : DriveId) (n : Nat) : Work s (t.seekTo d n) :=
  .ite (fun _ => h.modOp d _) fun _ => .ite
    (fun _ => .ite (fun _ => (h.modChan d _ fun _ hc => Channel.law_retarget n hc).reachTransfer d) fun _ => h.beginSeek d n _)
    fun _ => h.recalFor d _

theorem Work.moveToTrack (h : Work s t) (d : DriveId) (n : Nat) (op : Op) : Work s (t.moveToTrack d n op) :=
  .ite (fun _ => (h.setOp d op).reachTransfer d) fun _ => (h.setOp d op).seekTo d _

/-! ## MAP WRITE and MAP LOAD -/

theorem Work.bindCommits (h : Work s t) (d : DriveId) : Work s (t.bindCommits d) :=
  h.foldl _ (fun _ _ hu => hu.modOrder _ _) _

theorem Work.startMapWrite (h : Work s t) (d : DriveId) : Work s (t.startMapWrite d) := by
  unfold State.startMapWrite
  split
  · exact h
  · exact ((h.bindCommits d).modDrive d _).seekTo d _

theorem Work.endMapWrite (h : Work s t) (d : DriveId) (ok : Bool) : Work s (t.endMapWrite d ok) := by
  unfold State.endMapWrite
  have h1 : Work s ((t.clearOp d).modDrive d fun x => { x with mapState := x.mapState.afterWrite ok }) :=
    (h.clearOp d).modDrive d _
  have h2 := (Work.ite (c := ok = true) (fun _ => h1) fun _ => h1.setNotice d noticeMapLost).endOrders d
    (fun o => o.kind = .commitMap && o.bound) (if ok then .complete else .dataCheck)
  exact .ite (fun _ => h2.enterReady d) fun _ => h2

theorem Work.mapSectorWritten (h : Work s t) (d : DriveId) (op : Op) : Work s (t.mapSectorWritten d op) :=
  .ite (fun _ => h.setOp d _) fun _ => h.setOp d _

theorem Work.mapReadBackFailed (h : Work s t) (d : DriveId) (op : Op) (c : Bool) : Work s (t.mapReadBackFailed d op c) := by
  unfold State.mapReadBackFailed
  have h1 : Work s (if c then t.tallyDrive d DriveTallies.raiseSeekChecks else t) :=
    .ite (fun _ => h.tallyDrive d up_seekChecks) fun _ => h
  exact .ite (fun _ => .ite (fun _ => (h1.setOp d _).recalFor d _) fun _ => h1.setOp d _) fun _ => h1.endMapWrite d _

theorem Work.mapReadBack (h : Work s t) (d : DriveId) (op : Op) (o : ReadOutcome) : Work s (t.mapReadBack d op o) := by
  unfold State.mapReadBack
  split
  · exact .ite (fun _ => .ite (fun _ => h.setOp d _) fun _ => h.endMapWrite d _) fun _ => h.mapReadBackFailed d op _
  all_goals exact h.mapReadBackFailed d op _

theorem Work.startMapLoad (h : Work s t) (d : DriveId) : Work s (t.startMapLoad d) := by
  unfold State.startMapLoad
  split
  · exact h
  · exact (h.setOp d _).seekTo d _

theorem Work.refuseMap (h : Work s t) (d : DriveId) : Work s (t.refuseMap d) := (h.clearOp d).enterMapLost d

theorem Work.checkMap (h : Work s t) (d : DriveId) (op : Op) : Work s (t.checkMap d op) := by
  unfold State.checkMap
  split
  · exact .ite (fun _ => ((h.clearOp d).modDrive d _).enterReady d) fun _ => h.refuseMap d
  · exact h.refuseMap d

theorem Work.mapLoadAdvance (h : Work s t) (d : DriveId) (op : Op) : Work s (t.mapLoadAdvance d op) :=
  .ite (fun _ => h.setOp d _) fun _ => h.checkMap d op

/-! ## The reassignment engine -/

theorem Work.takeCandidate (h : Work s t) (i : Nat) : Work s (t.takeCandidate i) := by
  unfold State.takeCandidate
  split
  · exact h
  · exact (h.setEngine _).modDrive _ _

theorem Work.endWaiting (h : Work s t) (d : DriveId) (k : Track) (r : Result) : Work s (t.endWaiting d k r) :=
  h.endOrders _ _ _

theorem Work.countReassignFailure (h : Work s t) (d : DriveId) : Work s (t.countReassignFailure d) :=
  (h.tallyDrive d up_fail).setNotice d _

theorem Work.reassignStuck (h : Work s t) (d : DriveId) (i : Nat) (e : WatchEntry) : Work s (t.reassignStuck d i e) :=
  (((h.setWatch i _).countReassignFailure d).endWaiting d _ _).engineFree

theorem Work.reassignBegin (h : Work s t) (d : DriveId) (i : Nat) (e : WatchEntry) (n : Nat) :
    Work s (t.reassignBegin d i e n) :=
  ((((h.modDrive d _ fun x => (Drive.Work.beginSparing _ x _ _).trans (.mapChanged _ _)).setSlot i _).setEngine _).setOp d
    _).seekTo d _

theorem Work.startReassign (h : Work s t) (d : DriveId) : Work s (t.startReassign d) := by
  unfold State.startReassign
  repeat' split
  all_goals first | exact h | exact h.engineFree | exact h.reassignStuck _ _ _ | exact h.reassignBegin _ _ _ _

theorem Work.setPlace (h : Work s t) (i : Nat) (p : BufPlace) : Work s (t.setPlace i p) := h.setEngine _

theorem Work.reassignWrite (h : Work s t) (d : DriveId) (op : Op) : Work s (t.reassignWrite d op) := by
  unfold State.reassignWrite
  split
  · exact h
  · exact (h.setOp d _).seekTo d _

theorem Work.reassignAdvance (h : Work s t) (d : DriveId) (op : Op) : Work s (t.reassignAdvance d op) :=
  .ite (fun _ => h.setOp d _) fun _ => h.reassignWrite d op

theorem Work.reassignWritten (h : Work s t) (d : DriveId) (op : Op) : Work s (t.reassignWritten d op) :=
  .ite (fun _ => h.setOp d _) fun _ => h.setOp d _

theorem Work.reassignFail (h : Work s t) (d : DriveId) : Work s (t.reassignFail d) := by
  unfold State.reassignFail
  split
  · exact (((((h.modDrive d _ fun x => (Drive.Work.sparingUndone _ x _).trans (.mapChanged _ _)).setWatch _
      _).countReassignFailure d).endWaiting d _ _).engineFree).clearOp d
  · exact h.engineFree.clearOp d

theorem Work.reassignDone (h : Work s t) (d : DriveId) : Work s (t.reassignDone d) := by
  unfold State.reassignDone
  split
  · exact ((((((h.modDrive d _ fun x => (Drive.Work.sparingDone _ x _ _).trans (.mapChanged _ _)).setSlot _ _).tallyDrive d
      up_reassign).setNotice d _).endWaiting d _ _).engineFree).clearOp d
  · exact h.engineFree.clearOp d

theorem Work.reassignTrialFailed (h : Work s t) (d : DriveId) (op : Op) : Work s (t.reassignTrialFailed d op) := by
  unfold State.reassignTrialFailed
  have h1 : Work s (t.modDrive d fun x => (x.killTrial op.home).mapChanged) :=
    h.modDrive d _ fun x => (Drive.Work.killTrial _ x _).trans (.mapChanged _ _)
  dsimp only
  split
  · exact h1.reassignFail d
  · exact ((h1.modDrive d _ fun x => .nextTrial _ x _ _).setEngine _).reassignWrite d op

theorem Work.reassignSeekCheck (h : Work s t) (d : DriveId) (op : Op) : Work s (t.reassignSeekCheck d op) := by
  unfold State.reassignSeekCheck
  have h1 := h.tallyDrive d up_seekChecks
  exact .ite (fun _ => ((h1.setEngine _).setOp d _).recalFor d _) fun _ => (h1.setEngine _).reassignFail d

theorem Work.reassignReadBack (h : Work s t) (d : DriveId) (op : Op) (o : ReadOutcome) :
    Work s (t.reassignReadBack d op o) :=
  .ite (fun _ => h.reassignSeekCheck d op) fun _ => .ite
    (fun _ => .ite (fun _ => h.setOp d _) fun _ => h.reassignDone d) fun _ => h.reassignTrialFailed d op

/-! ## The verify engine -/

theorem Work.startSurface (h : Work s t) (d : DriveId) (p : Port) (o : Order) : Work s (t.startSurface d p o) := by
  unfold State.startSurface
  split
  · exact h
  · exact ((h.modVerify _).setOp d _).seekTo d _

theorem Work.endSurface (h : Work s t) (d : DriveId) (op : Op) (r : Result) (f : Option SectorAddr) :
    Work s (t.endSurface d op r f) :=
  ((h.modOrder _ _ fun o => by split <;> rfl).endOrder _ _).clearOp d

theorem Work.surfaceTrack (h : Work s t) (d : DriveId) (op : Op) (n : Nat) : Work s (t.surfaceTrack d op n) := by
  unfold State.surfaceTrack
  split
  · exact h
  · exact (h.modVerify _).moveToTrack d _ _

theorem Work.surfaceNext (h : Work s t) (d : DriveId) (op : Op) : Work s (t.surfaceNext d op) := by
  unfold State.surfaceNext
  split
  · exact h.clearOp d
  · exact .ite (fun _ => h.endSurface _ _ _ _) fun _ => h.surfaceTrack _ _ _

theorem Work.trackVerified (h : Work s t) (d : DriveId) (op : Op) : Work s (t.trackVerified d op) :=
  (h.modVerify _).surfaceNext d op

theorem Work.shortfall (h : Work s t) (d : DriveId) (op : Op) (r : Result) : Work s (t.shortfall d op r) :=
  ((h.modVerify _).shortfallReport d _).trackVerified d op

theorem Work.startTrial (h : Work s t) (d : DriveId) (op : Op) : Work s (t.startTrial d op) := by
  unfold State.startTrial
  split
  · exact h.shortfall d op _
  · exact (h.modVerify _).moveToTrack d _ _

theorem Work.judgeTrack (h : Work s t) (d : DriveId) (op : Op) : Work s (t.judgeTrack d op) :=
  .ite (fun _ => (h.modVerify _).trackVerified d op) fun _ => (h.modVerify _).startTrial d op

theorem Work.trialPassed (h : Work s t) (d : DriveId) (op : Op) (n : Nat) : Work s (t.trialPassed d op n) :=
  (((h.modDrive d _ fun x => (Drive.Work.spareByVerify _ x _ _).trans (.mapChanged _ _)).forgetWatch d _).modVerify
    _).trackVerified d op

theorem Work.trialFailed (h : Work s t) (d : DriveId) (op : Op) (n : Nat) : Work s (t.trialFailed d op n) := by
  unfold State.trialFailed
  have h1 : Work s (t.modDrive d fun x => ({ x with pool := x.pool.set n .dead } : Drive).mapChanged) := h.modDrive d _
  exact .ite (fun _ => (h1.modVerify _).startTrial d op) fun _ => (h1.modVerify _).shortfall d op _

theorem Work.surfaceWritten (h : Work s t) (d : DriveId) (op : Op) : Work s (t.surfaceWritten d op) :=
  .ite (fun _ => h.setOp d _) fun _ => (h.modVerify _).setOp d _

theorem Work.surfaceSeekCheck (h : Work s t) (d : DriveId) (op : Op) : Work s (t.surfaceSeekCheck d op) := by
  unfold State.surfaceSeekCheck
  have h1 := (h.tallyDrive d up_seekChecks).modVerify fun v => { v with seekChecks := v.seekChecks + 1 }
  exact .ite (fun _ => ((h1.modVerify _).setOp d _).recalFor d _) fun _ => h1.endSurface d op _ _

theorem Work.surfaceReadBack (h : Work s t) (d : DriveId) (op : Op) (o : ReadOutcome) :
    Work s (t.surfaceReadBack d op o) := by
  unfold State.surfaceReadBack
  refine .ite (fun _ => h.surfaceSeekCheck d op) fun _ => ?_
  have h1 : Work s (if patternPasses d op o then t else t.modVerify fun v => v.countFail op.sector) :=
    .ite (fun _ => h) fun _ => h.modVerify _
  refine .ite (fun _ => h1.setOp d _) fun _ => ?_
  split
  · exact h1.judgeTrack d op
  · exact .ite (fun _ => h1.trialPassed _ _ _) fun _ => h1.trialFailed _ _ _

theorem Work.surfaceFailed (h : Work s t) (op : Op) : Work s (t.surfaceFailed op) := h.modVerify _

theorem Work.surfaceAdvance (h : Work s t) (d : DriveId) (op : Op) : Work s (t.surfaceAdvance d op) :=
  .ite (fun _ => h.setOp d _) fun _ => h.trackVerified d op

end Sys2Proof.Machine
end

