-- ==== Sys2Proof/Laws/LawfulCommands.lean ====
section
/-! SUPPORT. The sequencers, the immediate actions and every command but TABLE PUT and power-on are lawful; TABLE PUT keeps the
laws of the part though it changes the settings. -/

set_option Elab.async false

namespace Sys2Proof.Machine

variable {s t : State}

/-! ## The drive sequencer -/

theorem Work.operationResult (h : Work s t) (op : Op) (r : Result) : Work s (t.operationResult op r) :=
  .ite (fun _ => h.holdResult _ _) fun _ => h.endOrder _ _

theorem Work.endHostOp (h : Work s t) (d : DriveId) (op : Op) (r : Result) : Work s (t.endHostOp d op r) :=
  (((h.operationResult op r).leaveWaitList _).dropRequests _).clearOp d

theorem Work.hostAdvance (h : Work s t) (d : DriveId) (op : Op) : Work s (t.hostAdvance d op) :=
  .ite (fun _ => h.endHostOp d op _) fun _ => .ite (fun _ => h.setOp d _) fun _ => h.moveToTrack d _ _

theorem Work.advance (h : Work s t) (d : DriveId) (op : Op) : Work s (t.advance d op) := by
  unfold State.advance
  split <;> first
    | exact h | exact h.hostAdvance d op | exact h.surfaceAdvance d op | exact h.mapLoadAdvance d op | exact h.reassignAdvance d op

theorem Work.finish (h : Work s t) (d : DriveId) (op : Op) (r : Result) : Work s (t.finish d op r) := by
  unfold State.finish
  have h1 : Work s (if r = .incompleteSector then t.tallyDrive d DriveTallies.raiseIncomplete else t) :=
    .ite (fun _ => h.tallyDrive d up_incomplete) fun _ => h
  split
  · exact h.refuseMap d
  · exact h1.endHostOp d op r
  · exact h1.endHostOp d op r
  · exact h.endSurface d op r _
  all_goals exact h.clearOp d

theorem Work.reachGoal (h : Work s t) (d : DriveId) (g : Goal) : Work s (t.reachGoal d g) := by
  unfold State.reachGoal
  repeat' split
  all_goals first | exact h.reachTransfer d | exact h.advance _ _ | exact h.finish _ _ _ | exact h

theorem Work.toCentre (h : Work s t) (d : DriveId) (op : Op) (g : Goal) : Work s (t.toCentre d op g) :=
  .ite (fun _ => (h.setOp d op).reachGoal d g) fun _ => (h.setOp d op).beginSeek d _ g

theorem Work.noteAttempt (h : Work s t) (op : Op) : Work s (t.noteAttempt op) := by
  unfold State.noteAttempt
  split <;> first | exact h.modOrder _ _ | exact h

theorem Work.countRecovered (h : Work s t) (d : DriveId) (op : Op) : Work s (t.countRecovered d op) :=
  .ite (fun _ => h) fun _ => .ite (fun _ => (h.tallyDrive d up_recovered).recoveredReport d _) fun _ => h.tallyDrive d up_recovered

theorem Work.countUnrecovered (h : Work s t) (d : DriveId) (op : Op) : Work s (t.countUnrecovered d op) :=
  .ite (fun _ => (h.tallyDrive d up_unrecovered).unrecoveredReport d _) fun _ => h

theorem Work.keepGood (h : Work s t) (op : Op) (p : Payload) : Work s (t.keepGood op p) := by
  unfold State.keepGood
  split <;> first | exact h | exact h.modOrder _ _ | exact h.setPlace _ _

theorem Work.sectorGood (h : Work s t) (d : DriveId) (op : Op) (p : Payload) : Work s (t.sectorGood d op p) := by
  unfold State.sectorGood
  dsimp only
  split
  · exact ((h.keepGood op p).setOp d _).advance d _
  · exact ((h.keepGood op p).countRecovered d op).toCentre d _ _

theorem Work.setFailing (h : Work s t) (op : Op) : Work s (t.setFailing op) := h.modOrder _ _

theorem Work.sectorFailed (h : Work s t) (d : DriveId) (op : Op) (r : Result) : Work s (t.sectorFailed d op r) := by
  unfold State.sectorFailed
  have h1 : Work s (if r = .dataCheck then t.countUnrecovered d op else t) :=
    .ite (fun _ => h.countUnrecovered d op) fun _ => h
  have h2 : Work s (if r = .incompleteSector then
      (if r = .dataCheck then t.countUnrecovered d op else t).tallyDrive d DriveTallies.raiseIncomplete
    else if r = .dataCheck then t.countUnrecovered d op else t) := .ite (fun _ => h1.tallyDrive d up_incomplete) fun _ => h1
  dsimp only
  split
  · exact (h1.setPlace _ _).toCentre d _ _
  · exact (h2.surfaceFailed op).toCentre d _ _
  · exact (h1.setFailing op).toCentre d _ _
  · exact (h1.setFailing op).toCentre d _ _
  · exact h1.toCentre d _ _
  all_goals exact h1.clearOp d

theorem Work.ladderNext (h : Work s t) (d : DriveId) (op : Op) : Work s (t.ladderNext d op) := by
  unfold State.ladderNext
  dsimp only
  split
  · exact h.setOp d _
  · exact .ite (fun _ => h.sectorFailed d op _) fun _ => (h.setOp d _).seekTo d _
  · exact h

theorem Work.seekCheck (h : Work s t) (d : DriveId) (op : Op) : Work s (t.seekCheck d op) := by
  unfold State.seekCheck
  have h1 := h.tallyDrive d up_seekChecks
  refine .ite (fun _ => ?_) fun _ => (h1.setOp d _).recalFor d _
  split
  · exact (h1.setFailing op).endHostOp d op _
  · exact (h1.setFailing op).endHostOp d op _
  · exact h1.endSurface d op _ _
  · exact h1.refuseMap d
  all_goals exact h1.clearOp d

theorem Work.ladderRead (h : Work s t) (d : DriveId) (op : Op) (o : ReadOutcome) : Work s (t.ladderRead d op o) := by
  unfold State.ladderRead
  split <;> first
    | exact h.sectorGood _ _ _ | exact h.ladderNext _ _ | exact h.sectorFailed _ _ _
    | exact .ite (fun _ => h.reassignSeekCheck _ _) fun _ => h.seekCheck _ _

theorem Work.readOutcome (h : Work s t) (d : DriveId) (op : Op) (o : ReadOutcome) : Work s (t.readOutcome d op o) := by
  unfold State.readOutcome
  refine .ite (fun _ => ?_) fun _ => h.ladderRead d op o
  split <;> first | exact h | exact h.mapReadBack _ _ _ | exact h.reassignReadBack _ _ _ | exact h.surfaceReadBack _ _ _

theorem Work.lateOutcome (h : Work s t) (d : DriveId) (op : Op) (c : Bool) : Work s (t.lateOutcome d op c) :=
  (Work.ite (fun _ => h.modOrder _ _ fun o => by split <;> rfl) fun _ => h).clearOp d

theorem Work.afterTransfer (h : Work s t) (d : DriveId) (x : Xfer) (good : Bool) : Work s (t.afterTransfer d x good) := by
  unfold State.afterTransfer
  split
  · exact h.release
  · refine .ite (fun _ => ?_) fun _ => h.release
    dsimp only
    split
    · exact h.setPath _
    · exact .ite (fun _ => h.beginTransfer _ _ _) fun _ => h.release

theorem Work.endRead (h : Work s t) (d : DriveId) (op : Op) (x : Xfer) (o : ReadOutcome) : Work s (t.endRead d op x o) := by
  unfold State.endRead
  refine Work.afterTransfer ?_ d x _
  have h1 : ∀ u, Work s u → Work s (u.noteAttempt op) := fun _ hu => hu.noteAttempt op
  have h2 : Work s (if op.kind = .read then
      match o with
      | .good p => t.ringGood p
      | .mismatch _ | .incomplete | .lost | .dataCheck => t.ringBack
    else t) := by
    refine .ite (fun _ => ?_) fun _ => h
    split <;> first | exact h.ringGood _ | exact h.ringBack
  exact .ite (fun _ => (h1 _ h2).lateOutcome _ _ _) fun _ => (h1 _ h2).readOutcome _ _ _

theorem Work.writeWritten (h : Work s t) (d : DriveId) (op : Op) : Work s (t.writeWritten d op) := by
  unfold State.writeWritten
  have h1 : Work s (if op.ended then t.lateOutcome d op true
      else t.modOrder op.oid fun o => { o with done := o.done + 1 }) :=
    .ite (fun _ => h.lateOutcome _ _ _) fun _ => h.modOrder _ _
  have h2 : Work s (match t.slotOf op.oid op.index with
      | some i => (if op.ended then t.lateOutcome d op true
          else t.modOrder op.oid fun o => { o with done := o.done + 1 }).freeSlot i
      | none => if op.ended then t.lateOutcome d op true
          else t.modOrder op.oid fun o => { o with done := o.done + 1 }) := by
    split
    · exact h1.freeSlot _
    · exact h1
  exact .ite (fun _ => h2) fun _ => h2.hostAdvance d op

theorem Work.writeOutcome (h : Work s t) (d : DriveId) (op : Op) : Work s (t.writeOutcome d op) := by
  unfold State.writeOutcome
  split <;> first
    | exact h | exact h.writeWritten _ _ | exact h.mapSectorWritten _ _
    | exact .ite (fun _ => h.clearOp _) fun _ => h.reassignWritten _ _
    | exact .ite (fun _ => h.clearOp _) fun _ => .ite (fun _ => h.surfaceWritten _ _) fun _ => h

theorem Lawful.endWrite (h : Lawful s t) (d : DriveId) (op : Op) (x : Xfer) (f : Frame) : Lawful s (t.endWrite d op x f) :=
  (h.layDown d _ _ f).work (((Work.refl _).writeOutcome d op).afterTransfer d x true)

theorem Work.holderStart (h : Work s t) (d : DriveId) (op : Op) (x : Xfer) (n : Nat) : Work s (t.holderStart d op x n) := by
  have h1 := h.abandonGrant op x
  exact .ite (fun _ => h.setPath _) fun _ => .ite (fun _ => h.beginTransfer d op x) fun _ =>
    .ite (fun _ => .ite (fun _ => (h1.clearOp d).freeSlots _) fun _ => h1.clearOp d) fun _ => h1

theorem Work.seekerStart (h : Work s t) (d : DriveId) (op : Op) (n : Nat) : Work s (t.seekerStart d op n) :=
  .ite (fun _ => .ite (fun _ => (h.modDrive d _).tallyDrive d up_arbiter) fun _ => h) fun _ =>
    .ite (fun _ => h.consider d op) fun _ => h

theorem Work.sectorStart (h : Work s t) (d : DriveId) (n : Nat) : Work s (t.sectorStart d n) := by
  unfold State.sectorStart
  split
  · exact h
  · refine .ite (fun _ => ?_) fun _ => h.seekerStart _ _ _
    split
    · exact h.holderStart _ _ _ _
    · exact h

theorem Work.makeWaiting (h : Work s t) (d : DriveId) (m : Motion) : Work s (t.makeWaiting d m) := by
  unfold State.makeWaiting
  split <;> first | exact h.seekTo _ _ | exact h.recalFor _ _

theorem Work.onCylinderReport (h : Work s t) (d : DriveId) : Work s (t.onCylinderReport d) := by
  unfold State.onCylinderReport
  repeat' split
  all_goals first | exact h | exact h.makeWaiting _ _ | exact h.reachGoal _ _

theorem Work.homeFoundReport (h : Work s t) (d : DriveId) : Work s (t.homeFoundReport d) := by
  unfold State.homeFoundReport
  repeat' split
  all_goals first
    | exact h | exact h.makeWaiting _ _ | exact h.seekTo _ _
    | exact .ite (fun _ => (h.clearOp d).mapStep d) fun _ => h.clearOp d

/-- One update of a channel: the work up to its report. -/
theorem Work.channelStep (h : Work s t) (d : DriveId) (home : Bool) : Work s
    (if (t.drive d).chan.updateHard t.m then (t.modChan d fun ch => ch.update t.m home).tallyDrive d
      DriveTallies.raiseHardArrivals else t.modChan d fun ch => ch.update t.m home) := by
  have h1 : Work s (t.modChan d fun ch => ch.update t.m home) :=
    h.modChan d _ fun _ hc => by rw [h.m]; exact Channel.law_update home hc
  exact .ite (fun _ => h1.tallyDrive d up_hard) fun _ => h1

theorem Lawful.channelUpdate (h : Lawful s t) (d : DriveId) (home : Bool) : Lawful s (t.channelUpdate d home) := by
  unfold State.channelUpdate
  have h2 := (Work.refl t).channelStep d home
  dsimp only
  split
  · exact h.work h2
  · exact h.work (h2.onCylinderReport d)
  · exact h.work (h2.homeFoundReport d)
  · exact (h.work h2).enterNotReady d

/-! ## Selection and the immediate actions -/

theorem Work.passOver (h : Work s t) (es : List (Port × Order)) (n : Nat) : Work s (t.passOver es n) :=
  h.foldl _ (fun _ _ hu => hu.modOrder _ _) _

theorem Work.startHost (h : Work s t) (d : DriveId) (p : Port) (o : Order) : Work s (t.startHost d p o) :=
  (h.setOp d _).seekTo d _

theorem Work.takeEntry (h : Work s t) (d : DriveId) (es : List (Port × Order)) (c : Choice) : Work s (t.takeEntry d es c) := by
  unfold State.takeEntry
  have h1 : Work s (if c.passes then t.passOver es c.entry.2.oid else t) := .ite (fun _ => h.passOver _ _) fun _ => h
  have h2 := (h1.modDrive d fun x => { x with queue := x.queue.filter fun n => n ≠ c.entry.2.oid, sweepIn := c.sweepIn }).modOrder
    c.entry.2.oid fun o => { o with state := .active }
  exact .ite (fun _ => h2.startSurface _ _ _) fun _ => h2.startHost _ _ _

theorem Work.startInternal (h : Work s t) (d : DriveId) (k : OpKind) : Work s (t.startInternal d k) := by
  cases k <;> simp only [State.startInternal]
  case recalibrate =>
    refine Work.recalFor (Work.setOp (Work.modDrive h d _) d _) d _
  case mapLoad => exact Work.startMapLoad (Work.modDrive h d _) d
  case mapWrite => exact Work.startMapWrite (Work.modDrive h d _) d
  case reassign => exact Work.startReassign (Work.modDrive h d _) d
  all_goals exact h

theorem Work.select {d : DriveId} (h : s.select d = some t) : Work s t := by
  unfold State.select at h
  split at h
  · cases h
  · split at h
    · cases h; exact (Work.refl s).startInternal _ _
    · obtain ⟨c, _, rfl⟩ := Option.map_eq_some_iff.mp h
      exact (Work.refl s).takeEntry _ _ _

theorem Work.actBoundary (h : s.actBoundary = some t) : Work s t := by
  unfold State.actBoundary at h
  split at h
  · cases h
  · next x rest hr =>
    split at h
    all_goals first
      | cases h
        refine (Work.refl s).setRing _ fun hl => ⟨?_, Nat.mod_lt _ (by decide)⟩
        have := hl.1
        rw [hr] at this
        simp only [List.length_cons] at this
        simp only
        omega
      | cases h

theorem Work.queueEnding (h : Work s t) (p : Port) (o : Order) (r : Result) : Work s (t.queueEnding p o r) := by
  unfold State.queueEnding
  have h1 := (h.modOrder o.oid fun x => { x with result := some (x.result.getD r), state := .ending }).modPort p
    (fun c => { c with endings := c.endings ++
      [.ending o.oid o.tag r o.done o.retry o.clamped (if r.hasFailing then o.failing else none) o.body] })
    fun c => ⟨⟨rfl, id⟩, rfl, rfl, rfl, rfl, rfl, fun f hf => by
      simp only [PortCtl.toSend, List.mem_append] at hf ⊢
      tauto⟩
  exact h1.rest

theorem Work.startFrame {p : Port} (hp : s.startFrame p = some t) : Work s t := by
  unfold State.startFrame at hp
  dsimp only at hp
  split at hp
  · cases hp
  · next hs =>
    have hs : (s.port p).sending = none := by simpa using hs
    have key : ∀ f : PortCtl → PortCtl, PortCtl.Work (s.port p) (f (s.port p)) → Work s (s.modPort p f) := by
      intro f hf
      have : s.modPort p f = s.modPort p fun _ => f (s.port p) := rfl
      have h1 := Work.refl s
      refine ⟨h1.toLawful.modPort' p f hf.toLawful (Quad.idents_slots hf.idents), h1.powered, h1.startCause, h1.nextOid, h1.laid,
        h1.bus, fun q => ?_⟩
      by_cases hq : q = p
      · subst hq; rw [State.port_modPort_self]; exact hf
      · rw [State.port_modPort_ne _ _ hq]; exact .refl _
    split at hp
    · next f rest _ _ _ _ hr =>
      cases hp
      exact key _ ⟨⟨rfl, id⟩, rfl, rfl, rfl, rfl, rfl, fun g hg => by
        simp only [PortCtl.toSend, hs, hr, Option.toList_none, Option.toList_some, List.mem_append, List.mem_cons,
          List.not_mem_nil, false_or, or_false] at hg ⊢
        tauto⟩
    · next f rest _ _ _ _ hr =>
      cases hp
      exact key _ ⟨⟨rfl, id⟩, rfl, rfl, rfl, rfl, rfl, fun g hg => by
        simp only [PortCtl.toSend, hs, hr, Option.toList_none, Option.toList_some, List.mem_append, List.mem_cons,
          List.not_mem_nil, false_or, or_false] at hg ⊢
        tauto⟩
    all_goals first
      | cases hp
        exact key _ ⟨⟨rfl, id⟩, rfl, rfl, rfl, rfl, rfl, fun g hg => by
          simp only [PortCtl.toSend, hs, Option.toList_none, List.mem_append, List.not_mem_nil, false_or] at hg ⊢
          tauto⟩
      | cases hp

theorem Work.act (h : s.act = some t) : Work s t := by
  rcases State.act_cases h with h | h | h | h | h | h | h | h | h | h
  · exact .actBoundary h
  · obtain ⟨p, _, rfl⟩ := State.actOffer_eq h; exact (Work.refl s).modPort p _
  · obtain ⟨_, _, _, rfl⟩ | ⟨_, rfl⟩ := State.actSlots_eq h
    · exact (Work.refl s).giveSlot _ _ _
    · exact (Work.refl s).rest
  · obtain ⟨_, rfl⟩ := State.actFence_eq h; exact (Work.refl s).endOrder _ _
  · obtain ⟨_, rfl⟩ | ⟨_, _, _, rfl⟩ := State.actEnding_eq h
    · exact (Work.refl s).rest
    · exact (Work.refl s).queueEnding _ _ _
  · obtain ⟨_, _, rfl⟩ := State.actCandidate_eq h; exact (Work.refl s).takeCandidate _
  · obtain ⟨_, h⟩ := State.actSelect_eq h; exact .select h
  · obtain ⟨_, d, rfl | ⟨_, _, ⟨_, rfl⟩ | rfl⟩⟩ := State.actGrant_eq h
    · exact (Work.refl s).modDrive d _
    · exact (Work.refl s).grant _ _
    · exact ((Work.refl s).modDrive d _).countMiss _ _
  · obtain ⟨_, _, rfl⟩ := State.actSpin_eq h; exact (Work.refl s).enterSpinningUp _
  · unfold State.actSend at h
    obtain ⟨_, _, h⟩ := List.exists_of_findSome?_eq_some h
    exact .startFrame h

theorem Work.settle (h : Work s t) (n : Nat) : Work s (settle n t) :=
  h.trans (settle_rel (P := Work) .refl (fun _ _ _ => .trans) (fun _ _ => .act) n t)

/-! ## The commands of the drives' lines and the timers -/

theorem Work.qualified (h : Work s t) (d : DriveId) : Work s (t.qualified d) :=
  .ite (fun _ => h.enterRecalibrating d) fun _ => (h.setDriveState d _).endStateOrders d _ _

theorem Work.qualify (h : Work s t) (d : DriveId) (n : Nat) : Work s (t.qualify d n) := by
  unfold State.qualify
  exact .ite (fun _ => (h.modDrive d _).qualified d) fun _ => h.modDrive d _

theorem Lawful.indexPulse (h : Lawful s t) (d : DriveId) : Lawful s (t.indexPulse d) := by
  unfold State.indexPulse
  refine .ite (fun _ => h.modDrive d _) fun _ => ?_
  have h1 : Lawful s (t.modDrive d fun x => { x with counter := 0, lastIndex := some t.clock }) := h.modDrive d _
  generalize (t.modDrive d fun x => { x with counter := 0, lastIndex := some t.clock }) = u at h1 ⊢
  have h2 : Work u (if (t.drive d).state.armed then
      u.modDrive d fun x => { x with watchFrom := t.clock, watchLimit := x.twoPeriods } else u) :=
    .ite (fun _ => (Work.refl u).modDrive d _) fun _ => .refl u
  refine h1.work (Work.sectorStart ?_ d 0)
  split
  · exact .ite (fun _ => h2.qualify d _) fun _ => h2
  · exact h2

theorem Lawful.sectorPulse (h : Lawful s t) (d : DriveId) : Lawful s (t.sectorPulse d) :=
  .ite (fun _ => (h.modDrive d _).work ((Work.refl _).sectorStart d _)) fun _ => h

theorem Lawful.positionerUpdate (h : Lawful s t) (d : DriveId) (b : Bool) : Lawful s (t.positionerUpdate d b) :=
  .ite (fun _ => h.channelUpdate d b) fun _ => h

theorem Work.sectorReadEnd (h : Work s t) (d : DriveId) (f : Option Frame) : Work s (t.sectorReadEnd d f) := by
  unfold State.sectorReadEnd
  split
  · exact .ite (fun _ => h.endRead _ _ _ _) fun _ => h
  · exact h

theorem Lawful.sectorWriteEnd (h : Lawful s t) (d : DriveId) : Lawful s (t.sectorWriteEnd d) := by
  unfold State.sectorWriteEnd
  split
  · split
    · exact h.endWrite _ _ _ _
    · exact h
  · exact h

/-! ## The string reset -/

theorem Lawful.tearWrite (h : Lawful s t) : Lawful s t.tearWrite := by
  unfold State.tearWrite
  split
  · exact h.cutOff _
  · exact h

theorem Lawful.cutString (h : Lawful s t) : Lawful s t.cutString :=
  h.tearWrite.work ((Work.refl _).foldl _ (fun _ _ hu => ((hu.cutMapWrite _ _).abortReassign _).clearOp _) _)

theorem Lawful.applyPoll (h : Lawful s t) (d : DriveId) (seen : Option (Fin 16)) : Lawful s (t.applyPoll d seen) := by
  unfold State.applyPoll
  have h1 : Lawful s (t.modDrive d fun x => x.polled seen) :=
    h.modDrive d _ fun x => by unfold Drive.polled; split <;> exact ⟨rfl, rfl, rfl, id, id⟩
  dsimp only
  generalize (t.modDrive d fun x => x.polled seen) = u at h1 ⊢
  have h2 := Work.refl u
  refine h1.work ?_
  cases seen with
  | none => exact h2.setDriveState d _
  | some n =>
    dsimp only
    split
    · exact h2.setDriveState d _
    · exact h2.setDriveState d _
    · exact h2.setDriveState d _
    · exact .ite (fun _ => h2.enterRecalibrating d) fun _ => h2.setDriveState d _
    · exact .ite (fun _ => h2.enterRecalibrating d) fun _ => h2.setDriveState d _
    · exact .ite (fun _ => h2.enterRecalibrating d) fun _ => h2.setDriveState d _
    · exact .ite (fun _ => h2.enterRecalibrating d) fun _ => h2.setDriveState d _
    · exact .ite (fun _ => h2.modDrive d _) fun _ => h2.setDriveState d _
    · exact .ite (fun _ => h2.modDrive d _) fun _ => h2.setDriveState d _
    · exact .ite (fun _ => h2) fun _ => h2.setDriveState d _

theorem Lawful.applyPolls (h : Lawful s t) (poll : Poll) : Lawful s (t.applyPolls poll) :=
  h.foldl _ (fun _ _ hu => .ite (fun _ => hu.applyPoll _ _) fun _ => hu) _

theorem PortCtl.Lawful.atReset (own : Option Nat) (c : PortCtl) : PortCtl.Lawful c (c.atReset own) := by
  have h : PortCtl.Lawful c c.abandonSending := by
    unfold PortCtl.abandonSending
    split <;> exact ⟨rfl, id⟩
  exact ⟨h.access, h.tally⟩

/-- R158: a string reset keeps the orders in their slots. -/
theorem PortCtl.atReset_slots (own : Option Nat) (c : PortCtl) (g : Tag) (o : Order) (h : (c.atReset own).slots.get g = some o) :
    ∃ r, c.slots.get g = some r ∧ r.oid = o.oid := by
  simp only [PortCtl.atReset, Quad.get_map, Option.map_eq_some_iff] at h
  obtain ⟨r, hr, rfl⟩ := h
  refine ⟨r, hr, ?_⟩
  unfold Order.atReset
  split <;> rfl

theorem Lawful.stringReset (h : Lawful s t) (c : StartCause) (own : Option Nat) (poll : Poll) :
    Lawful s (t.stringReset c own poll) := by
  have h1 := h.cutString
  unfold State.stringReset
  dsimp only
  generalize t.cutString = u at h1 ⊢
  refine Lawful.applyPolls ?_ poll
  exact ⟨h1.pending, h1.plugs, h1.clock,
    fun d => by
      simpa [State.drive] using (h1.drive d).trans (z := Drive.atReset (u.drive d)) ⟨rfl, rfl, rfl, id, Channel.law_stop⟩,
    fun p => by simpa [State.port] using (h1.port p).trans (.atReset own (u.port p)),
    h1.overflows, fun _ => rfl, fun _ => ⟨by simp [Ring.initial], by simp [Ring.initial]⟩, h1.media,
    fun x => numberLaw_of (h1.number x) le_rfl fun p g o ho => by
      simp only [State.port, Quad.get_map] at ho
      exact PortCtl.atReset_slots own (u.port p) g o ho⟩

/-! ## Orders -/

theorem Lawful.queueReply (h : Lawful s t) (p : Port) (g : Tag) (k : Byte) (v : Verdict) : Lawful s (t.queueReply p g k v) :=
  h.modPort p _

theorem Lawful.refuse (h : Lawful s t) (p : Port) (g : Tag) (k : Byte) (v : Verdict) : Lawful s (t.refuse p g k v) :=
  (h.countRefusal p).queueReply _ _ _ _

/-- R149: the order made at an acceptance has a serial number of its own. -/
theorem numberLaw_accept (h : t.numberLaw) (k : OrderKind) (f : OrderFrame) (g : Tag) (d : Option DriveId) :
    (t.accept k f g d).numberLaw := by
  have hs : ∀ p q o, ((t.accept k f g d).port p).slots.get q = some o →
      (p = f.port ∧ q = g ∧ o.oid = t.nextOid) ∨ (t.port p).slots.get q = some o := by
    intro p q o ho
    unfold State.accept State.queueReply at ho
    by_cases hp : p = f.port
    · subst hp
      simp only [State.port, State.modPort, Quad.get_set_self] at ho
      by_cases hq : q = g
      · subst hq
        simp only [Quad.get_set_self, Option.some.injEq] at ho
        exact .inl ⟨rfl, rfl, ho ▸ rfl⟩
      · rw [Quad.get_set_ne _ _ hq] at ho; exact .inr ho
    · simp only [State.port, State.modPort, Quad.get_set_ne _ _ hp] at ho; exact .inr ho
  have hn : (t.accept k f g d).nextOid = t.nextOid + 1 := rfl
  have h0 := h.next
  refine ⟨by omega, fun p q o ho => ?_, fun p q o p' q' r ho hr he => ?_⟩
  · rcases hs p q o ho with ⟨_, _, e⟩ | ho
    · omega
    · have := h.range p q o ho; omega
  · rcases hs p q o ho with ⟨e1, e2, e3⟩ | ho <;> rcases hs p' q' r hr with ⟨f1, f2, f3⟩ | hr
    · exact ⟨e1.trans f1.symm, e2.trans f2.symm⟩
    · have := h.range p' q' r hr; omega
    · have := h.range p q o ho; omega
    · exact h.distinct p q o p' q' r ho hr he

theorem Lawful.accept (h : Lawful s t) (k : OrderKind) (f : OrderFrame) (g : Tag) (d : Option DriveId) :
    Lawful s (t.accept k f g d) := by
  have hp : ∀ p, PortCtl.Lawful (t.port p) ((t.accept k f g d).port p) := by
    intro p
    unfold State.accept State.queueReply
    by_cases hp : p = f.port
    · subst hp; simp only [State.port, State.modPort, Quad.get_set_self]; exact ⟨rfl, id⟩
    · simp only [State.port, State.modPort, Quad.get_set_ne _ _ hp]; exact .refl _
  exact ⟨h.pending, h.plugs, h.clock, h.drive, fun p => (h.port p).trans (hp p), h.overflows, h.watch, h.ring, h.media,
    fun x => numberLaw_accept (h.number x) k f g d⟩

theorem Lawful.receiveOrder (h : Lawful s t) (k : OrderKind) (f : OrderFrame) {go : Nat → DriveId → State → State}
    (hgo : ∀ n d u, Lawful u (go n d u)) : Lawful s (t.receiveOrder k f go) := by
  unfold State.receiveOrder
  split
  · split
    · exact h.refuse _ _ _ _
    · exact (h.accept _ _ _ _).trans (hgo _ _ _)
  · exact h.protocolError _

theorem joinQueue_work (n : Nat) (d : DriveId) (u : State) : Work u (joinQueue n d u) := (Work.refl u).modDrive d _

theorem reserveDrive_lawful (p : Port) (n : Nat) (d : DriveId) (u : State) : Lawful u (reserveDrive p n d u) :=
  ((Lawful.refl u).modDrive d _).work ((Work.refl _).endOrder _ _)

theorem releaseDrive_lawful (n : Nat) (d : DriveId) (u : State) : Lawful u (releaseDrive n d u) :=
  ((Lawful.refl u).modDrive d _).work ((Work.refl _).endOrder _ _)

theorem senseDrive_work (f : OrderFrame) (n : Nat) (d : DriveId) (u : State) : Work u (senseDrive f n d u) :=
  ((Work.refl u).modOrder _ _).endOrder _ _

theorem selectTable_lawful (f : OrderFrame) (n : Nat) (d : DriveId) (u : State) : Lawful u (selectTable f n d u) :=
  ((Lawful.refl u).modPort f.port _).work ((Work.refl _).endOrder _ _)

theorem Lawful.stepWindow (h : Lawful s t) (p : Port) : Lawful s (t.stepWindow p) := h.modPort p _

theorem getTable_lawful (f : OrderFrame) (n : Nat) (d : DriveId) (u : State) : Lawful u (getTable f n d u) := by
  unfold getTable
  split
  · exact ((Lawful.refl u).stepWindow _).work (((Work.refl _).modOrder _ _).endOrder _ _)
  · exact .refl u

theorem Lawful.clearTallies (h : Lawful s t) : Lawful s t.clearTallies := by
  have h1 := (h.mapDrives (fun x => { x with tally := DriveTallies.zero }) fun x =>
    ⟨rfl, rfl, rfl, fun _ n hn => by simp [DriveTallies.counters, DriveTallies.zero] at hn; omega, id⟩).mapPorts
    (fun c => { c with refusals := 0, timeouts := 0, protocolErrors := 0 }) fun c =>
      ⟨rfl, fun _ n hn => by simp [PortCtl.counters] at hn; omega⟩
  exact ⟨h1.pending, h1.plugs, h1.clock, h1.drive, h1.port, fun _ => Nat.zero_le _, h1.watch, h1.ring, h1.media,
    fun x => numberLaw_of (h1.number x) le_rfl fun _ _ o ho => ⟨o, ho, rfl⟩⟩

theorem readAllTallies_lawful (n : Nat) (d : DriveId) (u : State) : Lawful u (readAllTallies n d u) :=
  (Lawful.refl u).clearTallies.work (((Work.refl _).modOrder _ _).endOrder _ _)

theorem reassignTrackOn_work (k : Track) (n : Nat) (d : DriveId) (u : State) : Work u (reassignTrackOn k n d u) := by
  unfold reassignTrackOn
  have h := Work.refl u
  refine .ite (fun _ => h.setEngine _) fun _ => ?_
  repeat' split
  all_goals first
    | exact h | exact h.overflowWatch.endOrder _ _ | exact h.candidate _ _ _ | exact h.setWatch _ _

theorem Work.windDownCurrent (h : Work s t) (d : DriveId) : Work s (t.windDownCurrent d) := by
  unfold State.windDownCurrent
  split
  · exact .ite (fun _ => h.windDown d) fun _ => h
  · exact h

theorem fenceDrive_work (n : Nat) (d : DriveId) (u : State) : Work u (fenceDrive n d u) :=
  ((((Work.refl u).setDriveState d .fenced).abortReassign d).endTogether _ _ _).windDownCurrent d

theorem unfenceDrive_work (n : Nat) (d : DriveId) (u : State) : Work u (unfenceDrive n d u) :=
  (((Work.refl u).modDrive d fun x => { x with mapHeld := false }).stopChannel d).enterRecalibrating d

theorem resetDrive_lawful (n : Nat) (d : DriveId) (u : State) : Lawful u (resetDrive n d u) := by
  unfold resetDrive
  have h0 := (Lawful.refl u).stopDrive d .reset .dirty (some n)
  dsimp only
  generalize u.stopDrive d .reset .dirty (some n) = v at h0 ⊢
  refine h0.work ?_
  have h1 := ((Work.refl v).stopChannel d).modDrive d fun x => { x with mapHeld := false, sweepIn := true }
  split
  · exact h1.setDriveState d _
  · exact h1.setDriveState d _
  · exact h1.setDriveState d _
  · exact .ite (fun _ => h1.endOrder _ _) fun _ => h1.enterRecalibrating d
  all_goals exact h1.enterRecalibrating d

theorem commitMapOf_work (n : Nat) (d : DriveId) (u : State) : Work u (commitMapOf n d u) := (Work.refl u).modDrive d _

/-! ## The link -/

theorem Lawful.receiveData (h : Lawful s t) (f : DataFrame) : Lawful s (t.receiveData f) := by
  unfold State.receiveData
  repeat' split
  all_goals first | exact h.protocolError _ | exact h.work ((Work.refl _).setWslot _ _)

theorem Lawful.cancelOrder (h : Lawful s t) (p : Port) (o : Order) : Lawful s (t.cancelOrder p o) :=
  .ite (fun _ => h) fun _ => .ite (fun _ => .ite (fun _ => h.work ((Work.refl _).endTogether _ _ _)) fun _ => h) fun _ =>
    h.protocolError p

theorem Lawful.receiveCancel (h : Lawful s t) (f : CancelFrame) : Lawful s (t.receiveCancel f) := by
  unfold State.receiveCancel
  repeat' split
  all_goals first | exact h.protocolError _ | exact h.cancelOrder _ _

theorem Lawful.portReset (h : Lawful s t) (p : Port) : Lawful s (t.portReset p) := by
  unfold State.portReset
  exact ((h.work ((Work.refl _).endTogether _ _ _)).modPort p PortCtl.cleared (fun _ => ⟨rfl, id⟩)
    fun _ _ _ ho => by simp [PortCtl.cleared] at ho).mapDrives _ fun x => by
    split <;> exact ⟨rfl, rfl, rfl, id, id⟩

theorem Lawful.receiveReset (h : Lawful s t) (f : ResetFrame) : Lawful s (t.receiveReset f) :=
  .ite (fun _ => h.portReset _) fun _ => h.protocolError _

theorem Lawful.takeFrame (h : Lawful s t) (p : Port) : Lawful s (t.takeFrame p) := by
  unfold State.takeFrame
  split
  · exact h
  · have h1 : Lawful s (t.modPort p fun c => { c with sending := none }) := h.modPort p _
    unfold State.frameEffect
    split
    · refine h1.modPort p _ (fun c => by unfold PortCtl.freeTag; split <;> exact ⟨rfl, id⟩) fun c g o ho => ?_
      unfold PortCtl.freeTag at ho
      split at ho
      · next tag _ _ _ _ _ _ _ _ =>
        by_cases hg : g = tag
        · subst hg; simp at ho
        · rw [Quad.get_set_ne _ _ hg] at ho; exact ⟨o, ho, rfl⟩
      · exact ⟨o, ho, rfl⟩
    · exact h1.work ((Work.refl _).ringTaken _ _)
    all_goals exact h1

theorem Lawful.timeOut (h : Lawful s t) (p : Port) (n : Nat) : Lawful s (t.timeOut p n) :=
  (h.countTimeout p).work ((Work.refl _).endTogether _ _ _)

theorem Lawful.deliveryExpiry (h : Lawful s t) (p : Port) : Lawful s (t.deliveryExpiry p) := by
  unfold State.deliveryExpiry
  split
  · exact .ite (fun _ => h.timeOut _ _) fun _ => h
  · exact h

theorem Lawful.requestExpiry (h : Lawful s t) (i : Fin 8) : Lawful s (t.requestExpiry i) :=
  .ite (fun _ => h.timeOut _ _) fun _ => h

theorem Lawful.receiveUnknown (h : Lawful s t) (u : UnknownFrame) : Lawful s (t.receiveUnknown u) := by
  unfold State.receiveUnknown
  repeat' split
  all_goals first | exact h.protocolError _ | exact h.refuse _ _ _ _

theorem Lawful.run {f : State → State} (hf : ∀ u, Lawful u (f u)) (h : s.run f = .next t) : Lawful s t := by
  unfold State.run at h
  split at h
  · cases h; exact (hf s).work ((Work.refl _).settle _)
  · cases h; exact .refl s

end Sys2Proof.Machine
end

