-- ==== Sys2Proof/Laws/LawfulExec.lean ====
section
/-! SUPPORT. What every command keeps: the queue of commands, the settings (TABLE PUT and power-on apart), and the laws of the
part. -/

set_option Elab.async false

namespace Sys2Proof.Machine

variable {s t : State}

/-! ## The weaker relation TABLE PUT satisfies -/

/-- The queue, the plugs and the clock are kept, and the laws. -/
structure LawKept (s t : State) : Prop where
  pending : t.pending = s.pending
  plugs : t.plugs = s.plugs
  clock : t.clock = s.clock
  ring : s.ringLaw → t.ringLaw
  tally : s.tallyLaw → t.tallyLaw
  watch : s.watch.length = 16 → t.watch.length = 16
  velocity : s.velocityLaw → t.velocityLaw
  media : s.mediaLaw → t.mediaLaw
  number : s.numberLaw → t.numberLaw

theorem Lawful.kept (h : Lawful s t) : LawKept s t :=
  ⟨h.pending, h.plugs, h.clock, h.ring,
   fun x => ⟨fun d => (h.drive d).tally (x.1 d), fun p => (h.port p).tally (x.2.1 p), h.overflows x.2.2⟩, h.watch,
   fun x d => by rw [h.m, (h.drive d).profile]; exact ⟨(h.drive d).chan (x d).1, (x d).2⟩, h.media, h.number⟩

theorem LawKept.trans {a b c : State} (h1 : LawKept a b) (h2 : LawKept b c) : LawKept a c :=
  ⟨h2.pending.trans h1.pending, h2.plugs.trans h1.plugs, h2.clock.trans h1.clock, h2.ring ∘ h1.ring, h2.tally ∘ h1.tally,
   h2.watch ∘ h1.watch, h2.velocity ∘ h1.velocity, h2.media ∘ h1.media,
   h2.number ∘ h1.number⟩

theorem LawKept.refl (s : State) : LawKept s s := (Lawful.refl s).kept

/-- An update of a drive that keeps its tallies and the laws of its channel and its profile. -/
theorem LawKept.modDrive (s : State) (d : DriveId) (f : Drive → Drive) (h1 : (f (s.drive d)).tally = (s.drive d).tally)
    (h2 : (s.drive d).chan.law s.m ∧ (s.drive d).profile.fits →
      (f (s.drive d)).chan.law s.m ∧ (f (s.drive d)).profile.fits) : LawKept s (s.modDrive d f) := by
  have hd : ∀ e, ((s.modDrive d f).drive e).tally = (s.drive e).tally ∧
      ((s.drive e).chan.law s.m ∧ (s.drive e).profile.fits →
        ((s.modDrive d f).drive e).chan.law s.m ∧ ((s.modDrive d f).drive e).profile.fits) := by
    intro e
    by_cases he : e = d
    · subst he; rw [State.drive_modDrive_self]; exact ⟨h1, h2⟩
    · rw [State.drive_modDrive_ne _ _ he]; exact ⟨rfl, id⟩
  exact ⟨rfl, rfl, rfl, id, fun x => ⟨fun e => by rw [(hd e).1]; exact x.1 e, x.2.1, x.2.2⟩, id, fun x e => (hd e).2 (x e), id,
    fun x => numberLaw_of x le_rfl fun _ _ o ho => ⟨o, ho, rfl⟩⟩

theorem Profile.clamped_fits (p : Profile) : p.clamped.fits := Nat.min_le_right _ _

theorem Channel.law_takeProfile {m : Nat} {ch : Channel} (p : Profile) (hp : p.fits) (h : ch.law m) :
    (ch.takeProfile p).law m := by
  unfold Channel.takeProfile
  split
  · next hph => exact ⟨hp, by simp, by simp [h.rest (.inl hph)], h.rest⟩
  · next hph => exact ⟨hp, by simp, by simp [h.rest (.inr (.inr hph))], h.rest⟩
  all_goals exact ⟨h.profile, by rintro q ⟨⟩; exact hp, h.velocity, h.rest⟩

theorem LawKept.putProfile (s : State) (d : DriveId) (p : Profile) (hp : p.fits) : LawKept s (s.putProfile d p) :=
  .modDrive s d _ rfl fun h => by
    refine ⟨?_, hp⟩
    dsimp only
    split
    · exact Channel.law_takeProfile p hp h.1
    · exact h.1

theorem LawKept.newGeometry (s : State) (d : DriveId) (g : Geometry) : LawKept s (s.newGeometry d g) := by
  have h : LawKept s ((s.stopChannel d).modDrive d fun x =>
      { x with pendRecal := false, geom := some g, geomLater := false, policy := x.policy.within g.s }) :=
    ((Work.refl s).stopChannel d).toLawful.kept.trans (.modDrive _ d _ rfl id)
  unfold State.newGeometry
  dsimp only
  split
  · exact h
  · exact h.trans (((Work.refl _).modDrive d Drive.emptyMap).forgetDrive d).toLawful.kept

theorem LawKept.putGeometry (s : State) (d : DriveId) (g : Geometry) : LawKept s (s.putGeometry d g) := by
  unfold State.putGeometry
  split
  · exact .newGeometry s d g
  · exact .modDrive s d _ rfl id

/-- R44: at an address with no channel a GEOMETRY PUT changes the table entry alone, with its mark (log 43). -/
theorem State.putGeometry_unserved {s : State} {d : DriveId} (h : served s.plugs.mode8 d = false) (g : Geometry) :
    s.putGeometry d g = s.modDrive d fun x => { x with geom := some g, geomLater := true } := by
  simp [State.putGeometry, h]

@[simp] theorem State.putGeometry_port (s : State) (d : DriveId) (g : Geometry) (p : Port) : (s.putGeometry d g).port p = s.port p := by
  unfold State.putGeometry State.newGeometry
  dsimp only
  repeat' split
  all_goals rfl

theorem LawKept.putPolicy (s : State) (d : DriveId) (p : Policy) : LawKept s (s.putPolicy d p) :=
  (LawKept.modDrive s d (fun x => { x with policy := p, policyLater := !served s.plugs.mode8 d }) rfl id).trans (Work.refl _).expireAll.toLawful.kept

theorem LawKept.putPortAccess (s : State) (q : Port) (a : PortAccess) : LawKept s (s.putPortAccess q a) := by
  have key : ∀ (c : Prop) [Decidable c] (x : Drive), (if c then { x with holder := none } else x).tally = x.tally ∧
      (if c then { x with holder := none } else x).chan = x.chan ∧
      (if c then { x with holder := none } else x).profile = x.profile := by
    intro c _ x
    by_cases h : c
    · rw [if_pos h]; exact ⟨rfl, rfl, rfl⟩
    · rw [if_neg h]; exact ⟨rfl, rfl, rfl⟩
  have hd : ∀ d, ((s.putPortAccess q a).drive d).tally = (s.drive d).tally ∧
      ((s.putPortAccess q a).drive d).chan = (s.drive d).chan ∧
      ((s.putPortAccess q a).drive d).profile = (s.drive d).profile := by
    intro d
    unfold State.putPortAccess State.drive
    rw [Oct.get_of]
    exact key _ _
  have hp : ∀ p, ((s.putPortAccess q a).port p).counters = (s.port p).counters := by
    intro p
    by_cases h : p = q
    · subst h; simp [State.putPortAccess, State.port, State.modPort, PortCtl.counters]
    · simp [State.putPortAccess, State.port, State.modPort, Quad.get_set_ne _ _ h]
  exact ⟨rfl, rfl, rfl, id, fun x => ⟨fun d => by rw [(hd d).1]; exact x.1 d, fun p => by rw [hp]; exact x.2.1 p, x.2.2⟩, id,
    fun x d => by rw [(hd d).2.1, (hd d).2.2]; exact x d, id, fun x => numberLaw_of x le_rfl fun p g o ho => by
      by_cases h : p = q
      · subst h; simp only [State.putPortAccess, State.port, State.modPort, Quad.get_set_self] at ho; exact ⟨o, ho, rfl⟩
      · simp only [State.putPortAccess, State.port, State.modPort, Quad.get_set_ne _ _ h] at ho; exact ⟨o, ho, rfl⟩⟩

/-- What the laws read of a drive is the same. -/
def Drive.SameLaws (x y : Drive) : Prop := y.tally = x.tally ∧ y.chan = x.chan ∧ y.profile = x.profile

theorem LawKept.sameLaws (s : State) (d : DriveId) (f : Drive → Drive) (h : ∀ x, Drive.SameLaws x (f x)) :
    LawKept s (s.modDrive d f) :=
  .modDrive s d f (h _).1 fun hx => by rw [(h _).2.1, (h _).2.2]; exact hx

theorem Drive.SameLaws.refl (x : Drive) : Drive.SameLaws x x := ⟨rfl, rfl, rfl⟩

theorem Drive.SameLaws.trans {x y z : Drive} (h1 : Drive.SameLaws x y) (h2 : Drive.SameLaws y z) : Drive.SameLaws x z :=
  ⟨h2.1.trans h1.1, h2.2.1.trans h1.2.1, h2.2.2.trans h1.2.2⟩

theorem Drive.markTrack_same (k : Track) (st : PoolState) (x : Drive) : Drive.SameLaws x (x.markTrack k st) := by
  unfold Drive.markTrack; split <;> exact ⟨rfl, rfl, rfl⟩

theorem Drive.storeEntry_same (e : SpareEntry) (x : Drive) : Drive.SameLaws x (x.storeEntry e) := by
  have h : ∀ y : Drive, Drive.SameLaws x y → Drive.SameLaws x { y.markTrack e.alt .inUse with spare := putEntry x.spare e } :=
    fun y hy => ⟨(hy.trans (Drive.markTrack_same _ _ y)).1, (hy.trans (Drive.markTrack_same _ _ y)).2.1,
      (hy.trans (Drive.markTrack_same _ _ y)).2.2⟩
  refine h _ ?_
  split
  · split
    · exact .refl x
    · exact Drive.markTrack_same _ _ x
  · exact .refl x

theorem Drive.putSlot_same (i : Nat) (b : List Byte) (x : Drive) : Drive.SameLaws x (x.putSlot i b) := by
  unfold Drive.putSlot
  split
  · exact .refl x
  · exact Drive.markTrack_same _ _ x
  · split
    · exact .refl x
    · exact Drive.storeEntry_same _ x

theorem Drive.putPool_same (i : Nat) (st : PoolState) (x : Drive) : Drive.SameLaws x (x.putPool i st) := by
  unfold Drive.putPool
  split <;> exact ⟨rfl, rfl, rfl⟩

theorem LawKept.storePut (s : State) (w : Window) (k : TableId) (b : List Byte) : LawKept s (s.storePut w k b).1 := by
  cases k <;> simp only [State.storePut]
  case portAccess =>
    split
    · exact .refl s
    · exact .putPortAccess _ _ _
  case geometry => exact .putGeometry _ _ _
  case motionProfile => exact .putProfile _ _ _ (Profile.clamped_fits _)
  case sparingPolicy => exact .putPolicy _ _ _
  case spareMap => exact .sameLaws s _ _ (Drive.putSlot_same _ _)
  case alternatePool =>
    split
    · exact .refl s
    · exact .sameLaws s _ _ (Drive.putPool_same _ _)
  case watchList => exact .refl s

theorem LawKept.putTable (f : OrderFrame) (n : Nat) (d : DriveId) (s : State) : LawKept s (putTable f n d s) := by
  unfold Machine.putTable State.tablePut
  dsimp only
  split
  · exact (((Work.refl s).modOrder _ _).endOrder _ _).toLawful.kept
  · exact (LawKept.storePut s _ _ _).trans (((Lawful.refl _).stepWindow _).work (((Work.refl _).modOrder _ _).endOrder _ _)).kept

theorem LawKept.receiveOrder (s : State) (k : OrderKind) (f : OrderFrame) {go : Nat → DriveId → State → State}
    (hgo : ∀ n d u, LawKept u (go n d u)) : LawKept s (s.receiveOrder k f go) := by
  unfold State.receiveOrder
  split
  · split
    · exact ((Lawful.refl s).refuse _ _ _ _).kept
    · exact ((Lawful.refl s).accept _ _ _ _).kept.trans (hgo _ _ _)
  · exact ((Lawful.refl s).protocolError _).kept

/-! ## Every command -/

/-- Power goes: nothing else the relation speaks of changes (R21). -/
theorem Lawful.unpower (h : Lawful s t) : Lawful s { t with powered := false } :=
  ⟨h.pending, h.plugs, h.clock, h.drive, h.port, h.overflows, h.watch, h.ring, h.media,
   fun x => numberLaw_of (h.number x) le_rfl fun _ _ o ho => ⟨o, ho, rfl⟩⟩

theorem exec_lawful {c : Instr} (hc : setsTables c = false) (h : exec c s = .next t) : Lawful s t := by
  cases c <;> simp only [exec] at h
  case powerOn => cases hc
  case tablePut => cases hc
  case powerFailure =>
    unfold execPowerFailure at h
    split at h
    · cases h; exact (Lawful.refl s).tearWrite.unpower
    · cases h; exact .refl s
  case stringResetLine => exact .run (fun u => (Lawful.refl u).stringReset _ _ _) h
  case indexPulse => exact .run (fun u => (Lawful.refl u).indexPulse _) h
  case sectorPulse => exact .run (fun u => (Lawful.refl u).sectorPulse _) h
  case spinUpLimitExpiry => exact .run (fun u => .ite (fun _ => (Lawful.refl u).enterNotReady _) fun _ => .refl u) h
  case indexWatchdogExpiry => exact .run (fun u => .ite (fun _ => (Lawful.refl u).enterNotReady _) fun _ => .refl u) h
  case positionerUpdate => exact .run (fun u => (Lawful.refl u).positionerUpdate _ _) h
  case onCylinderReport => exact .run (fun u => .ite (fun _ => (Lawful.refl u).channelUpdate _ _) fun _ => .refl u) h
  case recalibrationFailed => exact .run (fun u => .ite (fun _ => (Lawful.refl u).channelUpdate _ _) fun _ => .refl u) h
  case sectorReadEnd => exact .run (fun u => ((Work.refl u).sectorReadEnd _ _).toLawful) h
  case sectorWriteEnd => exact .run (fun u => (Lawful.refl u).sectorWriteEnd _) h
  case watchWindowExpiry => exact .run (fun u => ((Work.refl u).expireWatch _).toLawful) h
  case read => exact .run (fun u => (Lawful.refl u).receiveOrder _ _ fun n d u => (joinQueue_work n d u).toLawful) h
  case write => exact .run (fun u => (Lawful.refl u).receiveOrder _ _ fun n d u => (joinQueue_work n d u).toLawful) h
  case verify => exact .run (fun u => (Lawful.refl u).receiveOrder _ _ fun n d u => (joinQueue_work n d u).toLawful) h
  case seek => exact .run (fun u => (Lawful.refl u).receiveOrder _ _ fun n d u => (joinQueue_work n d u).toLawful) h
  case surfaceVerify => exact .run (fun u => (Lawful.refl u).receiveOrder _ _ fun n d u => (joinQueue_work n d u).toLawful) h
  case reserve => exact .run (fun u => (Lawful.refl u).receiveOrder _ _ (reserveDrive_lawful _)) h
  case release => exact .run (fun u => (Lawful.refl u).receiveOrder _ _ releaseDrive_lawful) h
  case sense => exact .run (fun u => (Lawful.refl u).receiveOrder _ _ fun n d u => (senseDrive_work _ n d u).toLawful) h
  case tableSelect => exact .run (fun u => (Lawful.refl u).receiveOrder _ _ (selectTable_lawful _)) h
  case tableGet => exact .run (fun u => (Lawful.refl u).receiveOrder _ _ (getTable_lawful _)) h
  case readTallies => exact .run (fun u => (Lawful.refl u).receiveOrder _ _ readAllTallies_lawful) h
  case reassignTrack => exact .run (fun u => (Lawful.refl u).receiveOrder _ _ fun n d u => (reassignTrackOn_work _ n d u).toLawful) h
  case fence => exact .run (fun u => (Lawful.refl u).receiveOrder _ _ fun n d u => (fenceDrive_work n d u).toLawful) h
  case unfence => exact .run (fun u => (Lawful.refl u).receiveOrder _ _ fun n d u => (unfenceDrive_work n d u).toLawful) h
  case driveReset => exact .run (fun u => (Lawful.refl u).receiveOrder _ _ resetDrive_lawful) h
  case commitMap => exact .run (fun u => (Lawful.refl u).receiveOrder _ _ fun n d u => (commitMapOf_work n d u).toLawful) h
  case stringReset => exact .run (fun u => (Lawful.refl u).receiveOrder _ _ fun n _ u => (Lawful.refl u).stringReset _ (some n) _) h
  case hostDataFrame => exact .run (fun u => (Lawful.refl u).receiveData _) h
  case cancel => exact .run (fun u => (Lawful.refl u).receiveCancel _) h
  case portReset => exact .run (fun u => (Lawful.refl u).receiveReset _) h
  case frameTaken => exact .run (fun u => (Lawful.refl u).takeFrame _) h
  case deliveryTimeout => exact .run (fun u => (Lawful.refl u).deliveryExpiry _) h
  case dataRequestTimeout => exact .run (fun u => (Lawful.refl u).requestExpiry _) h
  case unknownFrameKind => exact .run (fun u => (Lawful.refl u).receiveUnknown _) h

/-! ## Power-on and TABLE PUT -/

theorem Channel.law_initial (m : Nat) {p : Profile} (hp : p.fits) : (Channel.initial p).law m :=
  ⟨hp, by simp [Channel.initial], Nat.zero_le _, fun _ => rfl⟩

theorem builtinProfile_fits (n : Nat) : (builtinProfile n).fits := by
  unfold builtinProfile
  split <;> simp [Profile.fits, Profile.initial]

theorem Drive.defaults_laws (seen : Option (Fin 16)) :
    (Drive.defaults seen).tally = DriveTallies.zero ∧ (Drive.defaults seen).profile.fits := by
  unfold Drive.defaults
  split
  · exact ⟨rfl, builtinProfile_fits _⟩
  · exact ⟨rfl, by simp [Drive.initial, Profile.fits, Profile.initial]⟩

theorem Drive.atPowerOn_laws (m : Nat) (b c : Bool) (seen : Option (Fin 16)) (old : Drive) (h : old.profile.fits) :
    (Drive.atPowerOn b c seen old).tally = DriveTallies.zero ∧ (Drive.atPowerOn b c seen old).chan.law m ∧
      (Drive.atPowerOn b c seen old).profile.fits := by
  unfold Drive.atPowerOn
  dsimp only
  have h1 : ∀ y : Drive, y = (if b then (Drive.defaults (if c then seen else none)).withLater old
      else Drive.defaults (if c then seen else none)) → y.tally = DriveTallies.zero ∧ y.profile.fits := by
    rintro y rfl
    have h0 := Drive.defaults_laws (if c then seen else none)
    split
    · unfold Drive.withLater
      dsimp only
      exact ⟨h0.1, by split <;> [exact h; exact h0.2]⟩
    · exact h0
  exact ⟨(h1 _ rfl).1, Channel.law_initial m (h1 _ rfl).2, (h1 _ rfl).2⟩

theorem Drive.atPowerOn_tally (b c : Bool) (seen : Option (Fin 16)) (old : Drive) :
    (Drive.atPowerOn b c seen old).tally = DriveTallies.zero := by
  unfold Drive.atPowerOn
  dsimp only
  split
  · exact (Drive.defaults_laws _).1
  · exact (Drive.defaults_laws _).1

theorem State.poweredOn_laws (s : State) (plugs : Plugs) (poll : Poll) :
    (s.poweredOn plugs poll).ringLaw ∧ (s.poweredOn plugs poll).tallyLaw ∧ (s.poweredOn plugs poll).watch.length = 16 ∧
      (s.velocityLaw → (s.poweredOn plugs poll).velocityLaw) ∧ (s.mediaLaw → (s.poweredOn plugs poll).mediaLaw) ∧
      (s.poweredOn plugs poll).numberLaw := by
  refine ⟨⟨by simp [State.poweredOn, State.reset, Ring.initial], by simp [State.poweredOn, State.reset, Ring.initial]⟩,
    ⟨fun d => ?_, fun p => ?_, Nat.zero_le _⟩, rfl, fun hv d => ?_, id, ⟨Nat.one_pos, fun p g o ho => ?_, fun p g o _ _ _ ho => ?_⟩⟩
  · simp only [State.poweredOn, State.drive, Oct.get_of, Drive.atPowerOn_tally]
    decide
  · simp [State.poweredOn, State.port, PortCtl.initial, PortCtl.counters]
  · simp only [State.poweredOn, State.drive, Oct.get_of]
    exact (Drive.atPowerOn_laws _ _ _ _ _ (hv d).2).2
  · simp [State.poweredOn, State.port, PortCtl.initial] at ho
  · simp [State.poweredOn, State.port, PortCtl.initial] at ho

/-! ## The maintenance right (R165, R168) -/

theorem Lawful.maintenance (h : Lawful s t) (hs : s.maintenanceLaw) : t.maintenanceLaw :=
  hs.imp fun p hp => by rw [(h.port p).access]; exact hp

theorem State.putPortAccess_maintenance {q : Port} {a : PortAccess} (h : s.portAccessRefusal q a = none) (hs : s.maintenanceLaw) :
    (s.putPortAccess q a).maintenanceLaw := by
  have hq : ((s.putPortAccess q a).port q).access = a := by simp [State.putPortAccess, State.port, State.modPort]
  have hne : ∀ p, p ≠ q → ((s.putPortAccess q a).port p).access = (s.port p).access := fun p hp => by
    simp [State.putPortAccess, State.port, State.modPort, Quad.get_set_ne _ _ hp]
  unfold State.portAccessRefusal at h
  split at h
  · cases h
  · split at h
    · cases h
    · next hn =>
      simp only [Bool.and_eq_true, Bool.not_eq_true', not_and] at hn
      by_cases ha : a.maintenance = true
      · exact ⟨q, by rw [hq]; exact ha⟩
      · obtain ⟨p, hp⟩ := hs
        by_cases hpq : p = q
        · subst hpq
          have ho : s.othersMaintain p = true := by
            have := hn ⟨hp, by simpa using ha⟩
            simpa using this
          unfold State.othersMaintain at ho
          obtain ⟨r, _, hr⟩ := List.any_eq_true.mp ho
          simp only [Bool.and_eq_true, decide_eq_true_eq] at hr
          exact ⟨r, by rw [hne r hr.1]; exact hr.2⟩
        · exact ⟨p, by rw [hne p hpq]; exact hp⟩

theorem State.portAccessRefusal_congr {u : State} (h : ∀ p, (u.port p).access = (s.port p).access) (q : Port) (a : PortAccess) :
    u.portAccessRefusal q a = s.portAccessRefusal q a := by
  have e : u.othersMaintain q = s.othersMaintain q := by simp only [State.othersMaintain, h]
  unfold State.portAccessRefusal
  rw [e, h q]

theorem maintenance_of_access (h : ∀ p, (t.port p).access = (s.port p).access) (hs : s.maintenanceLaw) : t.maintenanceLaw :=
  hs.imp fun p hp => by rw [h p]; exact hp

/-- What an accepted order leaves of the ports' windows and entries. -/
theorem State.accept_window (s : State) (k : OrderKind) (f : OrderFrame) (g : Tag) (d : Option DriveId) (p : Port) :
    ((s.accept k f g d).port p).window = (s.port p).window ∧ ((s.accept k f g d).port p).access = (s.port p).access := by
  unfold State.accept State.queueReply
  by_cases h : p = f.port
  · subst h; simp [State.port, State.modPort]
  · simp [State.port, State.modPort, Quad.get_set_ne _ _ h]

theorem State.storePut_maintenance {w : Window} {k : TableId} {b : List Byte} (h : s.putRefusal w k b = none)
    (hs : s.maintenanceLaw) : (s.storePut w k b).1.maintenanceLaw := by
  cases k <;> simp only [State.storePut]
  case portAccess =>
    simp only [State.putRefusal] at h
    split
    · exact hs
    · next a ha => rw [ha] at h; exact State.putPortAccess_maintenance h hs
  case geometry =>
    exact maintenance_of_access (fun p => by rw [State.putGeometry_port]) hs
  case motionProfile => exact hs
  case sparingPolicy => exact hs
  case spareMap => exact hs
  case alternatePool => split <;> exact hs
  case watchList => exact hs

theorem putTable_maintenance {u : State} {f : OrderFrame} (ha : ∀ p, (u.port p).access = (s.port p).access)
    (hw : (u.port f.port).window = (s.port f.port).window) (hr : s.tablePutRefusal f.port f.body = none)
    (hs : s.maintenanceLaw) (n : Nat) (d : DriveId) : (putTable f n d u).maintenanceLaw := by
  have hus : u.maintenanceLaw := maintenance_of_access ha hs
  unfold putTable State.tablePut
  rw [hw]
  unfold State.tablePutRefusal at hr
  dsimp only at hr ⊢
  split at hr
  · cases hr
  · next k hk =>
    split at hr
    · cases hr
    · split at hr
      · cases hr
      · refine (((Lawful.refl _).stepWindow _).work (((Work.refl _).modOrder _ _).endOrder _ _)).maintenance ?_
        by_cases hp : k = .portAccess
        · subst hp
          refine State.storePut_maintenance ?_ hus
          simp only [State.putRefusal] at hr ⊢
          split at hr
          · cases hr
          · exact (State.portAccessRefusal_congr ha _ _).trans hr
        · cases k <;> simp only [State.storePut]
          case portAccess => exact absurd rfl hp
          case geometry =>
            exact maintenance_of_access (fun p => by rw [State.putGeometry_port]) hus
          case alternatePool => split <;> exact hus
          all_goals exact hus

end Sys2Proof.Machine
end

