-- ==== Sys2Proof/Laws/Places.lean ====
section
/-! SUPPORT. What `settle` keeps of the data path, the staging store, the watch list and the frames to be sent. -/

namespace Sys2Proof.Machine

/-! ## The watch list and the reassignment engine -/

/-- The watch list with the reassignment engine. -/
def State.sparing (s : State) : List WatchSlot × ReassignEngine := (s.watch, s.reassign)

@[simp] theorem State.sparing_modDrive (s : State) (d : DriveId) (f : Drive → Drive) : (s.modDrive d f).sparing = s.sparing := rfl

@[simp] theorem State.sparing_modPort (s : State) (p : Port) (f : PortCtl → PortCtl) : (s.modPort p f).sparing = s.sparing := rfl

@[simp] theorem State.sparing_modOrder (s : State) (oid : Nat) (f : Order → Order) : (s.modOrder oid f).sparing = s.sparing := rfl

@[simp] theorem State.sparing_modVerify (s : State) (f : VerifyEngine → VerifyEngine) : (s.modVerify f).sparing = s.sparing := rfl

@[simp] theorem State.sparing_setOp (s : State) (d : DriveId) (op : Op) : (s.setOp d op).sparing = s.sparing := rfl

@[simp] theorem State.sparing_endOrder (s : State) (oid : Nat) (r : Result) : (s.endOrder oid r).sparing = s.sparing := by
  unfold State.endOrder
  split <;> rfl

theorem State.sparing_foldl {α : Type} (f : State → α → State) (hf : ∀ s a, (f s a).sparing = s.sparing) (l : List α)
    (s : State) : (l.foldl f s).sparing = s.sparing := by
  induction l generalizing s with
  | nil => rfl
  | cons a l ih => rw [List.foldl_cons, ih, hf]

@[simp] theorem State.sparing_clearOp (s : State) (d : DriveId) : (s.clearOp d).sparing = s.sparing := by
  unfold State.clearOp
  dsimp only
  split
  · split <;> rfl
  · rfl

@[simp] theorem State.sparing_reachTransfer (s : State) (d : DriveId) : (s.reachTransfer d).sparing = s.sparing := by
  unfold State.reachTransfer
  split
  · rfl
  · dsimp only
    split <;> simp

@[simp] theorem State.sparing_recalFor (s : State) (d : DriveId) (n : Option Nat) : (s.recalFor d n).sparing = s.sparing := by
  unfold State.recalFor
  split
  · rfl
  · split <;> rfl

@[simp] theorem State.sparing_seekTo (s : State) (d : DriveId) (t : Nat) : (s.seekTo d t).sparing = s.sparing := by
  unfold State.seekTo
  dsimp only
  split
  · rfl
  · split
    · split
      · rw [State.sparing_reachTransfer]; rfl
      · rfl
    · simp

theorem State.sparing_takeEntry (s : State) (d : DriveId) (es : List (Port × Order)) (c : Choice) :
    (s.takeEntry d es c).sparing = s.sparing := by
  have hp : (if c.passes then s.passOver es c.entry.2.oid else s).sparing = s.sparing := by
    split
    · exact State.sparing_foldl _ (fun _ _ => State.sparing_modOrder _ _ _) _ _
    · rfl
  unfold State.takeEntry
  dsimp only
  split
  · unfold State.startSurface
    split <;> simp [hp]
  · simp [State.startHost, hp]

theorem State.sparing_startMapWrite (s : State) (d : DriveId) : (s.startMapWrite d).sparing = s.sparing := by
  have hb : (s.bindCommits d).sparing = s.sparing := State.sparing_foldl _ (fun _ _ => State.sparing_modOrder _ _ _) _ _
  unfold State.startMapWrite
  split
  · rfl
  · simp [hb]

theorem State.sparing_startMapLoad (s : State) (d : DriveId) : (s.startMapLoad d).sparing = s.sparing := by
  unfold State.startMapLoad
  split <;> simp

/-- What a selection does to the watch list and the reassignment engine: nothing, or what the start of a REASSIGN does. -/
theorem State.sparing_select {s t : State} {d : DriveId} (h : s.select d = some t) :
    t.sparing = s.sparing ∨ ∃ f, t = (s.modDrive d f).startReassign d := by
  unfold State.select at h
  split at h
  · cases h
  · split at h
    · next k _ =>
      cases h
      unfold State.startInternal
      cases k with
      | recalibrate => exact .inl (by simp)
      | mapLoad => exact .inl (by simp [State.sparing_startMapLoad])
      | mapWrite => exact .inl (by simp [State.sparing_startMapWrite])
      | reassign => exact .inr ⟨_, rfl⟩
      | _ => exact .inl rfl
    · obtain ⟨c, _, rfl⟩ := Option.map_eq_some_iff.mp h
      exact .inl (State.sparing_takeEntry _ _ _ _)

/-- An action changes the watch list or the reassignment engine when the engine takes a candidate or a REASSIGN starts, and at
no other time. -/
theorem State.sparing_act {s t : State} (h : s.act = some t) :
    t.sparing = s.sparing ∨ (s.reassign.state = .free ∧ t.watch = s.watch) ∨
      ∃ d f, t = (s.modDrive d f).startReassign d := by
  rcases State.act_cases h with h | h | h | h | h | h | h | h | h | h
  · obtain ⟨_, _, _, _, rfl⟩ := State.actBoundary_eq h; exact .inl rfl
  · obtain ⟨_, _, rfl⟩ := State.actOffer_eq h; exact .inl rfl
  · obtain ⟨_, _, _, rfl⟩ | ⟨_, rfl⟩ := State.actSlots_eq h <;> exact .inl rfl
  · obtain ⟨_, rfl⟩ := State.actFence_eq h; exact .inl (State.sparing_endOrder _ _ _)
  · obtain ⟨_, rfl⟩ | ⟨_, _, _, rfl⟩ := State.actEnding_eq h <;> exact .inl rfl
  · obtain ⟨hf, _, rfl⟩ := State.actCandidate_eq h
    refine .inr (.inl ⟨hf, ?_⟩)
    unfold State.takeCandidate
    split <;> rfl
  · obtain ⟨d, h⟩ := State.actSelect_eq h
    rcases State.sparing_select h with h | ⟨f, h⟩
    · exact .inl h
    · exact .inr (.inr ⟨d, f, h⟩)
  · obtain ⟨_, d, rfl | ⟨op, _, ⟨_, rfl⟩ | rfl⟩⟩ := State.actGrant_eq h
    · exact .inl rfl
    · refine .inl ?_
      unfold State.grant State.takePlace State.ringTake State.setSlotState
      dsimp only
      split
      · split <;> rfl
      · split <;> rfl
      all_goals rfl
    · refine .inl ?_
      unfold State.countMiss
      split <;> rfl
  · obtain ⟨_, _, rfl⟩ := State.actSpin_eq h; exact .inl rfl
  · obtain ⟨_, _, h⟩ := State.actSend_eq h
    cases h <;> exact .inl rfl

@[simp] theorem State.sparing_endOrders (s : State) (d : DriveId) (q : Order → Bool) (r : Result) :
    (s.endOrders d q r).sparing = s.sparing :=
  State.sparing_foldl _ (fun _ _ => State.sparing_endOrder _ _ _) _ _

/-- What the start of a REASSIGN does to the watch list: it changes the slot of the entry taken, or nothing. -/
theorem State.watch_startReassign (s : State) (d : DriveId) :
    (s.startReassign d).watch = s.watch ∨
      ∃ i e w, watchEntry s.watch i = some e ∧ (s.startReassign d).watch = s.watch.set i w := by
  unfold State.startReassign
  split
  · next i _ _ =>
    split
    · exact .inl rfl
    · next e he =>
      refine .inr ⟨i, e, ?_⟩
      split
      · refine ⟨.entry { e with state := .stuck }, he, ?_⟩
        have h := State.sparing_endOrders
          ((s.setWatch i { e with state := .stuck }).countReassignFailure d) d
          (fun o => o.kind = .reassignTrack && o.start.cyl = e.home.cyl && o.start.head = e.home.head) .noAlternate
        exact (congrArg Prod.fst h :)
      · next pos _ =>
        refine ⟨.reserved, he, ?_⟩
        unfold State.reassignBegin
        dsimp only
        exact (congrArg Prod.fst (State.sparing_seekTo _ _ _)).trans rfl
  · exact .inl rfl

/-- What the immediate actions keep of the watch list: its length, its empty slots, and all of it with the engine while the
engine is COPYING. -/
structure SparingKept (s t : State) : Prop where
  length : t.watch.length = s.watch.length
  empty : ∀ i : Nat, s.watch[i]? = some WatchSlot.empty → t.watch[i]? = some WatchSlot.empty
  copying : s.reassign.state = .copying → t.sparing = s.sparing

theorem watchEntry_eq {w : List WatchSlot} {i : Nat} {e : WatchEntry} (h : watchEntry w i = some e) : w[i]? = some (.entry e) := by
  unfold watchEntry at h
  split at h
  · next e' he => cases h; exact he
  · cases h

theorem SparingKept.of_eq {s t : State} (h : t.sparing = s.sparing) : SparingKept s t := by
  have hw : t.watch = s.watch := (congrArg Prod.fst h :)
  exact ⟨by rw [hw], by rw [hw]; exact fun _ h => h, fun _ => h⟩

theorem SparingKept.act {s t : State} (h : s.act = some t) : SparingKept s t := by
  rcases State.sparing_act h with h | ⟨hf, hw⟩ | ⟨d, f, rfl⟩
  · exact .of_eq h
  · exact ⟨by rw [hw], by rw [hw]; exact fun _ h => h, fun hc => by rw [hf] at hc; cases hc⟩
  · refine ⟨?_, ?_, ?_⟩
    · rcases State.watch_startReassign (s.modDrive d f) d with h | ⟨i, e, w, _, h⟩ <;> simp [h]
    · intro j hj
      rcases State.watch_startReassign (s.modDrive d f) d with h | ⟨i, e, w, he, h⟩
      · rw [h]; exact hj
      · have hij : i ≠ j := by
          rintro rfl
          have := watchEntry_eq he
          simp only [State.modDrive_watch] at this
          rw [this] at hj
          cases hj
        rw [h, List.getElem?_set_ne hij]; exact hj
    · intro hc
      unfold State.startReassign
      simp [hc]

theorem SparingKept.trans {a b c : State} (h1 : SparingKept a b) (h2 : SparingKept b c) : SparingKept a c :=
  ⟨h2.length.trans h1.length, fun i hi => h2.empty i (h1.empty i hi), fun hc => by
    have h := h1.copying hc
    have hb : b.reassign.state = .copying := by
      have : b.reassign = a.reassign := (congrArg Prod.snd h :)
      rw [this]; exact hc
    exact (h2.copying hb).trans h⟩

theorem settle_sparing (n : Nat) (s : State) : SparingKept s (settle n s) :=
  settle_rel (P := SparingKept) (fun _ => .of_eq rfl) (fun _ _ _ => SparingKept.trans) (fun _ _ => SparingKept.act) n s

/-! ## The path and the places -/

/-- What the immediate actions keep of the staging store: HELD ring slots, and, while the path is held, the path and every write
slot that is not FREE. -/
structure PlacesKept (s t : State) : Prop where
  held : ∀ x ∈ s.ring.run, x.state = .held → x ∈ t.ring.run
  path : s.path.holder.isSome = true → t.path = s.path
  slots : s.path.holder.isSome = true → ∀ i, (s.wslots.get i).state ≠ .free → t.wslots.get i = s.wslots.get i

theorem PlacesKept.of_eq {s t : State} (h1 : t.ring = s.ring) (h2 : t.path = s.path) (h3 : t.wslots = s.wslots) :
    PlacesKept s t :=
  ⟨fun x hx _ => by rw [h1]; exact hx, fun _ => h2, fun _ i _ => by rw [h3]⟩

/-- The path with the staging store. -/
def State.store (s : State) : Ring × DataPath × Oct WriteSlot := (s.ring, s.path, s.wslots)

theorem State.store_of_base {s t : State} (h : t.base = s.base) : t.store = s.store :=
  (congrArg (fun c : State => (c.ring, c.path, c.wslots)) h :)

theorem PlacesKept.of_store {s t : State} (h : t.store = s.store) : PlacesKept s t :=
  .of_eq (congrArg Prod.fst h :) (congrArg (fun x => x.2.1) h :) (congrArg (fun x => x.2.2) h :)

theorem PlacesKept.act {s t : State} (h : s.act = some t) : PlacesKept s t := by
  rcases State.act_cases h with h | h | h | h | h | h | h | h | h | h
  · obtain ⟨x, rest, hr, hx, rfl⟩ := State.actBoundary_eq h
    refine ⟨?_, fun _ => rfl, fun _ _ _ => rfl⟩
    intro y hy hs
    rw [hr] at hy
    rcases List.mem_cons.mp hy with rfl | hy
    · rcases hx with hx | hx <;> rw [hs] at hx <;> cases hx
    · exact hy
  · obtain ⟨_, _, rfl⟩ := State.actOffer_eq h; exact .of_eq rfl rfl rfl
  · obtain ⟨i, _, hf, rfl⟩ | ⟨_, rfl⟩ := State.actSlots_eq h
    · refine ⟨fun _ h _ => h, fun _ => rfl, fun _ j hj => ?_⟩
      have hij : j ≠ i := by rintro rfl; exact hj hf
      exact Oct.get_set_ne _ _ hij
    · exact .of_eq rfl rfl rfl
  · obtain ⟨_, rfl⟩ := State.actFence_eq h; exact .of_store (State.store_of_base (State.base_endOrder _ _ _))
  · obtain ⟨_, rfl⟩ | ⟨_, _, _, rfl⟩ := State.actEnding_eq h <;> exact .of_eq rfl rfl rfl
  · obtain ⟨_, i, rfl⟩ := State.actCandidate_eq h
    unfold State.takeCandidate
    split <;> exact .of_eq rfl rfl rfl
  · obtain ⟨_, h⟩ := State.actSelect_eq h; exact .of_store (State.store_of_base (State.base_select h))
  · obtain ⟨hn, d, rfl | ⟨op, _, ⟨_, rfl⟩ | rfl⟩⟩ := State.actGrant_eq h
    · exact .of_eq rfl rfl rfl
    · refine ⟨?_, by simp [hn], by simp [hn]⟩
      intro x hx _
      unfold State.grant State.takePlace State.ringTake State.setSlotState
      dsimp only
      split
      · split
        · exact hx
        · exact List.mem_append_left _ hx
      · split <;> exact hx
      all_goals exact hx
    · unfold State.countMiss
      split <;> exact .of_eq rfl rfl rfl
  · obtain ⟨_, _, rfl⟩ := State.actSpin_eq h; exact .of_eq rfl rfl rfl
  · obtain ⟨_, _, h⟩ := State.actSend_eq h
    cases h <;> exact .of_eq rfl rfl rfl

theorem PlacesKept.trans {a b c : State} (h1 : PlacesKept a b) (h2 : PlacesKept b c) : PlacesKept a c := by
  refine ⟨fun x hx hs => h2.held x (h1.held x hx hs) hs, fun h => ?_, fun h i hi => ?_⟩
  · rw [h2.path (by rw [h1.path h]; exact h), h1.path h]
  · rw [h2.slots (by rw [h1.path h]; exact h) i (by rw [h1.slots h i hi]; exact hi), h1.slots h i hi]

theorem settle_places (n : Nat) (s : State) : PlacesKept s (settle n s) :=
  settle_rel (P := PlacesKept) (fun _ => .of_eq rfl rfl rfl) (fun _ _ _ => PlacesKept.trans) (fun _ _ => PlacesKept.act) n s

/-! ## The frames to be sent -/

/-- What the immediate actions keep of the frames to be sent. -/
def FramesKept (s t : State) : Prop := ∀ p f, f ∈ (s.port p).toSend → f ∈ (t.port p).toSend

theorem FramesKept.of_eq {s t : State} (h : ∀ p, (t.port p).toSend = (s.port p).toSend) : FramesKept s t := by
  intro p f hf; rw [h p]; exact hf

theorem State.toSend_of_base {s t : State} (h : t.base = s.base) (p : Port) : (t.port p).toSend = (s.port p).toSend := by
  have h' := congrArg (fun c : State => (c.ports.get p).toSend) h
  simpa [State.base, State.port, PortCtl.base, PortCtl.toSend] using h'

theorem FramesKept.modPort (s : State) (p : Port) (f : PortCtl → PortCtl)
    (h : ∀ x, x ∈ (s.port p).toSend → x ∈ (f (s.port p)).toSend) : FramesKept s (s.modPort p f) := by
  intro q x hx
  by_cases hq : q = p
  · subst hq; rw [State.port_modPort_self]; exact h x hx
  · rw [State.port_modPort_ne _ _ hq]; exact hx

theorem FramesKept.of_ports {s t : State} (h : t.ports = s.ports) : FramesKept s t :=
  .of_eq fun p => by rw [State.port, State.port, h]

theorem FramesKept.trans {a b c : State} (h1 : FramesKept a b) (h2 : FramesKept b c) : FramesKept a c :=
  fun p f hf => h2 p f (h1 p f hf)

theorem FramesKept.act {s t : State} (h : s.act = some t) : FramesKept s t := by
  rcases State.act_cases h with h | h | h | h | h | h | h | h | h | h
  · obtain ⟨_, _, _, _, rfl⟩ := State.actBoundary_eq h; exact .of_ports rfl
  · obtain ⟨_, _, rfl⟩ := State.actOffer_eq h; exact .modPort _ _ _ fun _ h => h
  · obtain ⟨i, e, _, rfl⟩ | ⟨_, rfl⟩ := State.actSlots_eq h
    · have key : ∀ (w : WriteSlot) (f : OutFrame),
          FramesKept s ((s.setWslot i w).modPort e.1 fun c => { c with dataReqs := c.dataReqs ++ [f] }) := fun w f =>
        .trans (b := s.setWslot i w) (.of_ports rfl) (.modPort _ _ _ fun _ h => h)
      exact key _ _
    · exact .of_ports rfl
  · obtain ⟨_, rfl⟩ := State.actFence_eq h; exact .of_eq (State.toSend_of_base (State.base_endOrder _ _ _))
  · obtain ⟨_, rfl⟩ | ⟨p, o, r, rfl⟩ := State.actEnding_eq h
    · exact .of_ports rfl
    · have key : ∀ (s1 : State) (f : OutFrame) (l : List Nat), FramesKept s1
          ({ s1.modPort p fun c => { c with endings := c.endings ++ [f] } with closing := l } : State) := fun s1 f l =>
        .trans (b := s1.modPort p fun c => { c with endings := c.endings ++ [f] })
          (.modPort _ _ _ fun x hx => by
            simp only [PortCtl.toSend, List.mem_append] at hx ⊢
            tauto)
          (.of_ports rfl)
      exact .trans (.of_eq (State.toSend_of_base (State.base_modOrder _ _ _ (by intro _; rfl)))) (key _ _ _)
  · obtain ⟨_, i, rfl⟩ := State.actCandidate_eq h
    unfold State.takeCandidate
    split <;> exact .of_ports rfl
  · obtain ⟨_, h⟩ := State.actSelect_eq h; exact .of_eq (State.toSend_of_base (State.base_select h))
  · obtain ⟨_, _, rfl | ⟨_, _, ⟨_, rfl⟩ | rfl⟩⟩ := State.actGrant_eq h
    · exact .of_ports rfl
    · exact .of_ports (State.ports_grant _ _ _)
    · exact .of_ports (State.ports_countMiss _ _ _)
  · obtain ⟨_, _, rfl⟩ := State.actSpin_eq h; exact .of_ports rfl
  · obtain ⟨p, hn, h⟩ := State.actSend_eq h
    cases h with
    | reply f rest hr => exact .modPort _ _ _ fun x hx => by simp_all [PortCtl.toSend]
    | ending f rest hr => exact .modPort _ _ _ fun x hx => by simp_all [PortCtl.toSend]; tauto
    | request f rest hr => exact .modPort _ _ _ fun x hx => by simp_all [PortCtl.toSend]
    | data f => exact .modPort _ _ _ fun x hx => by simp_all [PortCtl.toSend]
    | notice f n k => exact .modPort _ _ _ fun x hx => by simp_all [PortCtl.toSend]

/-- A reply or an ending that a port has to send stays to be sent through the immediate actions. -/
theorem settle_frames (n : Nat) (s : State) : FramesKept s (settle n s) :=
  settle_rel (P := FramesKept) (fun _ _ _ h => h) (fun _ _ _ => FramesKept.trans) (fun _ _ => FramesKept.act) n s

end Sys2Proof.Machine
end

