-- ==== Sys2Proof/Laws/Commands.lean ====
section
/-! SUPPORT. What a command leaves, in the words of Safety.lean: the parts untouched, the order an acceptance makes, and the results
that endings fix. -/

namespace Sys2Proof.Machine

variable {s t u : State}

/-! ## A command and what follows it -/

theorem State.run_powered (h : s.powered = true) (f : State → State) : s.run f = .next (settle settleFuel (f s)) := by
  simp [State.run, h]

theorem Lawful.settings (h : Lawful s t) : SettingsKept s t :=
  ⟨h.plugs, h.clock, fun p => (h.port p).access, fun d => (h.drive d).geom, fun d => (h.drive d).profile, fun d => (h.drive d).policy⟩

theorem SettingsKept.trans {a b c : State} (h1 : SettingsKept a b) (h2 : SettingsKept b c) : SettingsKept a c :=
  ⟨h2.plugs.trans h1.plugs, h2.clock.trans h1.clock, fun p => (h2.access p).trans (h1.access p), fun d => (h2.geom d).trans (h1.geom d),
   fun d => (h2.profile d).trans (h1.profile d), fun d => (h2.policy d).trans (h1.policy d)⟩

theorem Work.portKept (h : Work s t) (p : Port) : PortKept s t p :=
  ⟨(h.link p).window, (h.link p).refusals, (h.link p).timeouts, (h.link p).protocolErrors⟩

theorem PortKept.trans {a b c : State} {p : Port} (h1 : PortKept a b p) (h2 : PortKept b c p) : PortKept a c p :=
  ⟨h2.window.trans h1.window, h2.refusals.trans h1.refusals, h2.timeouts.trans h1.timeouts, h2.protocolErrors.trans h1.protocolErrors⟩

/-- The order in a slot, but for what its course changes. -/
theorem Work.ident (h : Work s t) (p : Port) (g : Tag) :
    ((t.port p).slots.get g).map Order.ident = ((s.port p).slots.get g).map Order.ident := by
  simpa [PortCtl.idents] using congrArg (fun q => q.get g) (h.link p).idents

theorem Work.slotsKept (h : Work s t) (p : Port) : SlotsKept s t p := fun g => by
  have := congrArg (Option.map Order.oid) (h.ident p g)
  simpa [Option.map_map, Function.comp_def, Order.ident] using this

theorem SlotsKept.trans {a b c : State} {p : Port} (h1 : SlotsKept a b p) (h2 : SlotsKept b c p) : SlotsKept a c p :=
  fun g => (h2 g).trans (h1 g)

theorem Work.slot {p : Port} {g : Tag} {o : Order} (h : Work s t) (ho : (s.port p).slots.get g = some o) :
    ∃ r, (t.port p).slots.get g = some r ∧ r.ident = o.ident := by
  have hi := h.ident p g
  rw [ho] at hi
  obtain ⟨r, hr, e⟩ := Option.map_eq_some_iff.mp hi
  exact ⟨r, hr, e⟩

/-- Work inside a command touches nothing a statement calls untouched. -/
theorem Work.untouched (h : Work s t) (D : List DriveId) (P : List Port) : Untouched s t D P :=
  ⟨h.powered, h.startCause, h.settings, fun d => ⟨(h.bus d).present, (h.bus d).plugType⟩,
   fun d _ => ⟨(h.bus d).counter, (h.bus d).holder⟩, fun p _ => ⟨h.portKept p, h.slotsKept p⟩⟩

theorem Untouched.work {D : List DriveId} {P : List Port} (h : Untouched s t D P) (w : Work t u) : Untouched s u D P :=
  ⟨w.powered.trans h.powered, w.startCause.trans h.startCause, h.settings.trans w.settings,
   fun d => ⟨(w.bus d).present.trans (h.bus d).1, (w.bus d).plugType.trans (h.bus d).2⟩,
   fun d hd => ⟨(w.bus d).counter.trans (h.drive d hd).1, (w.bus d).holder.trans (h.drive d hd).2⟩,
   fun p hp => ⟨(h.port p hp).1.trans (w.portKept p), (h.port p hp).2.trans (w.slotsKept p)⟩⟩

/-- A drive that takes no new work is whole after a command's own effect and what follows, when that effect left it so. -/
theorem BusyWhole.settle {D : List DriveId} (n : Nat)
    (h : ∀ d, d ∉ D → (s.drive d).takesNoWork = true → (t.drive d).kept = (s.drive d).kept) : BusyWhole s (settle n t) D := by
  intro d hd hb
  have h1 := h d hd hb
  exact (settle_busy n t d (by rw [Drive.takesNoWork_of_kept h1]; exact hb)).trans h1

/-! ## The order an acceptance makes -/

theorem State.drives_accept (s : State) (k : OrderKind) (f : OrderFrame) (tag : Tag) (d : Option DriveId) :
    (s.accept k f tag d).drives = s.drives := rfl

theorem State.port_accept_self (s : State) (k : OrderKind) (f : OrderFrame) (tag : Tag) (d : Option DriveId) :
    (s.accept k f tag d).port f.port =
      { s.port f.port with
        slots := (s.port f.port).slots.set tag (some (newOrder s.nextOid tag k f d)),
        replies := (s.port f.port).replies ++ [.reply tag k.code .accepted] } := by
  simp [State.accept, State.queueReply, State.port, State.modPort]

theorem State.port_accept_ne (s : State) (k : OrderKind) (f : OrderFrame) (tag : Tag) (d : Option DriveId) {q : Port}
    (h : q ≠ f.port) : (s.accept k f tag d).port q = s.port q := by
  simp [State.accept, State.queueReply, State.port, State.modPort, Quad.get_set_ne, h]

theorem State.slot_accept (s : State) (k : OrderKind) (f : OrderFrame) (tag : Tag) (d : Option DriveId) :
    ((s.accept k f tag d).port f.port).slots.get tag = some (newOrder s.nextOid tag k f d) := by
  simp [State.port_accept_self]

/-- The orders held before an acceptance stay in their slots. -/
theorem State.slot_accept_old (s : State) (k : OrderKind) (f : OrderFrame) (tag : Tag) (d : Option DriveId) {p : Port} {g : Tag}
    {o : Order} (hf : (s.port f.port).slots.get tag = none) (ho : (s.port p).slots.get g = some o) :
    ((s.accept k f tag d).port p).slots.get g = some o := by
  by_cases hp : p = f.port
  · subst hp
    have hg : g ≠ tag := by rintro rfl; rw [hf] at ho; cases ho
    rw [State.port_accept_self]
    simpa [Quad.get_set_ne, hg] using ho
  · rw [State.port_accept_ne _ _ _ _ _ hp]; exact ho

/-- What an acceptance leaves at the port, after the order has been handed on. -/
theorem Work.taken {k : OrderKind} {f : OrderFrame} {tag : Tag} {d : Option DriveId} (h : Work (s.accept k f tag d) u) :
    ∃ o, Taken s u k f tag d o := by
  obtain ⟨o, ho, e⟩ := h.slot (State.slot_accept s k f tag d)
  refine ⟨o, ho, (congrArg Order.oid e :), h.nextOid, ⟨(congrArg Order.tag e :), (congrArg Order.kind e :),
    (congrArg Order.logical e :), (congrArg Order.drive e :)⟩, (congrArg Order.start e :),
    ⟨(congrArg Order.count e :), (congrArg Order.flags e :), (congrArg Order.parameter e :)⟩, (h.link f.port).frames _ ?_,
    fun g hg => (h.slotsKept f.port g).trans ?_⟩
  · rw [State.port_accept_self]; simp [PortCtl.toSend]
  · rw [State.port_accept_self]; simp [Quad.get_set_ne, hg]

/-- An acceptance touches only its port. -/
theorem State.untouched_accept (s : State) (k : OrderKind) (f : OrderFrame) (tag : Tag) (d : Option DriveId) :
    Untouched s (s.accept k f tag d) [] [f.port] := by
  have hp : ∀ p, ((s.accept k f tag d).port p).access = (s.port p).access := fun p => by
    by_cases h : p = f.port
    · subst h; rw [State.port_accept_self]
    · rw [State.port_accept_ne _ _ _ _ _ h]
  refine ⟨rfl, rfl, ⟨rfl, rfl, hp, fun _ => rfl, fun _ => rfl, fun _ => rfl⟩, fun _ => ⟨rfl, rfl⟩, fun _ _ => ⟨rfl, rfl⟩, fun p h => ?_⟩
  have h' : p ≠ f.port := by simpa using h
  rw [SlotsKept]
  exact ⟨⟨by rw [State.port_accept_ne _ _ _ _ _ h'], by rw [State.port_accept_ne _ _ _ _ _ h'],
    by rw [State.port_accept_ne _ _ _ _ _ h'], by rw [State.port_accept_ne _ _ _ _ _ h']⟩,
    fun g => by rw [State.port_accept_ne _ _ _ _ _ h']⟩

theorem State.portKept_accept (s : State) (k : OrderKind) (f : OrderFrame) (tag : Tag) (d : Option DriveId) :
    PortKept s (s.accept k f tag d) f.port := by
  constructor <;> rw [State.port_accept_self]

/-- An accepted frame is handed on with its serial number and drive. -/
theorem Accepted.receive {k : OrderKind} {f : OrderFrame} {tag : Tag} (h : Accepted s k f tag)
    (go : Nat → DriveId → State → State) :
    s.receiveOrder k f go = go s.nextOid ((s.accessOf f).phys.getD 0)
      (s.accept k f tag (if k.namesDrive then some ((s.accessOf f).phys.getD 0) else none)) := by
  simp [State.receiveOrder, h.good, h.tagged, h.checks]

/-- The tag of an accepted order was free. -/
theorem Accepted.free {k : OrderKind} {f : OrderFrame} {tag : Tag} (h : Accepted s k f tag) :
    (s.port f.port).slots.get tag = none := by
  have := h.checks
  unfold State.judge at this
  split at this
  · cases this
  · next hf => simpa using hf

/-- An acceptance keeps the law of the serial numbers. -/
theorem State.numberLaw_accept {k : OrderKind} {f : OrderFrame} {tag : Tag} (d : Option DriveId)
    (hf : (s.port f.port).slots.get tag = none) (h : s.numberLaw) : (s.accept k f tag d).numberLaw := by
  have key : ∀ p g o, ((s.accept k f tag d).port p).slots.get g = some o →
      (s.port p).slots.get g = some o ∨ (p = f.port ∧ g = tag ∧ o.oid = s.nextOid) := by
    intro p g o ho
    by_cases hp : p = f.port
    · subst hp
      rw [State.port_accept_self] at ho
      by_cases hg : g = tag
      · subst hg; simp at ho; subst ho; exact .inr ⟨rfl, rfl, rfl⟩
      · rw [Quad.get_set_ne _ _ hg] at ho; exact .inl ho
    · rw [State.port_accept_ne _ _ _ _ _ hp] at ho; exact .inl ho
  refine ⟨Nat.succ_pos _, fun p g o ho => ?_, fun p g o q c r ho hr e => ?_⟩
  · have hn : (s.accept k f tag d).nextOid = s.nextOid + 1 := rfl
    have := h.next
    rcases key p g o ho with ho | ⟨_, _, e⟩
    · have := h.range p g o ho; omega
    · omega
  · rcases key p g o ho with h1 | ⟨hp, hg, e1⟩ <;> rcases key q c r hr with h2 | ⟨hq, hc, e2⟩
    · exact h.distinct p g o q c r h1 h2 e
    · have := h.range p g o h1; omega
    · have := h.range q c r h2; omega
    · exact ⟨hp.trans hq.symm, hg.trans hc.symm⟩

/-! ## Results -/

theorem State.mem_orderList {p : Port} {o : Order} : (p, o) ∈ s.orderList ↔ ∃ g, (s.port p).slots.get g = some o := by
  have hl : ∀ q : Quad (Option Order), some o ∈ q.toList ↔ ∃ g, q.get g = some o := by
    intro q
    constructor
    · intro h
      simp only [Quad.toList, List.mem_cons, List.not_mem_nil, or_false] at h
      rcases h with h | h | h | h
      · exact ⟨0, h.symm⟩
      · exact ⟨1, h.symm⟩
      · exact ⟨2, h.symm⟩
      · exact ⟨3, h.symm⟩
    · rintro ⟨g, h⟩
      rw [← h]
      fin_cases g <;> simp [Quad.toList, Quad.get]
  have hp : p ∈ allPorts := by fin_cases p <;> decide
  unfold State.orderList
  rw [List.mem_flatMap]
  constructor
  · rintro ⟨q, _, h⟩
    obtain ⟨x, hx, e⟩ := List.mem_filterMap.mp h
    cases x with
    | none => cases e
    | some x => cases e; exact (hl _).mp hx
  · intro h
    exact ⟨p, hp, List.mem_filterMap.mpr ⟨some o, (hl _).mpr h, rfl⟩⟩

/-- The order of a serial number is found in its slot. -/
theorem State.findOrder_of {p : Port} {g : Tag} {o : Order} (h : s.numberLaw) (ho : (s.port p).slots.get g = some o) :
    s.findOrder o.oid = some (p, o) := by
  unfold State.findOrder
  cases hf : s.orderList.find? fun e => e.2.oid = o.oid with
  | none =>
    have := List.find?_eq_none.mp hf (p, o) (State.mem_orderList.mpr ⟨g, ho⟩)
    simp at this
  | some e =>
    have he : e.2.oid = o.oid := by simpa using List.find?_some hf
    obtain ⟨c, hc⟩ := State.mem_orderList.mp (List.mem_of_find?_eq_some hf)
    obtain ⟨h1, h2⟩ := h.distinct _ _ _ _ _ _ hc ho he
    obtain ⟨q, r⟩ := e
    dsimp only at h1 hc
    subst h1; subst h2
    rw [hc] at ho
    cases ho
    rfl

theorem State.orderLive_of {p : Port} {g : Tag} {o : Order} (h : s.numberLaw) (ho : (s.port p).slots.get g = some o) :
    s.orderLive o.oid = o.live := by
  simp [State.orderLive, State.findOrder_of h ho]

/-- The order of a serial number stands in a slot and has not reached its end. -/
def Standing (t : State) (p : Port) (g : Tag) (n : Nat) : Prop :=
  ∃ o, (t.port p).slots.get g = some o ∧ o.oid = n ∧ o.live = true

theorem State.port_endOrder_slot (s : State) (n : Nat) (r : Result) (p : Port) (g : Tag) (h : s.orderLive n = true) :
    ((s.endOrder n r).port p).slots.get g = ((s.port p).slots.get g).map fun x => if x.oid = n then
      (if x.live then { x with result := some r, failing := if r.hasFailing then x.failing else none } else x) else x := by
  unfold State.endOrder
  rw [if_pos h]
  change (((s.modOrder n _).port p).slots.get g) = _
  rw [State.port_modOrder, PortCtl.slot_modOrder]

/-- R99: the ending fixes the result. -/
theorem Standing.endOrder {p : Port} {g : Tag} {n : Nat} (h : s.numberLaw) (ho : Standing s p g n) (r : Result) :
    Ended (s.endOrder n r) p g n r := by
  obtain ⟨o, hs, rfl, hl⟩ := ho
  have hlive := State.orderLive_of h hs
  refine ⟨{ o with result := some r, failing := if r.hasFailing then o.failing else none }, ?_, rfl, rfl⟩
  rw [State.port_endOrder_slot s o.oid r p g (by rw [hlive, hl]), hs]
  simp [hl]

/-- The ending of another order leaves it standing. -/
theorem Standing.endOrder_ne {p : Port} {g : Tag} {n m : Nat} (ho : Standing s p g n) (hne : n ≠ m) (r : Result) :
    Standing (s.endOrder m r) p g n := by
  obtain ⟨o, hs, rfl, hl⟩ := ho
  by_cases hm : s.orderLive m = true
  · exact ⟨o, by rw [State.port_endOrder_slot s m r p g hm, hs]; simp [hne], rfl, hl⟩
  · exact ⟨o, by unfold State.endOrder; rw [if_neg hm]; exact hs, rfl, hl⟩

/-- A fixed result stays fixed. -/
theorem Ended.kept {p : Port} {g : Tag} {n : Nat} {r : Result} (h : Ended t p g n r) (w : Work t u) (k : ResultsKept t u) :
    Ended u p g n r := by
  obtain ⟨o, ho, rfl, hr⟩ := h
  obtain ⟨o', ho', hr'⟩ := k p g o r ho hr
  have := w.slotsKept p g
  rw [ho, ho'] at this
  exact ⟨o', ho', Option.some.inj this, hr'⟩

theorem Ended.settle {p : Port} {g : Tag} {n : Nat} {r : Result} (h : Ended t p g n r) (k : Nat) : Ended (settle k t) p g n r :=
  h.kept ((Work.refl t).settle k) (settle_results k t)

theorem Ended.endOrder {p : Port} {g : Tag} {n m : Nat} {r q : Result} (h : Ended t p g n r) : Ended (t.endOrder m q) p g n r :=
  h.kept ((Work.refl t).endOrder m q) (.endOrder t m q)

/-- Orders that end one after the other: each that stood has its result. -/
theorem Standing.foldl_endOrder {p : Port} {g : Tag} {n : Nat} (r : Result) (l : List Nat) (h : s.numberLaw)
    (ho : Standing s p g n) (hn : n ∈ l) : Ended (l.foldl (fun s oid => s.endOrder oid r) s) p g n r := by
  have keep : ∀ (l : List Nat) (t : State), Ended t p g n r → Ended (l.foldl (fun s oid => s.endOrder oid r) t) p g n r := by
    intro l
    induction l with
    | nil => intro t h; exact h
    | cons a l ih => intro t h; exact ih _ h.endOrder
  induction l generalizing s with
  | nil => cases hn
  | cons a l ih =>
    by_cases ha : n = a
    · subst ha; exact keep l _ (ho.endOrder h r)
    · refine ih (((Work.refl s).endOrder a r).number h) (ho.endOrder_ne ha r) ?_
      simpa [ha] using hn

/-! ## Where the orders stand -/

/-- What tells where an order stands in its course. -/
def Order.mark (o : Order) : Nat × OrderKind × Option DriveId × OrderState × Option Result :=
  (o.oid, o.kind, o.drive, o.state, o.result)

/-- Every order stands where it stood. -/
def MarksKept (s t : State) : Prop :=
  ∀ p g, ((t.port p).slots.get g).map Order.mark = ((s.port p).slots.get g).map Order.mark

theorem MarksKept.refl (s : State) : MarksKept s s := fun _ _ => rfl

theorem MarksKept.trans {a b c : State} (h1 : MarksKept a b) (h2 : MarksKept b c) : MarksKept a c :=
  fun p g => (h2 p g).trans (h1 p g)

theorem MarksKept.of_ports (h : t.ports = s.ports) : MarksKept s t := fun p g => by rw [State.port, State.port, h]

theorem MarksKept.modPort (s : State) (p : Port) (f : PortCtl → PortCtl) (h : (f (s.port p)).slots = (s.port p).slots) :
    MarksKept s (s.modPort p f) := fun q g => by
  by_cases hq : q = p
  · subst hq; rw [State.port_modPort_self, h]
  · rw [State.port_modPort_ne _ _ hq]

theorem MarksKept.mapPorts (s : State) (f : PortCtl → PortCtl) (h : ∀ c, (f c).slots = c.slots) :
    MarksKept s { s with ports := s.ports.map f } := fun p g => by simp [State.port, h]

theorem MarksKept.modOrder (s : State) (n : Nat) (f : Order → Order) (h : ∀ o, (f o).mark = o.mark) : MarksKept s (s.modOrder n f) :=
  fun p g => by
    rw [State.port_modOrder, PortCtl.slot_modOrder, Option.map_map]
    congr 1
    funext o
    simp only [Function.comp]
    split <;> simp [h]

theorem MarksKept.foldl {α : Type} (f : State → α → State) (hf : ∀ s a, MarksKept s (f s a)) (l : List α) (s : State) :
    MarksKept s (l.foldl f s) := by
  induction l generalizing s with
  | nil => exact .refl s
  | cons a l ih => exact (hf s a).trans (ih _)

theorem Standing.marks {p : Port} {g : Tag} {n : Nat} (h : Standing s p g n) (k : MarksKept s t) : Standing t p g n := by
  obtain ⟨o, ho, rfl, hl⟩ := h
  have := k p g
  rw [ho] at this
  obtain ⟨r, hr, e⟩ := Option.map_eq_some_iff.mp this
  have e1 : r.oid = o.oid := (congrArg Prod.fst e :)
  have e2 : (r.state, r.result) = (o.state, o.result) := (congrArg (fun x => x.2.2.2) e :)
  refine ⟨r, hr, e1, ?_⟩
  cases e2' : r.state <;> simp_all [Order.live]

theorem Ended.marks {p : Port} {g : Tag} {n : Nat} {r : Result} (h : Ended s p g n r) (k : MarksKept s t) : Ended t p g n r := by
  obtain ⟨o, ho, rfl, hr⟩ := h
  have := k p g
  rw [ho] at this
  obtain ⟨o', ho', e⟩ := Option.map_eq_some_iff.mp this
  exact ⟨o', ho', (congrArg Prod.fst e :), ((congrArg (fun x => x.2.2.2.2) e :) : o'.result = o.result).trans hr⟩

theorem MarksKept.closeVerify (s : State) (n : Nat) : MarksKept s (s.closeVerify n) :=
  .trans (b := s.modOrder n fun o => { o with body := s.verify.wholeTracks.body, done := s.verify.verified })
    (.modOrder s n _ fun _ => rfl) (.of_ports rfl)

theorem MarksKept.clearOp (s : State) (d : DriveId) : MarksKept s (s.clearOp d) := by
  unfold State.clearOp
  have h : ∀ u : State, MarksKept u (u.modDrive d fun x => { x with cur := none, request := false }) := fun u => .of_ports rfl
  split
  · split
    · exact .trans (.closeVerify s _) (h _)
    · exact h s
  · exact h s

theorem MarksKept.windDown (s : State) (d : DriveId) : MarksKept s (s.windDown d) := by
  unfold State.windDown
  split
  · dsimp only
    split
    · split
      · exact .trans (.of_ports rfl) (.clearOp _ d)
      · exact .of_ports rfl
    · exact .of_ports rfl
  · exact .clearOp s d

theorem MarksKept.stopOps (s : State) (l : List Nat) (soft : Bool) : MarksKept s (s.stopOps l soft) := by
  refine .foldl _ (fun s d => ?_) _ s
  split
  · split
    · split
      · exact .of_ports rfl
      · exact .windDown s d
    · exact .refl s
  · exact .refl s

theorem MarksKept.giveSlot (s : State) (i : Fin 8) (p : Port) (o : Order) : MarksKept s (s.giveSlot i p o) :=
  .trans (b := s.setWslot i _) (.of_ports rfl) (.modPort _ p _ rfl)

theorem MarksKept.freeSlot (s : State) (i : Fin 8) : MarksKept s (s.freeSlot i) := by
  unfold State.freeSlot
  have h : ∀ (u : State) (p : Port) (o : Order) (l : List Nat), MarksKept u { u.giveSlot i p o with waitList := l } := fun u p o l =>
    .trans (.giveSlot u i p o) (.of_ports rfl)
  dsimp only
  split
  · exact .of_ports rfl
  · split
    · exact .of_ports rfl
    · split
      · exact .trans (b := { s.setWslot i WriteSlot.free with waitList := _ }) (.of_ports rfl) (h _ _ _ _)
      · exact .trans (b := { s.setWslot i WriteSlot.free with waitList := _ }) (.of_ports rfl) (.giveSlot _ _ _ _)

theorem MarksKept.freeSlots (s : State) (l : List Nat) : MarksKept s (s.freeSlots l) :=
  .foldl _ (fun s i => by split <;> first | exact .freeSlot s i | exact .refl s) _ s

theorem MarksKept.leaveAll (s : State) (l : List Nat) : MarksKept s (((s.leaveWaitList l).leaveQueues l).ringDiscard l) :=
  .trans (b := s.leaveWaitList l) (.of_ports rfl) (.trans (b := (s.leaveWaitList l).leaveQueues l) (.of_ports rfl) (.of_ports rfl))

theorem MarksKept.dropRequests (s : State) (l : List Nat) : MarksKept s (s.dropRequests l) := .mapPorts s _ fun _ => rfl

/-- R91, R97, R117: what the end of orders does besides giving them their result. -/
theorem MarksKept.afterEnd (s : State) (l : List Nat) (soft : Bool) :
    MarksKept s ((((((s.leaveWaitList l).leaveQueues l).ringDiscard l).dropRequests l).stopOps l soft).freeSlots l) :=
  .trans (.leaveAll s l) (.trans (.dropRequests _ l) (.trans (.stopOps _ l soft) (.freeSlots _ l)))

/-- R91, R97, R117: an order that stood is ended with the others it ends with. -/
theorem Standing.endTogether {p : Port} {g : Tag} {n : Nat} (h : s.numberLaw) (ho : Standing s p g n) {l : List Nat} (hn : n ∈ l)
    (r : Result) (soft : Bool) : Ended (s.endTogether l r soft) p g n r := by
  have h1 := ho.foldl_endOrder r l h hn
  exact Ended.marks h1 (.afterEnd _ l soft)

theorem MarksKept.cutOff (s : State) (d : DriveId) : MarksKept s (s.cutOff d) := by
  have hb : ∀ (u : State) op, (u.giveBack op).ports = u.ports := by
    intro u op
    unfold State.giveBack State.ringBack State.setSlotState
    split <;> first | rfl | (split <;> rfl)
  refine .of_ports ?_
  unfold State.cutOff
  split
  · split
    · next op x _ _ =>
      have ht : (match x.frame with
          | some f => if x.begun then s.tear d op.phys x.sector f else s
          | none => s).ports = s.ports := by
        split
        · split <;> rfl
        · rfl
      dsimp only
      split
      · exact ht
      · change (State.giveBack _ _).ports = _
        rw [hb]
        exact ht
    · rfl
  · rfl

theorem MarksKept.cutMapWrite (s : State) (d : DriveId) (st : MapState) : MarksKept s (s.cutMapWrite d st) := by
  unfold State.cutMapWrite
  split
  · split
    · exact .of_ports rfl
    · exact .refl s
  · exact .refl s

theorem MarksKept.abortReassign (s : State) (d : DriveId) : MarksKept s (s.abortReassign d) := by
  unfold State.abortReassign
  split
  · split <;> exact .of_ports rfl
  · exact .refl s

/-- The live orders of a drive. -/
theorem State.mem_ordersOf {d : DriveId} {q : Order → Bool} {n : Nat} :
    n ∈ s.ordersOf d q ↔ ∃ p g o, (s.port p).slots.get g = some o ∧ o.drive = some d ∧ o.live = true ∧ q o = true ∧ o.oid = n := by
  unfold State.ordersOf
  simp only [List.mem_map, List.mem_filter, Bool.and_eq_true, decide_eq_true_eq]
  constructor
  · rintro ⟨⟨p, o⟩, ⟨hm, ⟨h1, h2⟩, h3⟩, rfl⟩
    obtain ⟨g, hg⟩ := State.mem_orderList.mp hm
    exact ⟨p, g, o, hg, h1, h2, h3, rfl⟩
  · rintro ⟨p, g, o, hg, h1, h2, h3, rfl⟩
    exact ⟨(p, o), ⟨State.mem_orderList.mpr ⟨g, hg⟩, ⟨h1, h2⟩, h3⟩, rfl⟩

/-- R13, R18: every order outstanding on the drive but the one kept ends. -/
theorem State.stopDrive_ended {d : DriveId} {p : Port} {g : Tag} {o : Order} (h : s.numberLaw) (r : Result) (ms : MapState)
    {keep : Option Nat} (ho : (s.port p).slots.get g = some o) (hd : o.drive = some d) (hl : o.live = true) (hk : keep ≠ some o.oid) :
    Ended (s.stopDrive d r ms keep) p g o.oid r := by
  have hm : o.oid ∈ ((s.ordersOf d fun _ => true) ++ s.curOids d).filter fun n => keep ≠ some n := by
    rw [List.mem_filter]
    exact ⟨List.mem_append_left _ (State.mem_ordersOf.mpr ⟨p, g, o, ho, hd, hl, rfl, rfl⟩), by simpa using hk⟩
  have h1 : MarksKept s ((((s.cutOff d).cutMapWrite d ms).abortReassign d).clearOp d) :=
    .trans (.cutOff s d) (.trans (.cutMapWrite _ d ms) (.trans (.abortReassign _ d) (.clearOp _ d)))
  have hn : ((((s.cutOff d).cutMapWrite d ms).abortReassign d).clearOp d).numberLaw :=
    ((Lawful.refl s).cutOff d).work ((((Work.refl _).cutMapWrite d ms).abortReassign d).clearOp d) |>.number h
  have h2 := (Standing.marks ⟨o, ho, rfl, hl⟩ h1).endTogether hn hm r false
  have h3 : ∀ u : State, MarksKept u (u.modDrive d Drive.dropInternal) := fun u => .of_ports rfl
  unfold State.stopDrive
  dsimp only
  exact h2.marks (h3 _)

end Sys2Proof.Machine
end

