-- ==== Sys2Proof/Laws/PerInstr.lean ====
section
/-! SUPPORT. A law of the commands as syntax, one lemma for each: the bytes of a command that is a host frame are at least its kind
byte, and those of a well-formed one no more than a DATA frame's 515 (9.10). -/

namespace Sys2Proof.Laws

/-- The bytes of a host frame (9.10), its check not counted: at least one, and at most 515 when it is well formed. -/
def Framed.Statement (i : Instr) : Prop := ∀ b, encodeFrame i = some b → 1 ≤ b.length ∧ (i.wf = true → b.length ≤ 515)

namespace Framed

/-- An ORDER frame is at most 268 bytes. -/
theorem order_length (code : Byte) (f : OrderFrame) :
    1 ≤ (encodeOrder code f).length ∧ (f.wf = true → (encodeOrder code f).length ≤ 515) := by
  refine ⟨by simp [encodeOrder], fun h => ?_⟩
  have h : f.body.length ≤ 255 := by simpa [OrderFrame.wf] using h
  simp only [encodeOrder, List.length_append, List.length_cons, List.length_nil]
  omega

theorem powerOn (plugs : Plugs) (poll : Poll) : Statement (.powerOn plugs poll) := by
  rintro b ⟨⟩

theorem powerFailure : Statement (.powerFailure) := by
  rintro b ⟨⟩

theorem stringResetLine (port : Port) (poll : Poll) : Statement (.stringResetLine port poll) := by
  rintro b ⟨⟩

theorem indexPulse (d : DriveId) : Statement (.indexPulse d) := by
  rintro b ⟨⟩

theorem sectorPulse (d : DriveId) : Statement (.sectorPulse d) := by
  rintro b ⟨⟩

theorem spinUpLimitExpiry (d : DriveId) : Statement (.spinUpLimitExpiry d) := by
  rintro b ⟨⟩

theorem indexWatchdogExpiry (d : DriveId) : Statement (.indexWatchdogExpiry d) := by
  rintro b ⟨⟩

theorem positionerUpdate (d : DriveId) (home : Bool) : Statement (.positionerUpdate d home) := by
  rintro b ⟨⟩

theorem onCylinderReport (d : DriveId) : Statement (.onCylinderReport d) := by
  rintro b ⟨⟩

theorem recalibrationFailed (d : DriveId) : Statement (.recalibrationFailed d) := by
  rintro b ⟨⟩

theorem sectorReadEnd (d : DriveId) (seen : Option Frame) : Statement (.sectorReadEnd d seen) := by
  rintro b ⟨⟩

theorem sectorWriteEnd (d : DriveId) : Statement (.sectorWriteEnd d) := by
  rintro b ⟨⟩

theorem watchWindowExpiry (slot : Fin 16) : Statement (.watchWindowExpiry slot) := by
  rintro b ⟨⟩

theorem read (f : OrderFrame) : Statement (.read f) := by
  rintro b ⟨⟩; exact order_length _ f

theorem write (f : OrderFrame) : Statement (.write f) := by
  rintro b ⟨⟩; exact order_length _ f

theorem verify (f : OrderFrame) : Statement (.verify f) := by
  rintro b ⟨⟩; exact order_length _ f

theorem seek (f : OrderFrame) : Statement (.seek f) := by
  rintro b ⟨⟩; exact order_length _ f

theorem surfaceVerify (f : OrderFrame) : Statement (.surfaceVerify f) := by
  rintro b ⟨⟩; exact order_length _ f

theorem reserve (f : OrderFrame) : Statement (.reserve f) := by
  rintro b ⟨⟩; exact order_length _ f

theorem release (f : OrderFrame) : Statement (.release f) := by
  rintro b ⟨⟩; exact order_length _ f

theorem sense (f : OrderFrame) : Statement (.sense f) := by
  rintro b ⟨⟩; exact order_length _ f

theorem tableSelect (f : OrderFrame) : Statement (.tableSelect f) := by
  rintro b ⟨⟩; exact order_length _ f

theorem tablePut (f : OrderFrame) : Statement (.tablePut f) := by
  rintro b ⟨⟩; exact order_length _ f

theorem tableGet (f : OrderFrame) : Statement (.tableGet f) := by
  rintro b ⟨⟩; exact order_length _ f

theorem readTallies (f : OrderFrame) : Statement (.readTallies f) := by
  rintro b ⟨⟩; exact order_length _ f

theorem reassignTrack (f : OrderFrame) : Statement (.reassignTrack f) := by
  rintro b ⟨⟩; exact order_length _ f

theorem fence (f : OrderFrame) : Statement (.fence f) := by
  rintro b ⟨⟩; exact order_length _ f

theorem unfence (f : OrderFrame) : Statement (.unfence f) := by
  rintro b ⟨⟩; exact order_length _ f

theorem driveReset (f : OrderFrame) : Statement (.driveReset f) := by
  rintro b ⟨⟩; exact order_length _ f

theorem commitMap (f : OrderFrame) : Statement (.commitMap f) := by
  rintro b ⟨⟩; exact order_length _ f

theorem stringReset (f : OrderFrame) (poll : Poll) : Statement (.stringReset f poll) := by
  rintro b ⟨⟩; exact order_length _ f

theorem hostDataFrame (f : DataFrame) : Statement (.hostDataFrame f) := by
  rintro b ⟨⟩; exact ⟨by simp, fun h => by simp only [Instr.wf, DataFrame.wf, decide_eq_true_eq] at h; simp [h]⟩

theorem cancel (f : CancelFrame) : Statement (.cancel f) := by
  rintro b ⟨⟩; exact ⟨by simp, fun _ => by simp⟩

theorem portReset (f : ResetFrame) : Statement (.portReset f) := by
  rintro b ⟨⟩; exact ⟨by simp, fun _ => by simp⟩

theorem frameTaken (p : Port) : Statement (.frameTaken p) := by
  rintro b ⟨⟩

theorem deliveryTimeout (p : Port) : Statement (.deliveryTimeout p) := by
  rintro b ⟨⟩

theorem dataRequestTimeout (slot : Fin 8) : Statement (.dataRequestTimeout slot) := by
  rintro b ⟨⟩

theorem unknownFrameKind (u : UnknownFrame) : Statement (.unknownFrameKind u) := by
  intro b h
  cases u with
  | kindByte p kind c =>
    simp only [encodeFrame, Option.some.injEq] at h
    subst h
    split <;> exact ⟨by simp, fun _ => by simp⟩
  | orderKind code f =>
    cases h
    exact ⟨(order_length code f).1, fun h => (order_length code f).2 (by
      simp only [Instr.wf, UnknownFrame.wf, Bool.and_eq_true] at h; exact h.2)⟩

end Framed

end Sys2Proof.Laws
end

