-- ==== Sys2Proof/Tests/Slice0.lean ====
section
/-! SUPPORT. The model's own tests: ill-formed commands, frames written out byte by byte, the manual's worked cases, one step of
each command, and the witnesses of the statements' hypotheses. -/

namespace Sys2Proof.Tests

open Sys2Proof.Machine

/-! ## Helpers -/

/-- The state after a command. -/
def after (c : Instr) (s : State) : State :=
  match exec c s with
  | .next t => t
  | .fault _ => s
  | .refused _ => s

/-- A type 1 drive in a state, on cylinder 0, with its map held. -/
def unit (st : DriveState) : Drive :=
  { Drive.initial with
    present := true, plugType := 1, state := st, geom := builtinGeometry 1, pool := [.free, .free], mapHeld := true,
    chan := { Channel.initial Profile.initial with phase := .idle, known := true } }

/-- The reset state with a drive at address 0. -/
def withUnit (x : Drive) : State := State.reset.modDrive 0 fun _ => x

def inState (st : DriveState) : State := withUnit (unit st)

/-- An ORDER frame of port A under tag 0 for drive 0, with a good check. -/
def order : OrderFrame :=
  { port := 0, checkOk := true, tag := 0#8, logical := 0#8, cyl := 0#16, head := 0#8, sector := 0#8, count := 1#8, flags := 0#8,
    parameter := 1#16, body := [] }

/-- A poll that finds type 1 at address 0, type 15 at address 7 and nothing else. -/
def poll : Poll := { Oct.all none with v0 := some 1, v7 := some 15 }

/-- An order of port A under tag 0 with serial number 1. -/
def held (k : OrderKind) (st : OrderState) : Order :=
  { newOrder 1 0 k order (some 0) with state := st }

/-- An operation on track (0, 0) for order 1. -/
def running (k : OpKind) (p : Pass) : Op := { Op.internal k ⟨0, 0⟩ ⟨0, 0⟩ .home p with oid := 1, count := 1 }

/-- A state with an order in slot 0 of port A. -/
def holding (s : State) (o : Order) : State :=
  { s.modPort 0 fun c => { c with slots := c.slots.set 0 (some o) } with nextOid := 2 }

/-- Drive 0 holds the path for a transfer of its sector 0. -/
def onPath (s : State) (frame : Option Frame) : State :=
  { s with path := { holder := some 0, last := 0, burst := 1,
                     xfer := some { sector := 0, begun := true, chained := false, cont := false, early := none, frame := frame } } }

/-- A READ of drive 0 under way, its ring slot FILLING. -/
def reading : State :=
  (onPath (holding (withUnit { unit .ready with cur := some (running .read .read) }) (held .read .active)) none).setRun
    [{ state := .filling, port := 0, tag := 0, oid := 1, index := 0, data := none }]

/-- The frame a host WRITE lays down on sector 0 of track (0, 0) of drive 0. -/
def written : Frame := .framed true ⟨0, 0, 0, 0, .home, false⟩ (.good (.pattern 0 0 0 0))

/-- A WRITE of drive 0 under way. -/
def writing : State :=
  (onPath (holding (withUnit { unit .ready with cur := some (running .write .write) }) (held .write .active)) (some written)).setWslot
    0 { state := .writing, port := 0, tag := 0, oid := 1, index := 0, since := 0, data := [] }

/-- A window of port A on a table, at an index. -/
def looking (s : State) (t : TableId) (i : Nat) : State :=
  s.modPort 0 fun c => { c with window := { table := some t, drive := 0, index := i, advance := true } }

/-- The numbers of the orders held, checked one by one. -/
def numbersOk (s : State) : Prop :=
  0 < s.nextOid ∧
  (∀ p g, ∀ o ∈ (s.port p).slots.get g, 0 < o.oid ∧ o.oid < s.nextOid) ∧
  ∀ p g q h, ∀ o ∈ (s.port p).slots.get g, ∀ r ∈ (s.port q).slots.get h, o.oid = r.oid → p = q ∧ g = h

theorem numberLaw_of_ok {s : State} (h : numbersOk s) : s.numberLaw :=
  ⟨h.1, fun p g o ho => h.2.1 p g o ho, fun p g o q k r ho hr => h.2.2 p g q k o ho r hr⟩

theorem numberLaw_of_none {s : State} (h : 0 < s.nextOid ∧ ∀ p g, (s.port p).slots.get g = none) : s.numberLaw :=
  numberLaw_of_ok ⟨h.1, fun p g o ho => by simp [h.2 p g] at ho, fun p g q k o ho => by simp [h.2 p g] at ho⟩

/-! ## Well-formedness: an ill-formed term for each check -/

set_option maxRecDepth 8000 in
theorem test_long_body_ill_formed : (Instr.tablePut { order with body := List.replicate 256 0#8 }).wf = false := by
  decide

set_option maxRecDepth 8000 in
theorem test_short_data_ill_formed :
    (Instr.hostDataFrame { port := 0, checkOk := true, tag := 0#8, index := 0#8, data := List.replicate 511 0#8 }).wf = false := by
  decide

theorem test_short_payload_ill_formed :
    (Instr.sectorReadEnd 0 (some (.framed true ⟨0, 0, 0, 0, .home, false⟩ (.good (.bytes []))))).wf = false := by decide

theorem test_fourth_record_part_ill_formed :
    (Instr.sectorReadEnd 0 (some (.framed true ⟨0, 0, 0, 0, .map, false⟩ (.good (.record 3 ⟨1, 0, 0, 0, 0, 0, 0, [], [], true⟩ []))))).wf
      = false := by decide

theorem test_known_frame_kind_ill_formed : (Instr.unknownFrameKind (.kindByte 0 1#8 true)).wf = false := by decide

theorem test_known_order_kind_ill_formed : (Instr.unknownFrameKind (.orderKind 0x3A#8 order)).wf = false := by decide

set_option maxRecDepth 8000 in
theorem test_long_unknown_body_ill_formed :
    (Instr.unknownFrameKind (.orderKind 0x40#8 { order with body := List.replicate 256 0#8 })).wf = false := by
  decide

/-! ## Frames written out from 9.10 -/

/-- READ, tag 2, logical drive 5, cylinder 0123H, head 4, sector 6, count 7. -/
theorem test_read_frame :
    decodeFrame 1 true poll [0x01#8, 0x02#8, 0x10#8, 0x05#8, 0x01#8, 0x23#8, 0x04#8, 0x06#8, 0x07#8, 0x00#8, 0x00#8, 0x00#8, 0x00#8] =
      .read { port := 1, checkOk := true, tag := 2#8, logical := 5#8, cyl := 0x123#16, head := 4#8, sector := 6#8, count := 7#8,
              flags := 0#8, parameter := 0#16, body := [] } := by decide

/-- TABLE SELECT of table 5, drive 2, index 100, advance on. -/
theorem test_table_select_frame :
    decodeFrame 0 true poll [0x01#8, 0x00#8, 0x30#8, 0x02#8, 0x00#8, 0x00#8, 0x00#8, 0x05#8, 0x00#8, 0x02#8, 0x00#8, 0x64#8, 0x00#8] =
      .tableSelect { order with logical := 2#8, sector := 5#8, count := 0#8, flags := 2#8, parameter := 100#16 } := by decide

/-- TABLE PUT with the four bytes of a sparing policy. -/
theorem test_table_put_frame :
    decodeFrame 0 true poll
        [0x01#8, 0x00#8, 0x31#8, 0x00#8, 0x00#8, 0x00#8, 0x00#8, 0x00#8, 0x01#8, 0x00#8, 0x00#8, 0x01#8, 0x04#8, 0x01#8, 0x03#8,
         0x3C#8, 0x01#8] = .tablePut { order with body := [1#8, 3#8, 60#8, 1#8] } := by decide

theorem test_reassign_and_state_frames :
    decodeFrame 0 true poll [0x01#8, 0x00#8, 0x34#8, 0x00#8, 0x00#8, 0x00#8, 0x00#8, 0x00#8, 0x01#8, 0x00#8, 0x00#8, 0x01#8, 0x00#8] =
        .reassignTrack order ∧
      decodeFrame 0 true poll [0x01#8, 0x00#8, 0x3A#8, 0x00#8, 0x00#8, 0x00#8, 0x00#8, 0x00#8, 0x01#8, 0x00#8, 0x00#8, 0x01#8, 0x00#8] =
        .stringReset order poll := by decide

theorem test_cancel_and_port_reset_frames :
    decodeFrame 3 true poll [0x03#8, 0x01#8] = .cancel { port := 3, checkOk := true, tag := 1#8 } ∧
      decodeFrame 3 false poll [0x04#8] = .portReset { port := 3, checkOk := false } := by decide

theorem test_unknown_kinds :
    decodeFrame 3 true poll [0x05#8, 0x01#8] = .unknownFrameKind (.kindByte 3 5#8 true) ∧
      decodeFrame 0 true poll [0x01#8, 0x00#8, 0x14#8, 0x00#8, 0x00#8, 0x00#8, 0x00#8, 0x00#8, 0x01#8, 0x00#8, 0x00#8, 0x01#8, 0x00#8] =
        .unknownFrameKind (.orderKind 0x14#8 order) := by decide

/-- 9.10: ENDING DATA CHECK of tag 1 with 3 sectors done, retry step 7, failing address (012FH, 2, 9), not clamped, no body. -/
theorem test_ending_bytes :
    (OutFrame.ending 9 1 .dataCheck 3 7 false (some ⟨0x12F, 2, 9⟩) []).encode =
      [0x82#8, 0x01#8, 0x10#8, 0x00#8, 0x03#8, 0x07#8, 0x01#8, 0x01#8, 0x2F#8, 0x02#8, 0x09#8, 0x00#8] := by decide

theorem test_reply_and_notice_bytes :
    (OutFrame.reply 2 0x30#8 .badOrder).encode = [0x81#8, 0x02#8, 0x30#8, 0x02#8] ∧
      (OutFrame.notice 5 noticeMapLost).encode = [0x85#8, 0x05#8, 0x04#8] := by decide

theorem test_no_table_words : decodeTableWord 0 0 = none ∧ (State.reset.withFetchWord 0 0).pending = [] := by decide

/-! ## The manual's worked cases -/

/-- 1.4, qualification of a type 2 drive: the tolerance is 52 units. -/
theorem test_qualification_tolerance :
    inTolerance 1667 1719 = true ∧ inTolerance 1667 1720 = false ∧ inTolerance 1667 1615 = true ∧ inTolerance 1667 1614 = false := by
  decide

/-- The seeks of chapter 2: a channel IDLE at a position takes a target and makes a number of updates. -/
def sought (m : Nat) (p : Profile) (start target updates : Nat) : Channel :=
  (Channel.update m false)^[updates]
    ({ Channel.initial p with phase := .idle, known := true, pos := start }.startSeek target)

/-- Worked seek, channel mode 4: updates 7, 12 and 18. -/
theorem test_worked_seek_mode4 :
    (sought 1 Profile.initial 0 192 7).pos = 112 ∧ (sought 1 Profile.initial 0 192 7).phase = .accel ∧
      (sought 1 Profile.initial 0 192 8).vel = 24 ∧ (sought 1 Profile.initial 0 192 12).pos = 192 ∧
      (sought 1 Profile.initial 0 192 12).settle = 6 ∧ (sought 1 Profile.initial 0 192 17).phase = .settling ∧
      (sought 1 Profile.initial 0 192 18).phase = .idle := by decide

/-- Worked seek, channel mode 8: updates 4, 10, 13, 28 and 31. -/
theorem test_worked_seek_mode8 :
    (sought 2 Profile.initial 0 640 4).phase = .cruise ∧ (sought 2 Profile.initial 0 640 9).pos = 480 ∧
      (sought 2 Profile.initial 0 640 10).vel = 48 ∧ (sought 2 Profile.initial 0 640 13).pos = 580 ∧
      (sought 2 Profile.initial 0 640 28).pos = 640 ∧ (sought 2 Profile.initial 0 640 28).settle = 3 ∧
      (sought 2 Profile.initial 0 640 31).phase = .idle := by decide

/-- Worked offset seek with a hard arrival. -/
theorem test_worked_hard_arrival :
    (sought 1 Profile.initial 12779 12828 4).arrivesHard 1 = true ∧ (sought 1 Profile.initial 12779 12828 5).pos = 12828 ∧
      (sought 1 Profile.initial 12779 12828 5).settle = 12 ∧ (sought 1 Profile.initial 12779 12828 17).phase = .idle := by decide

/-- R36: the offset targets of its table. -/
theorem test_offset_targets :
    offsetTarget ⟨1, 408, 10, 32, 8, 1667⟩ 4 0 1 false = 0 ∧ offsetTarget ⟨1, 408, 10, 32, 8, 1667⟩ 4 0 2 true = 8 ∧
      offsetTarget ⟨1, 408, 10, 32, 8, 1667⟩ 4 407 1 true = 26048 ∧ offsetTarget ⟨1, 408, 10, 32, 8, 1667⟩ 4 407 3 false = 26036 ∧
      offsetTarget ⟨2, 808, 16, 32, 8, 1667⟩ 8 807 7 true = 51648 := by decide

/-- 3.12: type 1 has pool positions 0 to 79 with the map track (407, 0) at position 70; position 3 is track (400, 3). -/
theorem test_worked_pool :
    Geometry.poolSize ⟨1, 408, 10, 32, 8, 1667⟩ = 80 ∧ Geometry.mapPos ⟨1, 408, 10, 32, 8, 1667⟩ = 70 ∧
      Geometry.mapTrack ⟨1, 408, 10, 32, 8, 1667⟩ = ⟨407, 0⟩ ∧ Geometry.posTrack ⟨1, 408, 10, 32, 8, 1667⟩ 3 = ⟨400, 3⟩ ∧
      Geometry.trackPos ⟨1, 408, 10, 32, 8, 1667⟩ ⟨407, 0⟩ = 70 := by decide

/-- 6.8: five orders wait on a SWEEP drive with its arm on cylinder 400, INWARD; the map sends (405, 7) to (801, 3). -/
def sweepCase : State :=
  let mk (oid : Nat) (c h pass : Nat) : Order :=
    { newOrder oid 0 .read order (some 0) with start := ⟨c, h, 0⟩, passOver := pass }
  let put (p : Port) (g : Tag) (o : Order) (s : State) : State := s.modPort p fun c => { c with slots := c.slots.set g (some o) }
  let x : Drive :=
    { unit .ready with
      geom := builtinGeometry 2, queue := [1, 2, 3, 4, 5], profile := { builtinProfile 2 with sweep := true },
      chan := { Channel.initial Profile.initial with phase := .idle, known := true, pos := 400 * 64 },
      spare := [{ slot := 0, home := ⟨405, 7⟩, alt := ⟨801, 3⟩, pending := false, origin := .auto, replacement := none }] }
  put 1 0 (mk 1 20 0 6) (put 0 1 (mk 2 610 2 0) (put 2 0 (mk 3 405 7 0) (put 0 2 (mk 4 450 1 0) (put 3 3 (mk 5 398 0 0) (withUnit x)))))

/-- 6.8, selection 1: order 4 is taken; the counts of the three older ones rise to 7, 1 and 1 and the younger one keeps 0. -/
theorem test_worked_sweep :
    (sweepCase.select 0).map (fun t => (((t.drive 0).cur.map Op.oid), (t.drive 0).queue,
      [1, 2, 3, 5].map fun n => (t.findOrder n).map fun e => e.2.passOver)) =
      some (some 4, [1, 2, 3, 5], [some 7, some 1, some 1, some 0]) := by decide

/-! ## One step of each command -/

theorem test_power_on_spins_lowest :
    ((after (.powerOn ⟨2, true, 9⟩ poll) State.reset).drive 0).state = .spinningUp ∧
      ((after (.powerOn ⟨2, true, 9⟩ poll) State.reset).drive 7).state = .waitingSpin ∧
      ((after (.powerOn ⟨2, true, 9⟩ poll) State.reset).port 2).access.maintenance = true := by decide

theorem test_power_on_mode4_serves_four :
    ((after (.powerOn ⟨0, false, 0⟩ poll) State.reset).drive 7).state = .absent := by decide

set_option maxRecDepth 20000 in
theorem test_power_failure_tears :
    mediaGet (after .powerFailure writing).media 0 = tornFrame (Config.headerLaid 0) written := by rfl

theorem test_reset_line :
    ((after (.stringResetLine 1 poll) (inState .ready)).drive 0).state = .recalibrating ∧
      (after (.stringResetLine 1 poll) (inState .ready)).startCause = .resetLine := by decide

theorem test_index_pulse_qualifies_third :
    ((after (.indexPulse 0) { withUnit { unit .spinningUp with lastIndex := some 0, qual := 2 } with clock := 1668 }).drive 0).state =
      .recalibrating := by decide

theorem test_index_pulse_out_of_tolerance :
    ((after (.indexPulse 0) { withUnit { unit .spinningUp with lastIndex := some 0, qual := 2 } with clock := 1724 }).drive 0).qual =
      0 := by decide

theorem test_sector_pulse_stays_at_last : ((after (.sectorPulse 0) (withUnit { unit .ready with counter := 31 })).drive 0).counter = 31 := by
  decide

theorem test_spin_up_limit :
    ((after (.spinUpLimitExpiry 0) { inState .spinningUp with clock := 6000000 }).drive 0).state = .notReady ∧
      ((after (.spinUpLimitExpiry 0) { inState .spinningUp with clock := 5999999 }).drive 0).state = .spinningUp := by decide

theorem test_index_watchdog :
    ((after (.indexWatchdogExpiry 0) { withUnit { unit .ready with watchLimit := 3334 } with clock := 3334 }).drive 0).state =
      .notReady := by decide

theorem test_positioner_update_steps :
    ((after (.positionerUpdate 0 false)
      (withUnit { unit .ready with chan := { (unit .ready).chan with phase := .accel, target := 192 } })).drive 0).chan.pos = 4 := by
  decide

theorem test_on_cylinder_report :
    ((after (.onCylinderReport 0)
      (withUnit { unit .ready with chan := { (unit .ready).chan with phase := .settling, settle := 1 } })).drive 0).chan.phase =
      .idle := by decide

theorem test_recalibration_failed :
    ((after (.recalibrationFailed 0)
      (withUnit { unit .recalibrating with chan := { (unit .ready).chan with phase := .recal, recalLimit := 5, recalCount := 4 } })).drive
        0).state = .notReady := by decide

theorem test_sector_read_end_holds :
    (after (.sectorReadEnd 0 (some written)) reading).ring.run =
      [{ state := .held, port := 0, tag := 0, oid := 1, index := 0, data := some (.pattern 0 0 0 0) }] := by decide

theorem test_sector_read_end_starts_ladder :
    ((after (.sectorReadEnd 0 (some .noSync)) reading).drive 0).cur.bind Op.ladder = some { k := 3, step := 1 } := by decide

theorem test_sector_write_end :
    mediaGet (after (.sectorWriteEnd 0) writing).media 0 = written ∧ ((after (.sectorWriteEnd 0) writing).wslots.get 0).state = .free := by
  decide

/-- A COUNTING entry for (0, 0) of drive 0, seen at time 0. -/
def counting : WatchEntry := WatchEntry.fresh 0 ⟨0, 0⟩ 0

theorem test_watch_window :
    (after (.watchWindowExpiry 15)
      { (inState .ready).setSlot 15 (.entry counting) with clock := 6000000 }).watch[15]? = some .empty := by decide

theorem test_read_accepted :
    ((after (.read order) (inState .ready)).port 0).sending = some (.reply 0 0x10#8 .accepted) ∧
      ((after (.read order) (inState .ready)).drive 0).cur.map Op.kind = some .read := by decide

theorem test_read_past_cylinder_end_refused :
    ((after (.read { order with head := 9#8, sector := 31#8, count := 2#8 }) (inState .ready)).port 0).sending =
      some (.reply 0 0x10#8 .addressRange) := by decide

theorem test_write_requests_data :
    ((after (.write order) (inState .ready)).wslots.get 0).state = .requested ∧
      ((after (.write order) (inState .ready)).port 0).dataReqs = [.dataRequest 1 0 0] := by decide

theorem test_write_needs_write_right :
    ((after (.write order) ((inState .ready).modPort 0 fun c =>
      { c with access := { c.access with logical := c.access.logical.set 0 ⟨some 0, .read⟩ } })).port 0).sending =
      some (.reply 0 0x11#8 .noAccess) := by decide

theorem test_verify_waits_in_start_up : ((after (.verify order) (inState .loadingMap)).drive 0).queue = [1] := by decide

theorem test_seek_of_length_zero_completes :
    (((after (.seek order) (inState .ready)).port 0).slots.get 0).bind Order.result = some .complete := by decide

theorem test_destructive_surface_verify_needs_fence :
    ((after (.surfaceVerify { order with flags := 1#8 }) (inState .ready)).port 0).sending = some (.reply 0 0x35#8 .driveState) ∧
      (after (.surfaceVerify { order with flags := 1#8 }) (inState .fenced)).verify.phase = some .trackWrite := by decide

theorem test_reserve : ((after (.reserve order) (inState .ready)).drive 0).holder = some 0 := by decide

theorem test_reserve_held_elsewhere :
    ((after (.reserve order) (withUnit { unit .ready with holder := some 2 })).port 0).sending =
      some (.reply 0 0x20#8 .reservedElsewhere) := by decide

theorem test_release : ((after (.release order) (withUnit { unit .ready with holder := some 0 })).drive 0).holder = none := by decide

/-- R155: NOT READY, cylinder 0, IDLE, holder C, CLEAN, nothing queued, no notice, type 1, identity 0, POWER ON. -/
theorem test_sense_body :
    (((after (.sense { order with port := 2 }) (withUnit { unit .notReady with holder := some 2 })).port 2).slots.get 0).map
      Order.body = some [9#8, 0#8, 0#8, 0#8, 2#8, 0#8, 0#8, 0#8, 1#8, 0#8, 0#8] := by decide

theorem test_table_select :
    ((after (.tableSelect { order with sector := 7#8, parameter := 15#16 }) State.reset).port 0).window.table = some .watchList ∧
      ((after (.tableSelect { order with sector := 7#8, parameter := 16#16 }) State.reset).port 0).sending =
        some (.reply 0 0x30#8 .badOrder) := by decide

theorem test_table_put_clamps_policy :
    ((after (.tablePut { order with body := [1#8, 0#8, 0#8, 40#8] }) (looking (inState .ready) .sparingPolicy 0)).drive 0).policy =
        { auto := true, threshold := 1, window := 1, verifyThreshold := 32 } ∧
      ((after (.tablePut { order with body := [1#8, 0#8, 0#8, 40#8] }) (looking (inState .ready) .sparingPolicy 0)).port 0).window.index =
        1 := by decide

theorem test_table_put_geometry_needs_fence :
    ((after (.tablePut { order with body := [1#8, 1#8, 0x98#8, 10#8, 32#8, 8#8, 6#8, 0x83#8] })
      (looking (inState .ready) .geometry 0)).port 0).sending = some (.reply 0 0x31#8 .driveState) := by decide

theorem test_table_get_geometry :
    (((after (.tableGet order) (looking (inState .ready) .geometry 0)).port 0).slots.get 0).map Order.body =
      some [1#8, 1#8, 0x98#8, 10#8, 32#8, 8#8, 6#8, 0x83#8] := by decide

theorem test_read_tallies_clears :
    ((after (.readTallies order) (withUnit { unit .ready with tally := { DriveTallies.zero with seeks := 65535 } })).drive 0).tally.seeks
      = 0 := by decide

theorem test_reassign_track_orders_candidate :
    (watchEntry (after (.reassignTrack order) { inState .ready with reassign := { ReassignEngine.initial with state := .copying } }).watch
      0).bind WatchEntry.cause = some .ordered := by decide

theorem test_fence_ends_order :
    ((after (.fence { order with tag := 1#8 }) (holding (withUnit { unit .ready with cur := some (running .read .read) })
      (held .read .active))).port 0).slots.toList.map (fun o => o.bind Order.result) = [some .fenced, some .complete, none, none] := by
  decide

theorem test_unfence : ((after (.unfence order) (inState .fenced)).drive 0).state = .recalibrating := by decide

theorem test_drive_reset_restarts_spin : ((after (.driveReset order) (inState .notReady)).drive 0).state = .spinningUp := by decide

theorem test_commit_map_starts_write : ((after (.commitMap order) (inState .fenced)).drive 0).mapState = .writing := by decide

theorem test_string_reset_order :
    (after (.stringReset order poll) (inState .ready)).startCause = .resetOrder ∧
      (((after (.stringReset order poll) (inState .ready)).port 0).slots.get 0).bind Order.result = some .complete := by decide

/-- A REQUESTED slot 0 of order 1. -/
def asked (s : State) : State :=
  s.setWslot 0 { state := .requested, port := 0, tag := 0, oid := 1, index := 0, since := 0, data := [] }

theorem test_host_data_fills :
    ((after (.hostDataFrame { port := 0, checkOk := true, tag := 0#8, index := 0#8, data := [7#8] }) (asked State.reset)).wslots.get
      0).data = [7#8] := by decide

theorem test_cancel_queued :
    (((after (.cancel { port := 0, checkOk := true, tag := 0#8 })
      (holding (withUnit { unit .loadingMap with queue := [1] }) (held .read .queued))).port 0).slots.get 0).bind Order.result =
      some .cancelled := by decide

theorem test_port_reset_releases :
    ((after (.portReset { port := 0, checkOk := true }) (withUnit { unit .ready with holder := some 0 })).drive 0).holder = none := by
  decide

/-- Port A sends a frame. -/
def sendingA (s : State) (f : OutFrame) : State := s.modPort 0 fun c => { c with sending := some f }

theorem test_frame_taken_frees_tag :
    ((after (.frameTaken 0) (sendingA (holding State.reset (held .seek .ending)) (.ending 1 0 .complete 0 0 false none []))).port
      0).slots.get 0 = none := by decide

/-- A HELD ring slot of order 1, offered to port A from time 0. -/
def offering : State :=
  { ((holding (inState .ready) { held .read .active with held := some .complete }).setRun
      [{ state := .held, port := 0, tag := 0, oid := 1, index := 0, data := some (.pattern 0 0 0 0) }]).modPort 0 fun c =>
        { c with offered := some { oid := 1, index := 0, since := 0 } } with clock := 200000 }

theorem test_delivery_timeout :
    ((after (.deliveryTimeout 0) offering).port 0).timeouts = 1 ∧ (after (.deliveryTimeout 0) offering).ring = { boundary := 1, run := [] } := by
  decide

theorem test_data_request_timeout :
    ((after (.dataRequestTimeout 0) { asked (holding (inState .ready) (held .write .active)) with clock := 200000 }).port 0).timeouts = 1 := by
  decide

theorem test_unknown_kind_counted :
    ((after (.unknownFrameKind (.kindByte 3 9#8 true)) State.reset).port 3).protocolErrors = 1 ∧
      ((after (.unknownFrameKind (.orderKind 0x40#8 order)) State.reset).port 0).sending = some (.reply 0 0x40#8 .badOrder) := by decide

theorem test_idle_step_ticks : (match step State.reset with | .next t => t.clock | _ => 0) = 1 := by decide

/-! ## Witnesses: for each statement, a state and operands that meet its hypotheses, clause by clause -/

/-- A state whose orders' numbers are lawful. -/
theorem ready_numberLaw : (inState .ready).numberLaw := numberLaw_of_ok (by unfold numbersOk; decide)

/-- The engine law, checked drive by drive, where no REASSIGN is queued or current. -/
theorem engineLaw_of_none {s : State}
    (h : ∀ d, (s.drive d).pendReassign = false ∧ (∀ op ∈ (s.drive d).cur, op.kind ≠ .reassign) ∧
      ((s.drive d).geom = none → (s.drive d).state ∈ [.absent, .waitingSpin, .spinningUp, .notReady, .fenced] ∧
        (s.drive d).cur = none ∧ (s.drive d).pendRecal = false ∧ (s.drive d).pendLoad = false ∧ (s.drive d).pendWrite = false) ∧
      ∀ op ∈ (s.drive d).cur, op.kind = .surface → op.pass ≠ .read ∨ s.destructive = true →
        s.destructive = true ∧ (s.drive d).state = .fenced) :
    s.engineLaw where
  geometry d hg := (h d).2.2.1 hg
  queued d hp := by simp [(h d).1] at hp
  current d op ho hk := absurd hk ((h d).2.1 op ho)
  surface d op ho := (h d).2.2.2 op ho

theorem witness_StepRunsFrontCommand :
    ({ State.reset with pending := [.powerFailure, .indexPulse 7] } : State).pending = Instr.powerFailure :: [.indexPulse 7] := rfl

theorem witness_IdleStepTicks : State.reset.pending = [] ∧ State.reset.powered = true := by decide

theorem witness_EveryCommandAnswers :
    ({ State.reset with powered := false } : State).powered = false ∧ ∀ pl po, Instr.powerFailure ≠ .powerOn pl po :=
  ⟨rfl, fun _ _ h => by cases h⟩

theorem witness_SettingsChangeByTablePut : setsTables (.frameTaken 3) = false ∧ ∃ t, exec (.frameTaken 3) State.reset = .next t :=
  ⟨rfl, _, rfl⟩

theorem witness_PowerOnRebuilds :
    ({ State.reset with powered := false } : State).powered = false ∧ (served true 7 = true ∧ poll.get 7 = some 15) ∧
      served false 7 = false ∧ poll.get 6 = none := by decide

/-- A later power-on in mode 8 finds a GEOMETRY entry put in mode 4. -/
theorem witness_PowerOnRebuilds_later :
    let s := State.reset.modDrive 7 fun x => { x with geom := builtinGeometry 2, geomLater := true }
    (s.drive 7).geomLater = true ∧
      ((s.modDrive 7 fun x => { x with policyLater := true }).drive 7).policyLater = true ∧ served true 7 = true ∧ poll.get 7 = some 15 ∧ (s.drive 7).geom ≠ builtinGeometry 15 := by decide

theorem witness_PowerFailureTearsWrite : writing.powered = true ∧ ∃ op x, writing.transferOf 0 = some (op, x) ∧ x.frame.isSome = true :=
  ⟨rfl, _, _, rfl, rfl⟩

theorem witness_PowerFailureTearsWrite_no_write :
    State.reset.powered = true ∧ ∀ d op x, State.reset.transferOf d = some (op, x) → x.frame = none :=
  ⟨rfl, fun d op x h => by simp [State.transferOf, State.reset, DataPath.initial] at h⟩

/-- A string with a drive of each kind the poll can meet: the same type, another type, absent before, gone. -/
theorem witness_StringResets :
    (inState .ready).powered = true ∧ (poll.get 0 = some 1 ∧ ((inState .ready).drive 0).plugType = 1 ∧
        ((inState .ready).drive 0).state = .ready) ∧
      (poll.get 1 = none ∧ served (inState .ready).plugs.mode8 1 = true) ∧
      ((inState .fenced).drive 0).state = .fenced ∧ ((inState .waitingSpin).drive 0).state = .waitingSpin ∧
      (withUnit { unit .ready with plugType := 2 }).powered = true ∧
      ((withUnit { unit .ready with plugType := 2 }).drive 0).plugType ≠ 1 ∧
      (((holding (inState .ready) (held .read .active)).port 0).slots.get 0).map Order.state = some .active := by decide

theorem witness_StringResets_order : Accepted (inState .ready) .stringReset order 0 ∧ (inState .ready).numberLaw :=
  ⟨⟨by decide, by decide, by decide, by decide⟩, ready_numberLaw⟩

theorem witness_IndexPulseCounts_starts :
    (inState .notReady).powered = true ∧ ((inState .notReady).drive 0).state ≠ .absent ∧
      ((inState .notReady).drive 0).state ≠ .waitingSpin ∧ ((inState .recalibrating).drive 0).state.armed = true ∧
      ((inState .fenced).drive 0).state.armed = true := by decide

theorem witness_IndexPulseCounts_absent : State.reset.powered = true ∧ (State.reset.drive 0).state = .absent := by decide

/-- A drive in SPINNING UP that saw an index pulse at time 0. -/
def qualifying (clock qual : Nat) (g : Option Geometry) : State :=
  { withUnit { unit .spinningUp with lastIndex := some 0, qual := qual, geom := g } with clock := clock }

/-- The tolerance of 1667 is 52: 1719 is the longest interval in tolerance, 1614 the longest too short. -/
theorem witness_IndexPulseCounts_qualifies :
    (qualifying 1719 2 (builtinGeometry 1)).powered = true ∧ ((qualifying 1719 2 (builtinGeometry 1)).drive 0).state = .spinningUp ∧
      ((qualifying 1719 2 none).drive 0).lastIndex = some 0 ∧
      ((1719 - 0 : Int) - 1667 ≤ 1667 / 32 ∧ (1667 : Int) - (1719 - 0) ≤ 1667 / 32) ∧
      ((1667 : Int) - (1614 - 0) > 1667 / 32) ∧ ((1720 - 0 : Int) - 1667 > 1667 / 32) := by decide

theorem witness_SectorPulseCounts :
    (withUnit { unit .ready with counter := 31 }).powered = true ∧ ((withUnit { unit .ready with counter := 31 }).drive 0).state ≠ .absent := by
  decide

theorem witness_FailureTakesDriveOut :
    ({ inState .spinningUp with clock := 6000000 } : State).spinDue 0 = true ∧
      ({ withUnit { unit .fenced with watchLimit := 3334 } with clock := 3334 } : State).watchdogDue 0 = true ∧
      (State.reset.powered = true) := by decide

theorem witness_FailureTakesDriveOut_orders :
    let s : State := { holding (withUnit { unit .ready with watchLimit := 3334 }) (held .read .active) with clock := 3334 }
    s.watchdogDue 0 = true ∧ numbersOk s ∧ ∃ o, (s.port 0).slots.get 0 = some o ∧ o.drive = some 0 ∧ o.live = true :=
  ⟨by decide, by unfold numbersOk; decide, _, rfl, by decide, by decide⟩

/-- The string with a READ current on drive 0 and its channel as given. -/
def poised (ch : Channel) : State := withUnit { unit .ready with chan := ch, cur := some (running .read .read) }

/-- A motion asked for with the position known, away from the target and at it; with the position lost, and stopped; in flight. -/
theorem witness_MotionArithmetic_start :
    let ch := (unit .ready).chan
    (∀ c ∈ [ch, { ch with known := false }, { ch with phase := .stopped }, { ch with phase := .settling, settle := 3 }],
      ((poised c).drive 0).geom = builtinGeometry 1 ∧ ((poised c).drive 0).cur = some (running .read .read) ∧
        ((poised c).drive 0).chan = c) ∧
      ch.phase = .idle ∧ ch.known = true ∧ ch.pos ≠ 48 ∧ (∀ g ∈ builtinGeometry 1, 48 ≤ g.maxPos) ∧ (running .read .read).kind ≠ .seek ∧
      ({ ch with phase := .settling, settle := 3 } : Channel).phase.inFlight = true ∧ ch.phase.inFlight = false ∧
      0 < ch.profile.cu (poised ch).m := by decide

theorem witness_MotionArithmetic :
    (0 < 4) ∧ (Channel.initial Profile.initial).remaining ≤ 0 ∧ ((sought 1 Profile.initial 0 192 7).phase = .accel) ∧
      (sought 2 Profile.initial 0 640 4).phase = .cruise := by decide

/-- A drive in motion with 192 to go, in each of the three phases. -/
def moving (p : Phase) (v target : Nat) : State :=
  withUnit { unit .ready with chan := { (unit .ready).chan with phase := p, vel := v, target := target } }

/-- The boundaries of the three clauses: a step of exactly the remaining distance, one short of it, and braking at S(V). -/
theorem witness_SeekUpdate :
    (moving .accel 0 4).powered = true ∧ served (moving .accel 0 4).plugs.mode8 0 = true ∧
      ((moving .accel 0 4).drive 0).chan.phase = .accel ∧ ((moving .cruise 32 144).drive 0).chan.remaining = stopping 4 32 ∧
      ((moving .cruise 32 144).drive 0).chan.phase = .cruise ∧ ((moving .decel 12 9).drive 0).chan.phase = .decel := by decide

/-- An operation that waits for its arm. -/
def arriving (k : OpKind) : State :=
  withUnit { unit .ready with
    chan := { (unit .ready).chan with phase := .settling, settle := 1 },
    cur := some { running k .read with stage := .moving (.seek 0 .transfer) } }

theorem witness_OnCylinderReportMeets :
    (arriving .read).powered = true ∧ (arriving .read).reportNext 0 = true ∧ ((arriving .read).drive 0).state ≠ .waitingSpin ∧
      (((arriving .read).drive 0).cur.map Op.stage) = some (.moving (.seek 0 .transfer)) ∧
      (((arriving .read).drive 0).cur.map Op.kind) ≠ some .seek := by decide

theorem witness_OnCylinderReportMeets_seek :
    let s := holding (arriving .seek) (held .seek .active)
    s.powered = true ∧ s.reportNext 0 = true ∧ (s.drive 0).state ≠ .waitingSpin ∧ ((s.drive 0).cur.map Op.kind) = some .seek ∧
      numbersOk s ∧ ∃ o, (s.port 0).slots.get 0 = some o ∧ o.oid = 1 ∧ o.live = true :=
  ⟨by decide, by decide, by decide, by decide, by unfold numbersOk; decide, _, rfl, by decide, by decide⟩

/-- The last update of SETTLING with each thing that may follow: nothing, a request that waits, and each goal of a seek. -/
theorem witness_SeekUpdate_ends :
    (∀ cur ∈ (none :: [Stage.waiting (.seek 48 .transfer), .waiting (.recal none), .moving (.seek 0 .advance),
          .moving (.seek 0 (.finish .complete))].map fun g => some { running .read .read with stage := g }),
      let s := (arriving .read).modDrive 0 fun x => { x with cur := cur }
      s.powered = true ∧ served s.plugs.mode8 0 = true ∧ (s.drive 0).chan.phase = .settling ∧ (s.drive 0).chan.settle = 1 ∧
        (s.drive 0).cur = cur) := by decide

/-- A RECALIBRATE under way in RECALIBRATING. -/
def recalibrating : State :=
  withUnit { unit .recalibrating with
    chan := { (unit .ready).chan with phase := .recal, recalLimit := 5, recalCount := 4 },
    cur := some { running .recalibrate .read with stage := .moving (.recal none), oid := 0 } }

/-- The same with one more step allowed. -/
def unpressed : State := recalibrating.modChan 0 fun ch => { ch with recalLimit := 6 }

/-- The last update of SETTLING and one before, an update short of the recalibration limit and one at it, IDLE and STOPPED. -/
theorem witness_SeekUpdate_phases :
    (((arriving .read).drive 0).chan.phase = .settling ∧ ((arriving .read).drive 0).chan.settle = 1 ∧
        ((arriving .read).drive 0).state ≠ .waitingSpin ∧
        (((arriving .read).drive 0).cur.map fun op => (op.kind, op.stage)) = some (.read, .moving (.seek 0 .transfer))) ∧
      ((withUnit { unit .ready with chan := { (unit .ready).chan with phase := .settling, settle := 2 } }).drive 0).chan.settle = 2 ∧
      (recalibrating.drive 0).chan.recalLimit ≤ (recalibrating.drive 0).chan.recalCount + 1 ∧
      (((unpressed.drive 0).chan.phase = .recal) ∧ (unpressed.drive 0).chan.recalCount + 1 < (unpressed.drive 0).chan.recalLimit) ∧
      ((inState .ready).drive 0).chan.phase = .idle ∧ (State.reset.drive 0).chan.phase = .stopped ∧
      served State.reset.plugs.mode8 0 = true := by decide

/-- A READ that recalibrates in order to seek: to cylinder 0, and beyond it. -/
theorem witness_HomeFoundGoesOn_seek :
    ∀ target ∈ [0, 48],
      let s := recalibrating.modDrive 0 fun x =>
        { x with state := .ready, cur := some { running .read .read with stage := .moving (.recal (some target)) } }
      s.powered = true ∧ served s.plugs.mode8 0 = true ∧ (s.drive 0).chan.phase = .recal ∧ (s.drive 0).state ≠ .waitingSpin ∧
        ((s.drive 0).cur.map Op.stage) = some (.moving (.recal (some target))) ∧ (s.drive 0).geom = builtinGeometry 1 ∧
        ∀ g ∈ builtinGeometry 1, target ≤ g.maxPos := by decide

theorem witness_HomeFoundGoesOn :
    recalibrating.powered = true ∧ served recalibrating.plugs.mode8 0 = true ∧ (recalibrating.drive 0).chan.phase = .recal ∧
      (recalibrating.drive 0).state = .recalibrating ∧ ((recalibrating.drive 0).cur.map Op.stage) = some (.moving (.recal none)) ∧
      (recalibrating.drive 0).pendRecal = false ∧ ((recalibrating.drive 0).geom.map Geometry.consistent) = some true := by
  decide

theorem witness_FailureTakesDriveOut_recalibration : recalibrating.powered = true ∧ recalibrating.limitNext 0 = true := by decide

/-- The drive whose watchdog runs out has a write in transfer. -/
theorem witness_FailureTakesDriveOut_torn :
    let s : State := { writing.modDrive 0 fun x => { x with watchLimit := 3334 } with clock := 3334 }
    s.watchdogDue 0 = true ∧ ∃ op x, s.transferOf 0 = some (op, x) ∧ x.frame = some written :=
  ⟨by decide, _, _, rfl, rfl⟩

theorem reset_velocityLaw : State.reset.velocityLaw := fun d => by
  have h : State.reset.drive d = Drive.initial := by
    revert d
    decide
  rw [h]
  exact ⟨⟨by unfold Profile.fits; decide, by simp [Drive.initial, Channel.initial], by decide,
    by simp [Drive.initial, Channel.initial]⟩, by unfold Profile.fits; decide⟩

theorem reset_drive (d : DriveId) : State.reset.drive d = Drive.initial := by
  revert d
  decide

theorem reset_positionLaw : State.reset.positionLaw := fun d _ => by
  rw [reset_drive d]
  exact ⟨by decide, by simp [Drive.initial, Channel.initial], by simp [Drive.initial, Channel.initial]⟩

/-- A ladder's steps, checked drive by drive. -/
theorem ladderLaw_of_ok {s : State} (h : ∀ d, ∀ op ∈ (s.drive d).cur, ∀ l ∈ op.ladder, 1 ≤ l.step) : s.ladderLaw :=
  fun d op l ho hl => h d op ho l hl

theorem witness_MotionLawsKept :
    State.reset.velocityLaw ∧ State.reset.positionLaw ∧
      (withUnit { unit .ready with cur := some { running .read .read with ladder := some ⟨3, 1⟩ } }).ladderLaw ∧
      ∃ t, step State.reset = .next t :=
  ⟨reset_velocityLaw, reset_positionLaw, ladderLaw_of_ok (by decide), _, rfl⟩

/-- A string with a SURFACE VERIFY current on drive 0. -/
def verifying : State :=
  { holding (withUnit { unit .fenced with cur := some (running .surface .write) }) (held .surfaceVerify .active) with
    verify := { VerifyEngine.initial with
      job := some { drive := 0, port := 0, tag := 0, oid := 1, destructive := true, first := 0, count := 2 },
      phase := some .trackWrite } }

theorem witness_TurnsKept :
    (inState .spinningUp).spinLaw ∧ verifying.verifyLaw ∧ verifying.engineLaw ∧ ∃ t, step verifying = .next t := by
  refine ⟨by unfold State.spinLaw; decide, ⟨fun j hj => ?_, fun d op ho hk => ?_⟩,
    engineLaw_of_none (by decide), _, rfl⟩
  · obtain rfl : _ = j := Option.some.inj hj
    exact ⟨_, rfl, rfl, rfl⟩
  · have h : ∀ d, ∀ op ∈ (verifying.drive d).cur, d = 0 ∧ op.oid = 1 := by decide
    exact ⟨_, rfl, (h d op ho).1.symm, (h d op ho).2.symm⟩

theorem reset_watchLaw : State.reset.watchLaw where
  slots := by decide
  homes i j e f he := by
    have h : WatchSlot.entry e ∈ State.reset.watch := List.mem_of_getElem? he
    exact absurd h (by simp [State.reset])
  held h := absurd h (by decide)
  idle _ := rfl

theorem witness_StoreFormsKept :
    (∃ t, step State.reset = .next t) ∧ reading.ringLaw ∧ State.reset.watchLaw ∧ mediaSorted [(0, written), (1, Frame.fill)] :=
  ⟨⟨_, rfl⟩, ⟨by decide, by decide⟩, reset_watchLaw, by decide⟩

theorem witness_TalliesAndRightKept : State.reset.tallyLaw ∧ State.reset.maintenanceLaw ∧ ∃ t, step State.reset = .next t :=
  ⟨⟨by decide, by decide, by decide⟩, ⟨0, by decide⟩, _, rfl⟩

theorem witness_NumberLawKept : (inState .ready).numberLaw ∧ ∃ t, step (inState .ready) = .next t := ⟨ready_numberLaw, _, rfl⟩

/-- A spared track and one under reassignment. -/
def twoEntries : List SpareEntry :=
  [⟨0, ⟨12, 3⟩, ⟨400, 0⟩, false, .auto, none⟩, ⟨1, ⟨233, 7⟩, ⟨400, 1⟩, true, .auto, none⟩]

theorem witness_LookupAndAllocation :
    (twoEntries.map SpareEntry.home).Nodup ∧ (∀ e ∈ twoEntries, e.home ≠ ⟨12, 4⟩) ∧
      (⟨0, ⟨12, 3⟩, ⟨400, 0⟩, false, .auto, none⟩ : SpareEntry) ∈ twoEntries := by decide

theorem witness_LookupAndAllocation_pool :
    lowestFree [.inUse, .dead, .free, .free] = some 2 ∧ lowestFree [.inUse, .map] = none := by decide

/-- A small geometry: 16 cylinders of 1 head, the last 2 alternate; position 1 is the map track. -/
def small : Geometry := ⟨1, 16, 1, 8, 2, 1667⟩

/-- A drive of that geometry with its one free position taken by track (3, 0), and one with nothing spared. -/
def spared : Drive :=
  { Drive.initial with geom := some small, pool := [.inUse, .map], spare := [⟨0, ⟨3, 0⟩, ⟨14, 0⟩, false, .auto, none⟩] }

def unspared : Drive := { Drive.initial with geom := some small, pool := [.free, .map] }

theorem unspared_mapLaw : unspared.mapLaw small where
  size := by decide
  map p := by rcases p with _ | _ | p <;> simp [unspared, small, Geometry.mapPos]
  settled := by decide
  place := by decide
  slots := by decide
  homes := by decide
  alts := by decide
  named p := by rcases p with _ | _ | p <;> simp [unspared, Drive.initial]

theorem spared_mapLaw : spared.mapLaw small where
  size := by decide
  map p := by rcases p with _ | _ | p <;> simp [spared, small, Geometry.mapPos]
  settled := by decide
  place := by decide
  slots := by decide
  homes := by decide
  alts := by decide
  named p := by rcases p with _ | _ | p <;> simp [spared, small, Geometry.trackPos]

/-- A geometry with two positions to spare, and a drive of it with nothing spared. -/
def roomy : Geometry := { small with a := 3 }

def roomyDrive : Drive := { Drive.initial with geom := some roomy, pool := [.free, .free, .map] }

theorem roomyDrive_mapLaw : roomyDrive.mapLaw roomy where
  size := by decide
  map p := by rcases p with _ | _ | _ | p <;> simp [roomyDrive, roomy, small, Geometry.mapPos]
  settled := by decide
  place := by decide
  slots := by decide
  homes := by decide
  alts := by decide
  named p := by rcases p with _ | _ | _ | p <;> simp [roomyDrive, Drive.initial]

/-- One trial, and two. -/
theorem witness_AbortRestoresMap :
    roomyDrive.geom = some roomy ∧ roomy.consistent = true ∧ roomyDrive.mapLaw roomy ∧ (lowestSlot roomyDrive.spare).isSome = true ∧
      (∀ p ∈ 0 :: [1], roomyDrive.pool[p]? = some .free) ∧ (0 :: [1]).Nodup ∧ (0 :: ([] : List Nat)).Nodup :=
  ⟨rfl, by decide, roomyDrive_mapLaw, by decide, by decide, by decide, by decide⟩

theorem witness_MapRecordRoundTrip : small.consistent = true ∧ spared.mapLaw small ∧ small.type < 16 :=
  ⟨by decide, spared_mapLaw, by decide⟩

/-- The spare map and the pool while track (3, 0) is being spared, and the state in which it is. -/
def sparing : State :=
  { withUnit { roomyDrive.beginSparing ⟨3, 0⟩ 0 with
      state := .ready, chan := (unit .ready).chan, cur := some (Op.internal .reassign ⟨3, 0⟩ ⟨3, 0⟩ .home .read) } with
    watch := .reserved :: List.replicate 15 .empty,
    reassign := { ReassignEngine.initial with state := .copying, slot := some 0, held := some { counting with home := ⟨3, 0⟩ } } }

theorem sparing_pool : (sparing.drive 0).pool = [.inUse, .free, .map] := by decide

theorem sparing_spare : (sparing.drive 0).spare = [⟨0, ⟨3, 0⟩, ⟨13, 0⟩, true, .auto, none⟩] := by decide

theorem sparing_drive_sparingLaw : (sparing.drive 0).sparingLaw roomy (some ⟨3, 0⟩) where
  size := by decide
  map p := by rw [sparing_pool]; rcases p with _ | _ | _ | p <;> simp [roomy, small, Geometry.mapPos]
  pending := by decide
  held h hh := by obtain rfl : _ = h := Option.some.inj hh; exact ⟨_, List.mem_singleton.2 rfl, rfl⟩
  settled := by decide
  place := by decide
  slots := by decide
  homes := by decide
  tracks := by decide
  named p := by
    rw [sparing_pool, sparing_spare]
    rcases p with _ | _ | _ | p <;> simp [SpareEntry.tracks, roomy, small, Geometry.trackPos]

theorem sparing_cases (d : DriveId) :
    d = 0 ∨ ((sparing.drive d).geom = none ∧ (sparing.drive d).cur = none ∧ (sparing.drive d).pendReassign = false ∧
      (sparing.drive d).state = .absent ∧ (sparing.drive d).pendRecal = false ∧ (sparing.drive d).pendLoad = false ∧
      (sparing.drive d).pendWrite = false) := by
  revert d
  decide

theorem sparing_geom {d : DriveId} {g : Geometry} (h : (sparing.drive d).geom = some g) : d = 0 ∧ g = roomy := by
  rcases sparing_cases d with rfl | h0
  · exact ⟨rfl, (Option.some.inj h).symm⟩
  · rw [h0.1] at h
    cases h

theorem sparing_cur {d : DriveId} {op : Op} (h : (sparing.drive d).cur = some op) :
    d = 0 ∧ op = Op.internal .reassign ⟨3, 0⟩ ⟨3, 0⟩ .home .read := by
  rcases sparing_cases d with rfl | h0
  · exact ⟨rfl, (Option.some.inj h).symm⟩
  · rw [h0.2.1] at h
    cases h

theorem sparing_engineLaw : sparing.engineLaw where
  geometry d h := by
    rcases sparing_cases d with rfl | h0
    · cases h
    · exact ⟨by rw [h0.2.2.2.1]; decide, h0.2.1, h0.2.2.2.2⟩
  queued d h := by
    have h0 : (sparing.drive d).pendReassign = false := by
      clear h
      revert d
      decide
    rw [h0] at h
    cases h
  current d op h _ _ := by
    obtain ⟨rfl, -⟩ := sparing_cur h
    exact ⟨rfl, _, rfl, rfl⟩
  surface d op h hk := by
    obtain ⟨-, rfl⟩ := sparing_cur h
    cases hk

theorem sparing_sparingLaw : sparing.sparingLaw where
  drives d g _ h := by
    obtain ⟨rfl, rfl⟩ := sparing_geom h
    exact ⟨by decide, sparing_drive_sparingLaw⟩
  copying _ := ⟨_, _, _, rfl, rfl, rfl, rfl, rfl, rfl, rfl, rfl⟩
  trial _ _ h := by cases h

theorem sparing_namesUserTracks : sparing.namesUserTracks := fun d g _ h => by
  obtain ⟨rfl, rfl⟩ := sparing_geom h
  refine ⟨by decide, fun op ho _ => ?_, fun e he => ?_, fun e he _ => ?_⟩
  · obtain ⟨-, rfl⟩ := sparing_cur ho
    decide
  · simp [sparing] at he
  · obtain rfl : _ = e := Option.some.inj he
    decide

/-- Channel mode 4 with a geometry put at address 7. -/
theorem witness_SparingLawKept_unserved :
    let s : State := (inState .ready).modDrive 7 fun x => { x with geom := some small, geomLater := true }
    let r : State := { s with plugs := { s.plugs with mode8 := false } }
    served r.plugs.mode8 7 = false ∧ (r.drive 7).geom = some small ∧ r.unservedLaw ∧ ∃ t, step r = .next t :=
  ⟨rfl, rfl, by unfold State.unservedLaw; decide, _, rfl⟩

theorem witness_SparingLawKept :
    sparing.verifyLaw ∧ sparing.engineLaw ∧ sparing.sparingLaw ∧ sparing.namesUserTracks ∧ ∃ t, step sparing = .next t := by
  have h0 : sparing.verifyLaw := by
    refine ⟨fun j h => (by cases h), fun d op h hk => ?_⟩
    obtain ⟨-, rfl⟩ := sparing_cur h
    cases hk
  exact ⟨h0, sparing_engineLaw, sparing_sparingLaw, sparing_namesUserTracks, _, rfl⟩

/-- The three sectors of a record, the first met as bytes and the second with filler of its own. -/
def recordSectors (r : MapRecord) : List Payload := [.bytes (payloadBytes (.record 0 r [])), .record 1 r [7#8], .record 2 r []]

theorem witness_MapRecordRoundTrip_sectors :
    (composeRecord small spared).storable = true ∧ (composeRecord small spared).sumOk = true ∧
      (recordSectors (composeRecord small spared)).length = 3 ∧
      ∀ n, n < 3 → ∃ filler, (recordSectors (composeRecord small spared))[n]? = some (.record n (composeRecord small spared) filler) ∨
        (recordSectors (composeRecord small spared))[n]? = some (.bytes (payloadBytes (.record n (composeRecord small spared) filler))) := by
  refine ⟨by decide, by decide, rfl, fun n hn => ?_⟩
  interval_cases n
  · exact ⟨[], .inr rfl⟩
  · exact ⟨[7#8], .inl rfl⟩
  · exact ⟨[], .inl rfl⟩

/-- A sector past the end of a record may hold the last part of another one. -/
theorem witness_MapRecordRoundTrip_end (p : Payload) :
    (composeRecord small spared).storable = true ∧ (composeRecord small spared).sumOk = true ∧
      recordCode.bytes (composeRecord small spared) <+:
        [.bytes (recordCode.bytes (composeRecord small spared)), .record 2 (composeRecord roomy roomyDrive) [], p].flatMap payloadBytes :=
  ⟨by decide, by decide, List.prefix_append _ _⟩

/-- A drive of the small geometry with an operation current. -/
def onUnit (x : Drive) (st : DriveState) (op : Op) : State :=
  withUnit { x with state := st, chan := (unit st).chan, cur := some op }

/-- A MAP LOAD that wants its third sector. -/
def mapLoading : Op :=
  { running .mapLoad .read with
    sector := 2, got := [.record 0 (composeRecord small spared) [], .record 1 (composeRecord small spared) []] }

/-- The second sector and the third; a record that passes the checks of one geometry and not of another; the arm at the centre; the step
past the last of a ladder; the second seek check. -/
theorem witness_MapLoadRuns :
    let s := onUnit unspared .loadingMap mapLoading
    ((s.drive 0).geom = some small ∧ (s.drive 0).cur = some mapLoading ∧ mapLoading.kind = .mapLoad ∧ mapLoading.pass = .read) ∧
      mapLoading.ladder = none ∧ ({ mapLoading with sector := 1 } : Op).sector < 2 ∧
      (assembleRecord (mapLoading.got ++ [.record 2 (composeRecord small spared) []]) = some (composeRecord small spared) ∧
        recordAcceptable small (composeRecord small spared) = true) ∧
      (∀ r, assembleRecord (mapLoading.got ++ [.record 2 (composeRecord small spared) []]) = some r →
        recordAcceptable { small with s := 9 } r = false) ∧
      ({ s.drive 0 with chan := { (s.drive 0).chan with pos := centre mapLoading.phys.cyl } } : Drive).chan.pos = centre 0 ∧
      (2 * (⟨3, 7⟩ : Ladder).k < (⟨3, 7⟩ : Ladder).step) ∧ ({ mapLoading with checked := true } : Op).checked = true :=
  ⟨⟨rfl, rfl, rfl, rfl⟩, rfl, by decide, ⟨rfl, by decide⟩, fun r h => by cases h; decide, rfl, by decide, rfl⟩

/-- A MAP WRITE in its first and in its second writing, its last sector in hand. -/
def mapWriting (p : Pass) (attempt : Nat) : Op :=
  { running .mapWrite p with sector := 2, attempt := attempt, record := some (composeRecord small spared) }

theorem witness_MapWriteRuns :
    (spared.geom = some small ∧ numbersOk (holding (withUnit { spared with state := .mapLost }) (held .commitMap .active))) ∧
      (∀ op ∈ [mapWriting .write 1, mapWriting .readBack 1, mapWriting .readBack 2],
        ((onUnit spared .writingMap op).drive 0).cur = some op ∧ op.kind = .mapWrite ∧ op.record = some (composeRecord small spared)) ∧
      sameData (.record 2 (composeRecord small spared) []) (.record 2 (composeRecord small spared) []) = true ∧
      (¬∃ p, ReadOutcome.mismatch true = .good p ∧ sameData (.record 2 (composeRecord small spared) []) p = true) ∧
      (mapWriting .readBack 1).attempt < 2 ∧ 2 ≤ (mapWriting .readBack 2).attempt ∧
      ((onUnit spared .writingMap (mapWriting .readBack 1)).drive 0).chan.phase = .idle := by
  refine ⟨⟨rfl, by unfold numbersOk; decide⟩, fun op h => ?_, by simp [sameData], by simp, by decide, by decide, rfl⟩
  simp only [List.mem_cons, List.not_mem_nil, or_false] at h
  rcases h with rfl | rfl | rfl <;> exact ⟨rfl, rfl, rfl⟩

theorem witness_MapEditsKeepLaw :
    spared.geom = some small ∧ small.consistent = true ∧ spared.mapLaw small ∧ 127 < 128 ∧
      unspared.entryBad small (loadedEntry 127 [0#8, 13#8, 0#8, 0#8, 14#8, 0#8]) = false ∧ 0 < small.poolSize ∧ 0 ≠ small.mapPos ∧
      unspared.pool[0]? ≠ some .inUse :=
  ⟨rfl, by decide, spared_mapLaw, by decide, by decide, by decide, by decide, by decide⟩

/-- A watch list with one entry in slot 3. -/
def watching (e : WatchEntry) : State := (inState .ready).setSlot 3 (.entry e)

/-- No entry with a slot to be had, with a threshold of 1 and above it, and with none. -/
theorem witness_WatchReports_none :
    State.reset.heldFor 0 ⟨0, 0⟩ = false ∧ findWatch State.reset.watch 0 ⟨0, 0⟩ = none ∧ slotForNew State.reset.watch = some 0 ∧
      slotForNew (List.replicate 16 WatchSlot.reserved) = none ∧ 1 < (State.reset.drive 0).policy.threshold ∧
      ((withUnit { unit .ready with policy := { Policy.initial with threshold := 1 } }).drive 0).policy.threshold ≤ 1 := by decide

/-- An entry in each state; a count of 14 is the last that a report raises to the threshold. -/
theorem witness_WatchReports_entry :
    (watching counting).heldFor 0 ⟨0, 0⟩ = false ∧ findWatch (watching counting).watch 0 ⟨0, 0⟩ = some 3 ∧
      watchEntry (watching counting).watch 3 = some counting ∧ counting.state = .counting ∧
      (counting.count + 1 < ((watching counting).drive 0).policy.threshold ∧
        ((watching counting).drive 0).policy.threshold ≤ 14 + 1) ∧
      (watchEntry (watching (counting.becomeCandidate .recovered 5)).watch 3).map WatchEntry.state = some .candidate ∧
      (counting.becomeCandidate .recovered 5).cause = some .recovered ∧
      (counting.becomeCandidate .ordered 5).cause ≠ some .recovered ∧
      (watchEntry (watching { counting with state := .stuck }).watch 3).map WatchEntry.state = some .stuck := by decide

theorem witness_WatchSlotsGivenAndFreed :
    slotForNew [.reserved, .entry counting, .empty] = some 2 ∧
      slotForNew [.reserved, .entry { counting with windowStart := 2 }, .entry { counting with windowStart := 1 }] = some 2 ∧
      slotForNew [.reserved, .entry (counting.becomeCandidate .recovered 5)] = none := by decide

theorem witness_WatchSlotsGivenAndFreed_expiry :
    ({ watching counting with clock := 6000000 } : State).powered = true ∧
      ({ watching counting with clock := 6000000 } : State).windowDue 3 = true := by decide

/-- The engine copies a track. -/
def copying (e : WatchEntry) (w : List WatchSlot) : State :=
  { inState .ready with watch := w, reassign := { ReassignEngine.initial with state := .copying, slot := some 0, held := some e } }

theorem copying_engineLaw (e : WatchEntry) (w : List WatchSlot) : (copying e w).engineLaw :=
  engineLaw_of_none fun d => by
    have h : (copying e w).drive d = (inState .ready).drive d := rfl
    have h' : (copying e w).destructive = false := rfl
    rw [h, h']
    clear h h'
    revert d
    decide

/-- The engine has taken a candidate of drive 0, and copies its track. -/
theorem witness_AbortRestoresMap_engine :
    ({ watching counting with reassign := { ReassignEngine.initial with state := .taken, slot := some 3 } } : State).engineDrive = some 0 ∧
      (copying counting [.reserved]).engineDrive = some 0 ∧ (copying counting [.reserved]).engineDrive ≠ some 1 ∧
      (copying counting [.reserved]).reassign.slot = some 0 ∧ (copying counting [.reserved]).reassign.held = some counting := by decide

/-- A REASSIGN of track (0, 0) with the last sector of its track in hand, the engine COPYING, with places GOOD and LOST. -/
def reassigning (x : Drive) (p : Pass) (tried checks : Nat) (place : BufPlace) : State :=
  { onUnit x .ready { running .reassign p with oid := 0, sector := 7 } with
    watch := [.reserved],
    reassign := { state := .copying, slot := some 0, held := some counting, tried := tried, seekChecks := checks,
                  buffer := List.replicate 32 place } }

theorem witness_ReassignRuns_map :
    roomyDrive.geom = some roomy ∧ roomy.consistent = true ∧ roomyDrive.mapLaw roomy ∧ roomy.isUser ⟨12, 0⟩ = true ∧
      roomyDrive.pool[1]? = some .free ∧ (lowestSlot roomyDrive.spare).isSome = true :=
  ⟨rfl, by decide, roomyDrive_mapLaw, by decide, by decide, by decide⟩

/-- A candidate taken, with a position FREE and with none. -/
theorem witness_ReassignRuns_start :
    let s : State := { watching counting with reassign := { ReassignEngine.initial with state := .taken, slot := some 3 } }
    s.reassign.state = .taken ∧ s.reassign.slot = some 3 ∧ watchEntry s.watch 3 = some counting ∧
      (s.drive 0).geom = builtinGeometry 1 ∧ lowestFree (s.drive 0).pool = some 0 ∧ lowestFree spared.pool = none ∧ numbersOk s :=
  ⟨rfl, rfl, rfl, rfl, by decide, by decide, by unfold numbersOk; decide⟩

/-- The passes: a place GOOD and a place LOST, a sector before the last and the last, a read-back that passes and one that fails with a
position FREE and with none, the third alternate, the first seek check and the second. -/
theorem witness_ReassignRuns_passes :
    let x : Drive := roomyDrive.beginSparing ⟨0, 0⟩ 0
    let s := reassigning x .readBack 1 0 (.good (.pattern 0 0 0 0))
    ((s.drive 0).geom = some roomy ∧ (s.drive 0).cur.map Op.kind = some .reassign ∧ (s.drive 0).chan.pos = centre 0 ∧
        (s.drive 0).chan.phase = .idle) ∧
      (7 + 1 ≤ roomy.s ∧ ¬7 + 1 < roomy.s ∧ 6 + 1 < roomy.s) ∧
      (s.reassign.buffer[7]? = some (.good (.pattern 0 0 0 0)) ∧ sameData (.pattern 0 0 0 0) (.pattern 0 0 0 0) = true) ∧
      (reassigning x .write 1 0 .lost).reassign.buffer[7]? = some .lost ∧
      (s.reassign.tried < 3 ∧ lowestFree (x.killTrial ⟨0, 0⟩).pool = some 1 ∧ ((x.killTrial ⟨0, 0⟩).entryFor ⟨0, 0⟩).isSome = true) ∧
      3 ≤ (reassigning x .readBack 3 1 .lost).reassign.tried ∧ s.reassign.seekChecks = 0 ∧
      1 ≤ (reassigning x .readBack 3 1 .lost).reassign.seekChecks ∧
      (s.reassign.slot = some 0 ∧ s.reassign.held = some counting) ∧ (x.underTrial ⟨0, 0⟩).isSome = true := by decide

theorem witness_ReassignTrackActs_held :
    Accepted (copying counting [.reserved]) .reassignTrack order 0 ∧ (copying counting [.reserved]).heldFor 0 ⟨0, 0⟩ = true ∧
      (copying counting [.reserved]).engineLaw ∧ (copying counting [.reserved]).ringLaw :=
  ⟨⟨by decide, by decide, by decide, by decide⟩, by decide, copying_engineLaw _ _, ⟨by decide, by decide⟩⟩

theorem witness_ReassignTrackActs_no_slot :
    let s := copying { counting with home := ⟨5, 5⟩ } [.reserved]
    Accepted s .reassignTrack order 0 ∧ s.ringLaw ∧ s.heldFor 0 ⟨0, 0⟩ = false ∧ findWatch s.watch 0 ⟨0, 0⟩ = none ∧
      slotForNew s.watch = none :=
  ⟨⟨by decide, by decide, by decide, by decide⟩, ⟨by decide, by decide⟩, by decide, by decide, by decide⟩

/-- A new entry and one that was COUNTING, while the engine copies another track. -/
theorem witness_ReassignTrackActs_copying :
    let s := copying { counting with home := ⟨5, 5⟩ } [.reserved, .empty]
    let r := copying { counting with home := ⟨5, 5⟩ } [.reserved, .entry counting]
    Accepted s .reassignTrack order 0 ∧ s.ringLaw ∧ s.heldFor 0 ⟨0, 0⟩ = false ∧ s.reassign.state = .copying ∧
      (s.orderedEntry 0 ⟨0, 0⟩).map Prod.fst = some 1 ∧ Accepted r .reassignTrack order 0 ∧
      (r.orderedEntry 0 ⟨0, 0⟩).map Prod.fst = some 1 :=
  ⟨⟨by decide, by decide, by decide, by decide⟩, ⟨by decide, by decide⟩, by decide, by decide, by decide,
   ⟨by decide, by decide, by decide, by decide⟩, by decide⟩

/-- The engine FREE with no other candidate: the drive busy, and idle with a FREE position and with none. -/
theorem witness_ReassignTrackActs_free :
    let busy := holding (withUnit { unit .ready with cur := some (running .read .read) }) (held .read .active)
    let full := withUnit { unit .ready with pool := [.inUse, .dead] }
    (Accepted busy .reassignTrack { order with tag := 3#8 } 3 ∧ busy.engineLaw ∧ numbersOk busy ∧ busy.ringLaw ∧
      (busy.drive 0).cur.isSome = true) ∧
    (Accepted (inState .ready) .reassignTrack order 0 ∧ (inState .ready).ringLaw ∧ ((inState .ready).accessOf order).phys = some 0 ∧
      (inState .ready).reassign.state = .free ∧ (inState .ready).engineLaw ∧
      (∀ g : WatchEntry, .entry g ∈ (inState .ready).watch → (inState .ready).eligible g = false) ∧
      lowestFree ((inState .ready).drive 0).pool = some 0) ∧
    Accepted full .reassignTrack order 0 ∧ full.ringLaw ∧ full.engineLaw ∧ lowestFree (full.drive 0).pool = none :=
  ⟨⟨⟨by decide, by decide, by decide, by decide⟩, engineLaw_of_none (by decide), by unfold numbersOk; decide, ⟨by decide, by decide⟩,
    by decide⟩,
   ⟨⟨by decide, by decide, by decide, by decide⟩, ⟨by decide, by decide⟩, by decide, by decide, engineLaw_of_none (by decide),
    fun g hg => absurd (List.eq_of_mem_replicate (n := 16) hg) (by simp), by decide⟩,
   ⟨by decide, by decide, by decide, by decide⟩, ⟨by decide, by decide⟩, engineLaw_of_none (by decide), by decide⟩

theorem witness_SectorReadOutcome :
    judgeFrame ⟨0, 0, 0, 0, .home, false⟩ written = .good (.pattern 0 0 0 0) ∧
      judgeFrame ⟨0, 1, 0, 0, .home, false⟩ written = .mismatch true ∧
      judgeFrame ⟨0, 0, 0, 0, .home, false⟩ (.framed true ⟨0, 0, 0, 0, .home, true⟩ .invalid) = .lost := by decide

theorem witness_SectorWriteLaysDown :
    writing.powered = true ∧ ∃ op x, writing.transferOf 0 = some (op, x) ∧ x.frame = some written ∧ op.kind = .write ∧
      op.ended = false ∧ ∃ o, (writing.port 0).slots.get 0 = some o ∧ o.oid = op.oid :=
  ⟨rfl, _, _, rfl, rfl, rfl, rfl, _, rfl, rfl⟩

theorem witness_SectorReadHolds :
    reading.powered = true ∧ ∃ op x, reading.transferOf 0 = some (op, x) ∧ x.frame = none ∧ op.kind = .read ∧ op.pass = .read ∧
      op.ended = false ∧ judgeFrame (op.expected 0 false) (reading.metFrame 0 op x (some written)) = .good (.pattern 0 0 0 0) ∧
      ∃ sl, reading.ring.run = [] ++ [sl] ∧ sl.state = .filling ∧ reading.orderLive sl.oid = true :=
  ⟨rfl, _, _, rfl, rfl, rfl, rfl, rfl, by decide, _, rfl, rfl, by decide⟩

/-- A READ of drive 0 with its arm at the centre of a cylinder and its ladder at a step. -/
def readingAt (l : Option Ladder) (checked : Bool) (pos : Nat) : State :=
  (onPath (holding (withUnit { unit .ready with
      chan := { (unit .ready).chan with pos := pos },
      cur := some { running .read .read with ladder := l, checked := checked } }) (held .read .active)) none).setRun
    [{ state := .filling, port := 0, tag := 0, oid := 1, index := 0, data := none }]

theorem witness_SectorReadFails_slot :
    OpKind.read = (running .read .read).kind ∧ (∀ p, ReadOutcome.dataCheck ≠ .good p) ∧
      reading.ring.run = [] ++ [{ state := .filling, port := 0, tag := 0, oid := 1, index := 0, data := none }] :=
  ⟨rfl, (fun _ h => by cases h), rfl⟩

/-- The hypotheses, at each state the clauses speak of: no ladder, a step on the way, the last step, a second seek check. -/
theorem witness_SectorReadFails :
    ∀ s ∈ [readingAt none false 0, readingAt (some ⟨3, 1⟩) false 0, readingAt (some ⟨3, 6⟩) false 4,
        readingAt (some ⟨3, 7⟩) false 0, readingAt (some ⟨3, 7⟩) false 12, readingAt none true 0],
      s.powered = true ∧ (s.drive 0).geom = builtinGeometry 1 ∧ (s.drive 0).chan.onCylinder = true ∧ numbersOk s ∧
        ∃ op x, s.transferOf 0 = some (op, x) ∧ x.frame = none ∧ op.kind = .read ∧ op.pass = .read ∧ op.ended = false ∧
          ∀ l ∈ op.ladder, 1 ≤ l.step := by
  intro s hs
  simp only [List.mem_cons, List.not_mem_nil, or_false] at hs
  rcases hs with rfl | rfl | rfl | rfl | rfl | rfl <;>
    exact ⟨rfl, rfl, by decide, by unfold numbersOk; decide, _, _, rfl, rfl, rfl, rfl, rfl, by decide⟩

/-- A frame for each outcome of that read. -/
theorem witness_SectorReadFails_outcomes :
    let want : Header := ⟨0, 0, 0, 0, .home, false⟩
    judgeFrame want (.framed true want .invalid) = .dataCheck ∧
      judgeFrame want (.framed true { want with head := 1 } .invalid) = .mismatch false ∧
      judgeFrame want (.framed true want .fill) = .incomplete ∧
      judgeFrame want (.framed true { want with lost := true } .invalid) = .lost ∧
      judgeFrame want (.framed true { want with cyl := 1 } .invalid) = .mismatch true ∧
      judgeFrame want written = .good (.pattern 0 0 0 0) := by decide

/-- A freed slot with nobody waiting, and with an order of one sector waiting. -/
theorem witness_SlotWaitList_freed :
    writing.waitList = [] ∧ ({ writing with waitList := [1] } : State).waitList = 1 :: [] ∧
      ∃ e, ({ writing with waitList := [1] } : State).findOrder 1 = some e :=
  ⟨rfl, rfl, _, rfl⟩

/-- A WRITE that begins to want a slot, with slots FREE and with none. -/
def wanting (w : Oct WriteSlot) : State :=
  { holding (withUnit { unit .ready with cur := some (running .write .write) }) (held .write .active) with wslots := w }

theorem witness_SlotWaitList_wanting :
    let full : WriteSlot := { state := .full, port := 3, tag := 0, oid := 9, index := 0, since := 0, data := [] }
    ∀ s ∈ [wanting (Oct.all WriteSlot.free), wanting (Oct.all full)],
      ((s.drive 0).cur.map Op.kind) = some .write ∧ 1 ∉ s.waitList ∧ s.slotsHeld 1 < 4 ∧ (s.slotsHeld 1 < 1) ∧
        (s.findOrder 1).map (fun e => (e.1, e.2.live, e.2.done, e.2.count)) = some (0, true, 0, 1) ∧
        (s.actSlots).isSome = true := by decide

/-- A drive that asks for the free path, a READ with its place EMPTY and a WRITE without a slot FULL. -/
theorem witness_DataPathRuns_grant :
    let s := withUnit { unit .ready with request := true, cur := some (running .read .read) }
    let u := withUnit { unit .ready with request := true, cur := some (running .write .write) }
    s.nextGrantee = some 0 ∧ State.reset.nextGrantee = none ∧ (s.drive 0).cur = some (running .read .read) ∧ s.path.holder = none ∧
      PlaceReady s (running .read .read) 0 ∧ ¬PlaceReady u (running .write .write) 0 :=
  ⟨by decide, by decide, rfl, rfl, ⟨fun _ => by decide, fun h => by cases h⟩, fun h => by
    obtain ⟨i, hi, -⟩ := h.2 rfl
    revert i
    decide⟩

/-- A drive off the path at the start before its wanted sector and at the start of it, with sector 0 wanted and with another. -/
theorem witness_DataPathRuns_seeker :
    let s := withUnit { unit .ready with cur := some (running .read .read) }
    let u := withUnit { unit .ready with cur := some { running .read .read with sector := 31 }, request := true }
    (s.drive 0).cur = some (running .read .read) ∧ s.path.holder ≠ some 0 ∧ (s.drive 0).request = false ∧
      (running .read .read).stage = .transfer ∧ ((running .read .read).sector = 0 ∧ 31 = (s.drive 0).sectors - 1) ∧
      (s.drive 0).chan.onCylinder = true ∧ (u.drive 0).request = true ∧ (31 ≠ 0 ∧ 30 + 1 = 31) := by decide

/-- A transfer granted and one chained, before their sector starts; the next sector follows below the burst limit, and at the limit it
does not. -/
theorem witness_DataPathRuns_holder :
    let x : Xfer := { sector := 0, begun := false, chained := false, cont := true, early := none, frame := none }
    let op : Op := { running .verify .read with count := 2 }
    let s := { withUnit { unit .ready with cur := some op } with path := { holder := some 0, last := 0, burst := 1, xfer := some x } }
    (s.drive 0).cur = some op ∧ s.path.holder = some 0 ∧ s.path.xfer = some x ∧
      (op.nextFollows (s.drive 0).sectors (s.drive 0).chan.pos = true ∧ (s.drive 0).chan.onCylinder = true) ∧
      (s.path.burst < (s.drive 0).profile.burst ∧ (s.drive 0).profile.burst = 32) ∧
      (x.cont = true ∧ op.ended = false ∧ op.stage = .transfer ∧ ({ op with sector := 1 } : Op).sector = x.sector + 1 ∧
        op.ladder = none) := by decide

/-- The orders of 6.8 that wait, oldest first, and the same with order 3 passed over 8 times. -/
def waiting (passed : Nat) : List (Port × Order) :=
  (sweepCase.eligibleEntries 0).map fun e => if e.2.oid = 3 then (e.1, { e.2 with passOver := passed }) else e

theorem witness_QueueDisciplines :
    (sweepCase.drive 0).profile.sweep = true ∧ (waiting 0).length = 5 ∧ (∀ e ∈ waiting 0, e.2.passOver < 8) ∧
      (waiting 8)[2]?.map (fun e => e.2.passOver) = some 8 ∧ (∀ f ∈ (waiting 8).take 2, f.2.passOver < 8) ∧
      ((inState .ready).drive 0).profile.sweep = false ∧ (sweepCase.select 0).isSome = true ∧
      ((waiting 0).map fun e => e.2.oid) = [1, 2, 3, 4, 5] := by decide

/-- A selection that passes over older entries. -/
theorem witness_QueueDisciplines_passOver :
    (sweepCase.drive 0).nextInternal = none ∧ (sweepCase.drive 0).queue.Nodup ∧
      (sweepCase.chooseEntry 0 (sweepCase.eligibleEntries 0)).map (fun c => (c.entry.2.oid, c.passes)) = some (4, true) ∧
      (sweepCase.eligibleEntries 0).take 1 ≠ [] := by decide

/-- A track judged with too few failures, and at the threshold with a position FREE and with none; the last track and one before. -/
theorem witness_SurfaceVerifyRuns :
    (verifying.drive 0).geom = builtinGeometry 1 ∧ (running .surface .write).kind = .surface ∧
      (verifying.verify.job.map VerifyJob.destructive) = some true ∧
      verifying.verify.trackFails < (verifying.drive 0).policy.verifyThreshold ∧
      ((running .surface .write).lastTrack = false ∧ verifying.verify.track + 1 < 0 + 2) ∧
      lowestFree (verifying.drive 0).pool = some 0 ∧ lowestFree [.dead, .inUse] = none ∧ numbersOk verifying ∧
      (verifying.drive 0).cur = some (running .surface .write) :=
  ⟨rfl, rfl, rfl, by decide, by decide, by decide, by decide, by unfold numbersOk; decide, rfl⟩

/-- The last sector of a read-back, of a track pass and of a trial, one that passes and one that fails; the first seek check and the
second. -/
theorem witness_SurfaceVerifyRuns_readBack :
    (running .surface .readBack).pass = .readBack ∧ ¬(31 + 1 < 32) ∧ (30 + 1 < 32) ∧
      (∃ p, ReadOutcome.good (.pattern 0 0 0 0) = .good p ∧ sameData (.pattern 0 0 0 0) p = true) ∧
      (¬∃ p, ReadOutcome.lost = .good p ∧ sameData (.pattern 0 0 0 0) p = true) ∧ verifying.verify.trial = none ∧
      ({ verifying.verify with trial := some 0 } : VerifyEngine).trial = some 0 ∧ verifying.verify.seekChecks = 0 ∧
      1 ≤ ({ verifying.verify with seekChecks := 1 } : VerifyEngine).seekChecks ∧ (verifying.drive 0).chan.phase = .idle :=
  ⟨rfl, by decide, by decide, ⟨_, rfl, by simp [sameData]⟩, by simp, rfl, rfl, rfl, by decide, rfl⟩

/-- A read-only verification: the arm at the centre, the step past the last of a ladder, a second seek check, a track before the last
and the last, with no sector failed and with one. -/
theorem witness_SurfaceVerifyRuns_readOnly :
    let s : State :=
      { holding (withUnit { unit .ready with cur := some (running .surface .read) }) (held .surfaceVerify .active) with
        verify := { VerifyEngine.initial with
          job := some { drive := 0, port := 0, tag := 0, oid := 1, destructive := false, first := 0, count := 2 },
          phase := some .trackRead } }
    ((s.drive 0).geom = builtinGeometry 1 ∧ (s.verify.job.map VerifyJob.destructive) = some false ∧
        (running .surface .read).kind = .surface ∧ (running .surface .read).pass = .read ∧
        (s.drive 0).cur = some (running .surface .read)) ∧
      (s.drive 0).chan.pos = centre (running .surface .read).phys.cyl ∧ (2 * (⟨3, 7⟩ : Ladder).k < (⟨3, 7⟩ : Ladder).step) ∧
      ({ running .surface .read with checked := true } : Op).checked = true ∧ numbersOk s ∧
      ((running .surface .read).lastTrack = false ∧ s.verify.track + 1 < 0 + 2) ∧ 0 + 1 ≤ s.verify.track + 1 ∧
      s.verify.failed = 0 ∧ ({ s.verify with failed := 1 } : VerifyEngine).failed ≠ 0 :=
  ⟨⟨rfl, rfl, rfl, rfl, rfl⟩, rfl, by decide, rfl, by unfold numbersOk; decide, by decide, by decide, rfl, by decide⟩

theorem witness_SurfaceVerifyRuns_eligible :
    (held .surfaceVerify .queued).kind = .surfaceVerify ∧ verifying.verify.job.isSome = true := by decide

theorem witness_HostDataFillsSlot :
    (asked State.reset).powered = true ∧ tagOf 0#8 = some 0 ∧ (asked State.reset).requestedSlot 0 0 0 = some 0 := by decide

theorem witness_FrameTakenFrees_ending :
    let s := sendingA (holding State.reset (held .seek .ending)) (.ending 1 0 .complete 0 0 false none [])
    s.powered = true ∧ (s.port 0).sending = some (.ending 1 0 .complete 0 0 false none []) ∧
      (((s.port 0).slots.get 0).map Order.oid) = some 1 := by decide

theorem witness_FrameTakenFrees_data :
    let s := sendingA offering (.data 1 0 0 (.pattern 0 0 0 0))
    s.powered = true ∧ (s.port 0).sending = some (.data 1 0 0 (.pattern 0 0 0 0)) ∧ s.ring.run.length = 1 := by decide

theorem witness_TimeoutsEndOrders :
    offering.powered = true ∧ offering.deliveryDue 0 = true ∧ (offering.port 0).offered = some ⟨1, 0, 0⟩ ∧
      (∃ o, (offering.port 0).slots.get 0 = some o ∧ o.oid = 1 ∧ o.live = true) ∧
      ({ asked State.reset with clock := 200000 } : State).requestDue 0 = true :=
  ⟨rfl, by decide, rfl, ⟨_, rfl, rfl, by decide⟩, by decide⟩

theorem witness_TimeoutsEndOrders_numberLaw : offering.numberLaw ∧ (asked State.reset).numberLaw :=
  ⟨numberLaw_of_ok (by unfold numbersOk; decide), numberLaw_of_ok (by unfold numbersOk; decide)⟩

theorem witness_UnfitFramesCounted :
    State.reset.powered = true ∧ Discarded State.reset (.read { order with checkOk := false }) ∧
      Discarded State.reset (.tableGet { order with tag := 4#8 }) ∧
      Discarded State.reset (.cancel { port := 3, checkOk := true, tag := 3#8 }) ∧
      Discarded State.reset (.unknownFrameKind (.kindByte 3 9#8 true)) :=
  ⟨rfl, .inl rfl, .inr (by decide), .inr (.inr ⟨3, by decide, .inl (by decide)⟩), trivial⟩

/-- A CANCEL of an order that cannot be cancelled. -/
theorem witness_UnfitFramesCounted_cancel :
    Discarded (holding State.reset (held .fence .active)) (.cancel { port := 0, checkOk := true, tag := 0#8 }) ∧
      Discarded State.reset (.hostDataFrame { port := 0, checkOk := true, tag := 0#8, index := 0#8, data := [] }) ∧
      Discarded State.reset (.portReset { port := 0, checkOk := false }) :=
  ⟨.inr (.inr ⟨0, by decide, .inr ⟨_, rfl, by decide, rfl, rfl⟩⟩), .inr (.inr ⟨0, by decide, by decide⟩), rfl⟩

theorem witness_UnfitFramesCounted_refusal :
    State.reset.powered = true ∧ tagOf order.tag = some 0 ∧ State.reset.judge .read order 0 = some .driveAbsent ∧
      (holding State.reset (held .read .active)).judge .read order 0 = some .tagBusy := by decide

/-- The states of the notices, and a port whose frames stand in each of the sources in turn. -/
theorem witness_NoticesAndTransmitter :
    (((inState .ready).drive 0).state ≠ .writingMap) ∧
      ((copying counting [.reserved]).reassign.slot.isSome = true ∧ (copying counting [.reserved]).reassign.held.isSome = true) ∧
      (State.reset.port 0).sending = none ∧ (State.reset.port 0).replies = [] ∧ (State.reset.port 0).endings = [] ∧
      (State.reset.port 0).dataReqs = [] ∧ State.reset.ring.offer 0 = none ∧ (offering.ring.offer 0).isSome = true ∧
      (let c := (((inState .ready).enterReady 0).modPort 0 fun c =>
          { c with access := { c.access with mask := noticeCandidate } }).port 0
       c.notices.get 0 &&& ~~~c.access.mask ≠ 0 ∧ c.notices.get 1 &&& ~~~c.access.mask = 0) := by decide

/-- Check 9 on each side of its table. -/
theorem witness_DriveStateCheck :
    OrderKind.fence.namesDrive = true ∧ ((inState .ready).accessOf order).phys = some 0 ∧
      ((inState .ready).accessOf order).right = .write ∧ ((inState .ready).drive 0).state ≠ .absent ∧
      State.reset.judgeDrive .sense order = some .driveAbsent ∧
      (inState .ready).reservedElsewhere 0 0 = false ∧ addressOk ((inState .ready).drive 0).geom .fence order = true ∧
      (inState .ready).judgeDrive .fence order = none ∧ (inState .fenced).judgeDrive .fence order = some .driveState ∧
      (inState .fenced).judgeDrive .unfence order = none ∧ (inState .ready).judgeDrive .commitMap order = some .driveState := by decide

theorem witness_QueuedOrderAccepted :
    OrderKind.read.driveQueued = true ∧ Accepted (inState .ready) .read order 0 ∧ ((inState .ready).accessOf order).phys = some 0 :=
  ⟨rfl, ⟨by decide, by decide, by decide, by decide⟩, by decide⟩

theorem witness_QueuedOrderAccepted_others :
    Accepted (inState .ready) .write order 0 ∧ Accepted (inState .spinningUp) .verify order 0 ∧
      Accepted (inState .writingMap) .seek order 0 ∧ Accepted (inState .ready) .surfaceVerify order 0 :=
  ⟨⟨by decide, by decide, by decide, by decide⟩, ⟨by decide, by decide, by decide, by decide⟩,
   ⟨by decide, by decide, by decide, by decide⟩, ⟨by decide, by decide, by decide, by decide⟩⟩

/-- The drive takes no new work: it is in SPINNING UP. -/
theorem witness_QueuedOrderAccepted_waiting :
    Accepted (inState .spinningUp) .read order 0 ∧ ((inState .spinningUp).drive 0).takesNoWork = true :=
  ⟨⟨by decide, by decide, by decide, by decide⟩, by decide⟩

theorem witness_Reservations :
    ((inState .ready).accessOf order).phys = some 0 ∧ (inState .ready).numberLaw ∧ Accepted (inState .ready) .reserve order 0 ∧
      Accepted (inState .ready) .release order 0 :=
  ⟨by decide, ready_numberLaw, ⟨by decide, by decide, by decide, by decide⟩, ⟨by decide, by decide, by decide, by decide⟩⟩

theorem witness_Reservations_elsewhere :
    OrderKind.sense.namesDrive = true ∧ ((withUnit { unit .ready with holder := some 3 }).accessOf order).phys = some 0 ∧
      ((withUnit { unit .ready with holder := some 3 }).drive 0).holder = some 3 ∧ (3 : Port) ≠ order.port := by decide

theorem witness_SenseTakesDrive :
    Accepted (inState .ready) .sense order 0 ∧ (inState .ready).numberLaw ∧ logicalOf order.logical = some 0 ∧
      ((inState .ready).accessOf order).phys = some 0 :=
  ⟨⟨by decide, by decide, by decide, by decide⟩, ready_numberLaw, by decide, by decide⟩

theorem witness_CancelEndsOrder :
    let s := holding (withUnit { unit .loadingMap with queue := [1] }) (held .read .queued)
    s.powered = true ∧ s.numberLaw ∧ tagOf 0#8 = some 0 ∧
      ∃ o, (s.port 0).slots.get 0 = some o ∧ o.live = true ∧ o.kind.driveQueued = true :=
  ⟨rfl, numberLaw_of_ok (by unfold numbersOk; decide), by decide, _, rfl, by decide, by decide⟩

/-- Orders of port A current: a READ with no transfer, one with a granted transfer, and a SURFACE VERIFY; a REASSIGN that copies. -/
theorem witness_PortResetClears_work :
    let idle := holding (withUnit { unit .ready with cur := some (running .read .read) }) (held .read .active)
    (numbersOk idle ∧ ((idle.port 0).slots.get 0 = some (held .read .active)) ∧ (held .read .active).live = true ∧
        idle.path.holder ≠ some 0 ∧ (running .read .read).oid = (held .read .active).oid) ∧
      (numbersOk reading ∧ reading.path.holder = some 0 ∧ (reading.path.xfer.map Xfer.chained) = some false ∧
        (reading.drive 0).cur = some (running .read .read)) ∧
      (numbersOk verifying ∧ ((verifying.drive 0).cur.map fun op => (op.kind, op.oid)) = some (.surface, 1) ∧
        (verifying.drive 0).state ≠ .waitingSpin ∧ ((verifying.port 0).slots.get 0).map Order.oid = some 1) ∧
      (copying counting [.reserved]).reassign.state = .copying :=
  ⟨⟨by unfold numbersOk; decide, rfl, by decide, by decide, rfl⟩, ⟨by unfold numbersOk; decide, by decide, by decide, rfl⟩,
   ⟨by unfold numbersOk; decide, by decide, by decide, by decide⟩, rfl⟩

theorem witness_PortResetClears :
    (withUnit { unit .ready with holder := some 0 }).powered = true ∧ ((withUnit { unit .ready with holder := some 0 }).drive 0).holder = some 0 := by
  decide

/-- The last index of the watch list and the first one past it; an unknown table. -/
theorem witness_TableSelectSetsWindow :
    State.reset.powered = true ∧ tagOf order.tag = some 0 ∧
      State.reset.judge .tableSelect { order with sector := 7#8, parameter := 15#16 } 0 = none ∧
      State.reset.judge .tableSelect { order with sector := 7#8, parameter := 16#16 } 0 = some .badOrder ∧
      State.reset.judge .tableSelect { order with sector := 8#8 } 0 = some .badOrder ∧ State.reset.numberLaw :=
  ⟨rfl, by decide, by decide, by decide, by decide, numberLaw_of_ok (by unfold numbersOk; decide)⟩

theorem witness_TablePutStores :
    Accepted (looking (inState .ready) .sparingPolicy 0) .tablePut { order with body := [1#8, 3#8, 60#8, 1#8] } 0 ∧
      (looking (inState .ready) .sparingPolicy 0).numberLaw :=
  ⟨⟨by decide, by decide, by decide, by decide⟩, numberLaw_of_ok (by unfold numbersOk; decide)⟩

theorem witness_TablePutStores_settings :
    Accepted (looking (inState .ready) .motionProfile 7) .tablePut
        { order with body := [4#8, 32#8, 2#8, 6#8, 4#8, 3#8, 32#8, 1#8] } 0 ∧
      Accepted (looking (inState .fenced) .geometry 0) .tablePut
        { order with body := [1#8, 1#8, 0x98#8, 10#8, 32#8, 8#8, 6#8, 0x83#8] } 0 ∧
      Accepted (looking (inState .ready) .portAccess 3) .tablePut
        { order with body := [0x20#8, 0x21#8, 0x0F#8, 0x0F#8, 0x0F#8, 0x0F#8, 0x0F#8, 0x0F#8, 1#8, 63#8] } 0 :=
  ⟨⟨by decide, by decide, by decide, by decide⟩, ⟨by decide, by decide, by decide, by decide⟩,
   ⟨by decide, by decide, by decide, by decide⟩⟩

/-- A profile for a channel in IDLE, for one in ACCEL, and for an address without a channel. -/
theorem witness_TablePutStores_profile :
    let f : OrderFrame := { order with body := [4#8, 32#8, 2#8, 6#8, 4#8, 3#8, 32#8, 1#8] }
    let unserved : State := { inState .ready with plugs := { State.reset.plugs with mode8 := false } }
    (Accepted (looking (inState .ready) .motionProfile 0) .tablePut f 0 ∧ ((inState .ready).drive 0).chan.phase = .idle) ∧
      (Accepted (looking (moving .accel 0 4) .motionProfile 0) .tablePut f 0 ∧ ((moving .accel 0 4).drive 0).chan.phase ≠ .idle ∧
        ((moving .accel 0 4).drive 0).chan.phase ≠ .stopped) ∧
      (Accepted (looking unserved .motionProfile 7) .tablePut f 0 ∧ served unserved.plugs.mode8 7 = false ∧
        (unserved.drive 7).takesNoWork = true) :=
  ⟨⟨⟨by decide, by decide, by decide, by decide⟩, by decide⟩, ⟨⟨by decide, by decide, by decide, by decide⟩, by decide, by decide⟩,
   ⟨⟨by decide, by decide, by decide, by decide⟩, by decide, by decide⟩⟩

/-- A geometry with the division held and one with another, the channel in IDLE. -/
theorem witness_TablePutStores_geometry :
    let s := looking (inState .fenced) .geometry 0
    s.engineLaw ∧ (s.drive 0).chan.phase ≠ .stopped ∧
      Accepted s .tablePut { order with body := Geometry.encode (builtinGeometry 1) } 0 ∧
      Accepted s .tablePut { order with body := Geometry.encode (some small) } 0 :=
  ⟨engineLaw_of_none (by decide), by decide, ⟨by decide, by decide, by decide, by decide⟩, ⟨by decide, by decide, by decide, by decide⟩⟩

/-- A geometry for an address without a channel. -/
theorem witness_TablePutStores_unserved :
    let s : State := { looking (inState .ready) .geometry 7 with plugs := { State.reset.plugs with mode8 := false } }
    s.engineLaw ∧ Accepted s .tablePut { order with body := Geometry.encode (some small) } 0 ∧ served s.plugs.mode8 7 = false ∧
      (s.drive 7).takesNoWork = true :=
  ⟨engineLaw_of_none (by decide), ⟨by decide, by decide, by decide, by decide⟩, by decide, by decide⟩

/-- There a verify threshold above the new S stays, and the pool keeps no position. -/
theorem test_geometry_put_unserved :
    let s : State := { looking (inState .ready) .geometry 7 with plugs := { State.reset.plugs with mode8 := false } }
    let x := (after (.tablePut { order with body := Geometry.encode (some small) })
      (s.modDrive 7 fun x => { x with policy := { x.policy with verifyThreshold := 32 } })).drive 7
    x.geom = some small ∧ x.policy.verifyThreshold = 32 ∧ x.pool = [] := by decide

/-- A new entry, one in place of another with another alternate and with the same, and the removal of one. -/
theorem witness_TablePutStores_spare :
    let new := looking (withUnit { unspared with state := .fenced }) .spareMap 5
    let old := looking (withUnit { spared with state := .mapLost }) .spareMap 0
    (small.consistent = true ∧ unspared.mapLaw small ∧ spared.mapLaw small ∧ (spared.slotEntry 0).isSome = true ∧
        spared.pendRecal = false ∧ spared.pendLoad = false ∧ spared.pendWrite = false) ∧
      Accepted new .tablePut { order with body := [0#8, 13#8, 0#8, 0#8, 14#8, 0#8] } 0 ∧
      Accepted old .tablePut { order with body := [0#8, 12#8, 0#8, 0#8, 14#8, 0#8] } 0 ∧
      Accepted old .tablePut { order with body := [] } 0 ∧
      Accepted (looking (withUnit { roomyDrive with
        state := .fenced, spare := [⟨0, ⟨3, 0⟩, ⟨13, 0⟩, false, .auto, none⟩], pool := [.inUse, .free, .map] }) .spareMap 0) .tablePut
        { order with body := [0#8, 3#8, 0#8, 0#8, 14#8, 0#8] } 0 :=
  ⟨⟨by decide, unspared_mapLaw, spared_mapLaw, by decide, rfl, rfl, rfl⟩, ⟨by decide, by decide, by decide, by decide⟩,
   ⟨by decide, by decide, by decide, by decide⟩, ⟨by decide, by decide, by decide, by decide⟩,
   ⟨by decide, by decide, by decide, by decide⟩⟩

/-- A policy whose window has passed for a COUNTING entry, to the millisecond. -/
theorem witness_TablePutStores_expiry :
    let s : State := { looking (watching counting) .sparingPolicy 0 with clock := 6000000 }
    Accepted s .tablePut { order with body := [1#8, 3#8, 60#8, 1#8] } 0 ∧ s.watch[3]? = some (.entry counting) ∧
      counting.windowStart + 60 * 1000 ≤ s.stringTime ∧
      ¬counting.windowStart + 60 * 1000 ≤ ({ s with clock := 5999999 } : State).stringTime :=
  ⟨⟨by decide, by decide, by decide, by decide⟩, rfl, by decide, by decide⟩

theorem witness_TablePutStores_map :
    Accepted (looking (withUnit { unspared with state := .fenced }) .spareMap 127) .tablePut
        { order with body := [0#8, 13#8, 0#8, 0#8, 14#8, 0#8] } 0 ∧
      Accepted (looking (withUnit { unspared with state := .mapLost }) .alternatePool 0) .tablePut { order with body := [2#8] } 0 :=
  ⟨⟨by decide, by decide, by decide, by decide⟩, ⟨by decide, by decide, by decide, by decide⟩⟩

theorem witness_TableGetReturns :
    Accepted (looking (inState .ready) .geometry 0) .tableGet order 0 ∧ (looking (inState .ready) .geometry 0).numberLaw :=
  ⟨⟨by decide, by decide, by decide, by decide⟩, numberLaw_of_ok (by unfold numbersOk; decide)⟩

/-- The other tables, at their last index where an entry stands there, and an empty entry. -/
theorem witness_TableGetReturns_tables :
    Accepted (looking (inState .ready) .portAccess 3) .tableGet order 0 ∧
      Accepted (looking (inState .ready) .motionProfile 7) .tableGet order 0 ∧
      Accepted (looking (inState .ready) .sparingPolicy 7) .tableGet order 0 ∧
      (Accepted (looking (withUnit { spared with state := .ready }) .spareMap 0) .tableGet order 0 ∧
        (spared.slotEntry 0).isSome = true) ∧
      Accepted (looking (inState .ready) .spareMap 127) .tableGet order 0 ∧
      Accepted (looking (withUnit { spared with state := .ready }) .alternatePool 1) .tableGet order 0 ∧
      Accepted (looking (watching counting) .watchList 3) .tableGet order 0 ∧
      Accepted (looking (watching counting) .watchList 15) .tableGet order 0 :=
  ⟨⟨by decide, by decide, by decide, by decide⟩, ⟨by decide, by decide, by decide, by decide⟩,
   ⟨by decide, by decide, by decide, by decide⟩, ⟨⟨by decide, by decide, by decide, by decide⟩, by decide⟩,
   ⟨by decide, by decide, by decide, by decide⟩, ⟨by decide, by decide, by decide, by decide⟩,
   ⟨by decide, by decide, by decide, by decide⟩, ⟨by decide, by decide, by decide, by decide⟩⟩

/-- The pool of a geometry put at an address without a channel, at a user position and at the map track. -/
theorem witness_TableGetReturns_unserved :
    let s : State := (inState .ready).modDrive 7 fun x => { x with geom := some small, geomLater := true }
    ∀ i ∈ [0, 1],
      let r := (looking s .alternatePool i).modPort 0 fun c => { c with window := { c.window with drive := 7 } }
      r.judge .tableGet order 0 = none ∧ (r.drive 7).geom = some small ∧ i < small.poolSize ∧ (r.drive 7).pool[i]? = none := by decide

/-- An idle drive with nothing to select. -/
theorem witness_ReadTalliesClears_idle :
    Accepted (inState .ready) .readTallies order 0 ∧ ((inState .ready).drive 0).cur = none ∧
      ((inState .ready).drive 0).request = false ∧ ((inState .ready).drive 0).nextInternal = none ∧
      (inState .ready).eligibleEntries 0 = [] ∧
      ∀ e : WatchEntry, .entry e ∈ (inState .ready).watch → e.drive = 0 → (inState .ready).eligible e = false :=
  ⟨⟨by decide, by decide, by decide, by decide⟩, by decide, by decide, by decide, by decide,
   fun g hg => absurd (List.eq_of_mem_replicate (n := 16) hg) (by simp)⟩

theorem witness_ReadTalliesClears :
    Accepted (inState .spinningUp) .readTallies order 0 ∧ (inState .spinningUp).numberLaw ∧
      ((inState .spinningUp).drive 0).takesNoWork = true ∧ ((inState .spinningUp).drive 0).request = false :=
  ⟨⟨by decide, by decide, by decide, by decide⟩, numberLaw_of_ok (by unfold numbersOk; decide), by decide, by decide⟩

theorem witness_EntryBodiesRoundTrip :
    (PortAccess.initial true).mask &&& 0x3F#8 = (PortAccess.initial true).mask ∧
      Geometry.acceptable ⟨15, 1024, 16, 32, 8, 5000⟩ = true ∧ Geometry.acceptable ⟨0, 16, 1, 8, 2, 500⟩ = true ∧ 1 ≤ 32 ∧ 32 ≤ 32 := by
  decide

theorem witness_FenceEndsWork :
    let s := holding (withUnit { unit .ready with cur := some (running .read .read) }) (held .read .active)
    Accepted s .fence { order with tag := 3#8 } 3 ∧ s.numberLaw ∧ s.ringLaw ∧ (s.accessOf order).phys = some 0 ∧
      ∃ o, (s.port 0).slots.get 0 = some o ∧ o.drive = some 0 ∧ o.live = true ∧ o.kind.driveQueued = true :=
  ⟨⟨by decide, by decide, by decide, by decide⟩, numberLaw_of_ok (by unfold numbersOk; decide), ⟨by decide, by decide⟩, by decide, _, rfl,
   by decide, by decide, by decide⟩

/-- A FENCE with nothing granted, one with a sector granted, and one of a drive that copies. -/
theorem witness_FenceEndsWork_ends :
    (Accepted (inState .mapLost) .fence order 0 ∧ (inState .mapLost).path.holder ≠ some 0 ∧ ((inState .mapLost).drive 0).cur = none) ∧
      (Accepted reading .fence { order with tag := 3#8 } 3 ∧ reading.ringLaw ∧ reading.path.holder = some 0 ∧
        (reading.path.xfer.map Xfer.chained) = some false ∧ ((reading.drive 0).cur.map fun op => op.kind.hostOrdered) = some true) ∧
      (Accepted (copying counting [.reserved]) .fence order 0 ∧ (copying counting [.reserved]).reassign.state = .copying ∧
        counting.drive = 0 ∧ 0 < (copying counting [.reserved]).watch.length) :=
  ⟨⟨⟨by decide, by decide, by decide, by decide⟩, by decide, rfl⟩,
   ⟨⟨by decide, by decide, by decide, by decide⟩, ⟨by decide, by decide⟩, by decide, by decide, by decide⟩,
   ⟨⟨by decide, by decide, by decide, by decide⟩, by decide, by decide, by decide⟩⟩

/-- The FENCE waits for the end of a sector read, and of a sector write. -/
theorem witness_FenceEndsWork_sector :
    ∀ s ∈ [holding (onPath (withUnit { unit .fenced with cur := some { running .read .read with ended := true } }) none)
          (held .fence .active),
        holding (onPath (withUnit { unit .fenced with cur := some { running .write .write with ended := true } }) (some written))
          (held .fence .active)],
      s.powered = true ∧ numbersOk s ∧ s.ringLaw ∧ (s.drive 0).state = .fenced ∧
        (∃ op x, s.transferOf 0 = some (op, x) ∧ op.ended = true ∧ (x.frame = none ∨ (x.frame.isSome = true ∧ op.kind = .write))) ∧
        ∃ o, (s.port 0).slots.get 0 = some o ∧ o.kind = .fence ∧ o.drive = some 0 ∧ o.live = true := by
  intro s hs
  simp only [List.mem_cons, List.not_mem_nil, or_false] at hs
  rcases hs with rfl | rfl
  · exact ⟨rfl, by unfold numbersOk; decide, ⟨by decide, by decide⟩, rfl, ⟨_, _, rfl, rfl, .inl rfl⟩, _, rfl, rfl, rfl, rfl⟩
  · exact ⟨rfl, by unfold numbersOk; decide, ⟨by decide, by decide⟩, rfl, ⟨_, _, rfl, rfl, .inr ⟨rfl, rfl⟩⟩, _, rfl, rfl, rfl, rfl⟩

theorem witness_UnfenceRecalibrates :
    Accepted (inState .fenced) .unfence order 0 ∧ ((inState .fenced).accessOf order).phys = some 0 :=
  ⟨⟨by decide, by decide, by decide, by decide⟩, by decide⟩

/-- The four cases of a drive's state at acceptance. -/
theorem witness_DriveResetLeads :
    (Accepted (inState .notReady) .driveReset order 0 ∧ Accepted (inState .mapLost) .driveReset order 0) ∧
      (Accepted (inState .fenced) .driveReset order 0 ∧ ((inState .fenced).drive 0).geom.isSome = true) ∧
      (Accepted (withUnit { unit .fenced with geom := none }) .driveReset order 0 ∧
        ((withUnit { unit .fenced with geom := none }).drive 0).geom = none) ∧
      (inState .fenced).numberLaw ∧ ((inState .fenced).accessOf order).phys = some 0 :=
  ⟨⟨⟨by decide, by decide, by decide, by decide⟩, ⟨by decide, by decide, by decide, by decide⟩⟩,
   ⟨⟨by decide, by decide, by decide, by decide⟩, by decide⟩, ⟨⟨by decide, by decide, by decide, by decide⟩, rfl⟩,
   numberLaw_of_ok (by unfold numbersOk; decide), by decide⟩

theorem witness_CommitMapQueuesWrite :
    Accepted (inState .mapLost) .commitMap order 0 ∧ ((inState .mapLost).accessOf order).phys = some 0 :=
  ⟨⟨by decide, by decide, by decide, by decide⟩, by decide⟩

/-- A MAP WRITE is current at acceptance. -/
theorem witness_CommitMapQueuesWrite_current :
    let s := withUnit { unit .mapLost with cur := some { running .mapWrite .write with oid := 0 } }
    Accepted s .commitMap order 0 ∧ (s.drive 0).cur.isSome = true :=
  ⟨⟨by decide, by decide, by decide, by decide⟩, by decide⟩

/-- The drive has a write in transfer. -/
theorem witness_DriveResetLeads_torn :
    Accepted writing .driveReset { order with tag := 1#8 } 1 ∧ ∃ op x, writing.transferOf 0 = some (op, x) ∧ x.frame = some written :=
  ⟨⟨by decide, by decide, by decide, by decide⟩, _, _, rfl, rfl⟩

theorem witness_HostFramesRoundTrip :
    (Instr.read order).wf = true ∧ (encodeFrame (.read order)).isSome = true ∧ (Instr.unknownFrameKind (.kindByte 3 4#8 false)).wf = true ∧
      (encodeFrame (.unknownFrameKind (.kindByte 3 4#8 false))) = some [4#8, 0#8] := by decide

end Sys2Proof.Tests
end

section
/-! The spare map laws across a power-on. -/

namespace Sys2Proof.Machine

-- One declaration after the other: in parallel the one compile of the whole text runs out of threads.
set_option Elab.async false

/-! ## A power-on in channel mode 8 brings in an entry put in mode 4 (R162) -/

/-- A GEOMETRY entry that no rule takes (R46), since it has no cylinder. -/
def emptyGeometry : Geometry := { type := 0, c := 0, h := 0, s := 0, a := 0, period := 0 }

/-- Address 4, not served in channel mode 4, with `emptyGeometry` kept there for a later power-on. -/
def lateDrive : Drive := { Drive.initial with geom := some emptyGeometry, geomLater := true }

/-- The plugs of channel mode 8. -/
def plugsMode8 : Plugs := { Plugs.initial with mode8 := true }

/-- The reset state with `lateDrive` at address 4 and a power-on in channel mode 8 waiting. -/
def beforeMode8 : State :=
  { State.reset.modDrive 4 (fun _ => lateDrive) with pending := [.powerOn plugsMode8 (Oct.all none)] }

theorem beforeMode8_drive (d : DriveId) : beforeMode8.drive d = if d = 4 then lateDrive else Drive.initial := by
  have h : beforeMode8.drive d = (State.reset.modDrive 4 fun _ => lateDrive).drive d := rfl
  rw [h]
  split
  · next hd => rw [hd, State.drive_modDrive_self]
  · next hd => rw [State.drive_modDrive_ne _ _ hd]; exact Oct.get_all _ _

/-- Nothing is queued or current at any address before the power-on. -/
theorem beforeMode8_idle (d : DriveId) :
    (beforeMode8.drive d).cur = none ∧ (beforeMode8.drive d).state = .absent ∧ (beforeMode8.drive d).pendRecal = false ∧
      (beforeMode8.drive d).pendLoad = false ∧ (beforeMode8.drive d).pendWrite = false ∧
      (beforeMode8.drive d).pendReassign = false := by
  rw [beforeMode8_drive]
  split <;> exact ⟨rfl, rfl, rfl, rfl, rfl, rfl⟩

/-- Only the address that is not served has its geometry set. -/
theorem beforeMode8_geom {d : DriveId} (h : served beforeMode8.plugs.mode8 d = true) : (beforeMode8.drive d).geom = none := by
  have hd : d ≠ 4 := by rintro rfl; exact absurd h (by decide)
  rw [beforeMode8_drive, if_neg hd]
  rfl

theorem beforeMode8_verifyLaw : beforeMode8.verifyLaw :=
  ⟨fun _ h => (nomatch h), fun d op h => by rw [(beforeMode8_idle d).1] at h; cases h⟩

theorem beforeMode8_engineLaw : beforeMode8.engineLaw where
  geometry d _ := by
    obtain ⟨hcur, hstate, hrecal, hload, hwrite, -⟩ := beforeMode8_idle d
    exact ⟨by simp [hstate], hcur, hrecal, hload, hwrite⟩
  queued d h := by
    obtain ⟨-, -, -, -, -, hreassign⟩ := beforeMode8_idle d
    rw [hreassign] at h
    cases h
  current d op h := by rw [(beforeMode8_idle d).1] at h; cases h
  surface d op h := by rw [(beforeMode8_idle d).1] at h; cases h

theorem beforeMode8_sparingLaw : beforeMode8.sparingLaw where
  drives d g hs hg := by rw [beforeMode8_geom hs] at hg; cases hg
  copying h := nomatch h
  trial _ _ h := nomatch h

/-- After the power-on the entry is that of a served drive. -/
theorem mode8_geom :
    ((beforeMode8.powerOn plugsMode8 (Oct.all none)).drive 4).geom = some emptyGeometry := by
  unfold State.powerOn
  rw [settle_geom]
  rfl

/-- Refutes O26. The law speaks of the geometry of served drives, and a power-on in channel mode 8 serves address 4 with the entry put
there in channel mode 4 (R162, log 43), of which no premise says that it is consistent. -/
theorem not_sparingLawKept : ¬ Obligations.SparingLawKept := by
  unfold Obligations.SparingLawKept
  rintro ⟨kept, -, -⟩
  obtain ⟨law, -⟩ := kept beforeMode8 _ rfl beforeMode8_verifyLaw beforeMode8_engineLaw beforeMode8_sparingLaw
  have hserved : served ((beforeMode8.powerOn plugsMode8 (Oct.all none)).plugs.mode8) 4 = true := by
    unfold State.powerOn
    rw [settle_plugs]
    rfl
  obtain ⟨hcon, -⟩ := law.drives 4 emptyGeometry hserved mode8_geom
  exact absurd hcon (by decide)

end Sys2Proof.Machine
end

section
/-! Power and time: every command answers, the settings stand, one tick of the clock, and the laws of the reset state. -/

namespace Sys2Proof.Machine

-- One declaration after the other: in parallel the one compile of the whole text runs out of threads.
set_option Elab.async false

variable {s t : State}

/-! ## Every command answers -/

/-- A command that runs only with power answers next, and leaves a controller without power as it is. -/
theorem State.run_answers (s : State) (f : State → State) :
    ∃ t, s.run f = .next t ∧ (s.powered = false → t = s) := by
  unfold State.run
  split
  · next h => exact ⟨_, rfl, fun h' => by rw [h] at h'; cases h'⟩
  · exact ⟨_, rfl, fun _ => rfl⟩

/-- Every command but power-on and power failure is a run of its effect. -/
theorem exec_eq_run (c : Instr) (hon : ∀ plugs poll, c ≠ .powerOn plugs poll) (hoff : c ≠ .powerFailure) :
    ∃ f : State → State, ∀ s, exec c s = s.run f := by
  cases c
  case powerOn plugs poll => exact absurd rfl (hon plugs poll)
  case powerFailure => exact absurd rfl hoff
  all_goals exact ⟨_, fun _ => rfl⟩

/-- Every command answers next, and without power none but POWER_ON does anything. -/
theorem exec_answers (c : Instr) (s : State) :
    ∃ t, exec c s = .next t ∧ (s.powered = false → (∀ plugs poll, c ≠ .powerOn plugs poll) → t = s) := by
  by_cases hon : ∃ plugs poll, c = .powerOn plugs poll
  · obtain ⟨plugs, poll, rfl⟩ := hon
    exact ⟨_, rfl, fun _ h => absurd rfl (h plugs poll)⟩
  · by_cases hoff : c = .powerFailure
    · subst hoff
      cases hp : s.powered
      · exact ⟨s, by simp [exec, execPowerFailure, hp], fun _ _ => rfl⟩
      · exact ⟨s.powerFail, by simp [exec, execPowerFailure, hp], fun h => by cases h⟩
    · obtain ⟨f, hf⟩ := exec_eq_run c (fun plugs poll h => hon ⟨plugs, poll, h⟩) hoff
      obtain ⟨t, ht, hs⟩ := s.run_answers f
      exact ⟨t, (hf s).trans ht, fun hp _ => hs hp⟩

/-- POWER_ON leaves the queue of commands as it is. -/
theorem State.powerOn_pending (s : State) (plugs : Plugs) (poll : Poll) : (s.powerOn plugs poll).pending = s.pending := by
  unfold State.powerOn
  rw [settle_pending]
  split
  · exact (Lawful.refl s).tearWrite.pending
  · rfl

/-- An accepted or refused TABLE PUT keeps the queue of commands and the laws it can. -/
theorem execTablePut_kept {f : OrderFrame} (h : exec (.tablePut f) s = .next t) : LawKept s t := by
  simp only [exec, execTablePut, State.run] at h
  split at h
  · cases h
    exact (LawKept.receiveOrder s _ _ fun n d u => LawKept.putTable f n d u).trans ((Work.refl _).settle _).toLawful.kept
  · cases h; exact .refl s

/-- No command touches the queue of commands. -/
theorem exec_pending (c : Instr) (h : exec c s = .next t) : t.pending = s.pending := by
  by_cases hc : setsTables c = false
  · exact (exec_lawful hc h).pending
  · cases c
    case powerOn plugs poll => cases h; exact s.powerOn_pending plugs poll
    case tablePut => exact (execTablePut_kept h).pending
    all_goals exact absurd rfl hc

/-- Settles O3: each command is a run of its effect, a power-on or a power failure. -/
theorem everyCommandAnswers : Obligations.EveryCommandAnswers := by
  unfold Obligations.EveryCommandAnswers
  intro c s
  obtain ⟨t, ht, hs⟩ := exec_answers c s
  exact ⟨t, ht, exec_pending c ht, hs⟩

/-- Settles O4, by what every command but power-on and TABLE PUT keeps. -/
theorem settingsChangeByTablePut : Obligations.SettingsChangeByTablePut := by
  unfold Obligations.SettingsChangeByTablePut
  exact fun _ _ _ hc h => (exec_lawful hc h).settings

/-! ## The idle step -/

theorem mem_allDrives (d : DriveId) : d ∈ allDrives := by revert d; decide

theorem mem_allPorts (p : Port) : p ∈ allPorts := by revert p; decide

theorem mem_allWatchSlots (i : Fin 16) : i ∈ allWatchSlots := by revert i; decide

/-- The commands queued by a tick are those of the timers that are due. -/
theorem State.mem_dueTimers (c : Instr) : c ∈ s.dueTimers ↔ TimerDue s c := by
  cases c <;> simp [State.dueTimers, TimerDue, mem_allDrives, mem_allPorts, mem_allWatchSlots]

/-- Settles O2, by what a tick queues. -/
theorem idleStepTicks : Obligations.IdleStepTicks := by
  unfold Obligations.IdleStepTicks
  intro s hq hp
  refine ⟨s.tick, by simp [step, hq], ?_, fun c => ?_, ?_⟩
  · simp [State.tick, hp]
  · have hdue : TimerDue s.tick c ↔ TimerDue { s with clock := s.clock + 1 } c := by
      rw [State.tick, if_pos hp]; cases c <;> exact Iff.rfl
    rw [hdue, ← State.mem_dueTimers, State.tick, if_pos hp]
  · obtain ⟨⟩ := s
    simp_all [State.tick]

/-! ## The laws at reset -/

theorem State.reset_drive (d : DriveId) : State.reset.drive d = Drive.initial := Oct.get_all _ _

theorem State.reset_port (p : Port) : State.reset.port p = PortCtl.initial (p = 0) := Quad.get_of _ _

theorem Profile.initial_fits : Profile.initial.fits := by unfold Profile.fits; decide

theorem State.reset_engineLaw : State.reset.engineLaw where
  geometry d _ := by rw [State.reset_drive]; exact ⟨by decide, rfl, rfl, rfl, rfl⟩
  queued d h := by rw [State.reset_drive] at h; cases h
  current d op h := by rw [State.reset_drive] at h; cases h
  surface d op h := by rw [State.reset_drive] at h; cases h

theorem State.reset_numberLaw : State.reset.numberLaw where
  next := by decide
  range p g o h := by rw [State.reset_port, PortCtl.initial, Quad.get_all] at h; cases h
  distinct p g o q k r h := by rw [State.reset_port, PortCtl.initial, Quad.get_all] at h; cases h

theorem State.reset_watchLaw : State.reset.watchLaw where
  slots := rfl
  homes i j e f h := by
    have : WatchSlot.entry e ∈ List.replicate 16 WatchSlot.empty := List.mem_of_getElem? h
    simp at this
  held h := nomatch h
  idle _ := rfl

theorem State.reset_sparingLaw : State.reset.sparingLaw where
  drives d g _ h := by rw [State.reset_drive] at h; cases h
  copying h := nomatch h
  trial _ _ h := nomatch h

theorem State.reset_positionLaw : State.reset.positionLaw := fun d _ => by
  rw [State.reset_drive]
  exact ⟨fun _ => rfl, nofun, nofun⟩

theorem State.reset_tallyLaw : State.reset.tallyLaw := by
  refine ⟨fun d => ?_, fun p => ?_, by decide⟩
  · rw [State.reset_drive]; decide
  · rw [State.reset_port]; simp [PortCtl.initial, PortCtl.counters]

/-- Settles O20, law by law. -/
theorem lawsHoldAtReset : Obligations.LawsHoldAtReset := by
  unfold Obligations.LawsHoldAtReset
  refine ⟨fun d => ?_, State.reset_positionLaw, fun d op l h => ?_, fun d e h => ?_, ⟨fun _ h => (nomatch h), fun d op h => ?_⟩,
    State.reset_engineLaw, ⟨by decide, by decide⟩, State.reset_watchLaw, List.Pairwise.nil, State.reset_tallyLaw, ⟨0, rfl⟩,
    State.reset_numberLaw, State.reset_sparingLaw, fun d _ => ?_⟩
  · rw [State.reset_drive]; exact ⟨Channel.law_initial _ Profile.initial_fits, Profile.initial_fits⟩
  · rw [State.reset_drive] at h; cases h
  · rw [State.reset_drive] at h; cases h
  · rw [State.reset_drive] at h; cases h
  · rw [State.reset_drive]; exact ⟨rfl, rfl, rfl, rfl, rfl, rfl, rfl, rfl, rfl⟩

end Sys2Proof.Machine
end

section
/-! What the laws of the turns read of the state (R8, R126, R127, R139), and the updates that leave it alone. -/

namespace Sys2Proof.Machine

-- One declaration after the other: in parallel the one compile of the whole text runs out of threads.
set_option Elab.async false

variable {s t u : State}

/-! ## The relation -/

/-- What the laws of the turns read of an operation. -/
def Op.turn (op : Op) : OpKind × Nat × Pass × Bool := (op.kind, op.oid, op.pass, op.ended)

/-- The turn of a drive's current operation. -/
def State.curTurn (s : State) (d : DriveId) : Option (OpKind × Nat × Pass × Bool) := (s.drive d).cur.map Op.turn

/-- A drive's part in the turns is as it was; pending internal operations may have gone, and a MAP WRITE may be pending in READY. -/
structure Drive.Calm (x y : Drive) : Prop where
  state : y.state = x.state
  geom : y.geom = x.geom
  cur : y.cur.map Op.turn = x.cur.map Op.turn
  recal : y.pendRecal = true → x.pendRecal = true
  load : y.pendLoad = true → x.pendLoad = true
  write : y.pendWrite = true → x.pendWrite = true ∨ x.state = .ready
  reassign : y.pendReassign = true → x.pendReassign = true

/-- Every CANDIDATE stays one in its watch slot. -/
def CandidatesKept (w v : List WatchSlot) : Prop :=
  ∀ i e, watchEntry w i = some e → e.state = .candidate →
    ∃ e', watchEntry v i = some e' ∧ e'.state = .candidate ∧ e'.drive = e.drive

/-- The parts the laws of the turns speak of are as they were. -/
structure Calm (s t : State) : Prop where
  drive : ∀ d, Drive.Calm (s.drive d) (t.drive d)
  watch : CandidatesKept s.watch t.watch
  engine : t.reassign.state = s.reassign.state
  slot : t.reassign.slot = s.reassign.slot
  held : t.reassign.held.map WatchEntry.drive = s.reassign.held.map WatchEntry.drive
  job : t.verify.job = s.verify.job

theorem Drive.Calm.refl (x : Drive) : Drive.Calm x x := ⟨rfl, rfl, rfl, id, id, .inl, id⟩

theorem Drive.Calm.trans {x y z : Drive} (h1 : Drive.Calm x y) (h2 : Drive.Calm y z) : Drive.Calm x z :=
  ⟨h2.state.trans h1.state, h2.geom.trans h1.geom, h2.cur.trans h1.cur, h1.recal ∘ h2.recal, h1.load ∘ h2.load,
   fun h => (h2.write h).elim h1.write fun hs => .inr (h1.state ▸ hs), h1.reassign ∘ h2.reassign⟩

theorem CandidatesKept.refl (w : List WatchSlot) : CandidatesKept w w := fun _ e h hc => ⟨e, h, hc, rfl⟩

theorem CandidatesKept.trans {a b c : List WatchSlot} (h1 : CandidatesKept a b) (h2 : CandidatesKept b c) : CandidatesKept a c :=
  fun i e h hc => by
    obtain ⟨e1, h1, hc1, hd1⟩ := h1 i e h hc
    obtain ⟨e2, h2, hc2, hd2⟩ := h2 i e1 h1 hc1
    exact ⟨e2, h2, hc2, hd2.trans hd1⟩

theorem Calm.refl (s : State) : Calm s s := ⟨fun _ => .refl _, .refl _, rfl, rfl, rfl, rfl⟩

theorem Calm.trans (h1 : Calm s t) (h2 : Calm t u) : Calm s u :=
  ⟨fun d => (h1.drive d).trans (h2.drive d), h1.watch.trans h2.watch, h2.engine.trans h1.engine, h2.slot.trans h1.slot,
   h2.held.trans h1.held, h2.job.trans h1.job⟩

theorem Calm.curTurn (h : Calm s t) (d : DriveId) : t.curTurn d = s.curTurn d := (h.drive d).cur

theorem Calm.state (h : Calm s t) (d : DriveId) : (t.drive d).state = (s.drive d).state := (h.drive d).state

theorem Calm.geom (h : Calm s t) (d : DriveId) : (t.drive d).geom = (s.drive d).geom := (h.drive d).geom

theorem Calm.destructive (h : Calm s t) : t.destructive = s.destructive := by
  rw [State.destructive, State.destructive, h.job]

theorem State.cur_none_iff {d : DriveId} : (s.drive d).cur = none ↔ s.curTurn d = none := by simp [State.curTurn]

theorem State.curTurn_of {d : DriveId} {op : Op} (h : (s.drive d).cur = some op) : s.curTurn d = some op.turn := by
  simp [State.curTurn, h]

theorem Calm.ite {c : Prop} [Decidable c] {a b : State} (ha : c → Calm s a) (hb : ¬c → Calm s b) :
    Calm s (if c then a else b) := by split <;> rename_i hc <;> [exact ha hc; exact hb hc]

theorem Calm.foldl {α : Type} (f : State → α → State) (hf : ∀ u a, Calm s u → Calm s (f u a)) (l : List α)
    (h : Calm s t) : Calm s (l.foldl f t) := by
  induction l generalizing t with
  | nil => exact h
  | cons a l ih => exact ih (hf _ _ h)

/-! ## Elementary updates -/

/-- An update of parts the relation does not speak of. -/
theorem Calm.rest (h : Calm s t) {u : State} (h1 : u.drives = t.drives := by rfl) (h2 : u.watch = t.watch := by rfl)
    (h3 : u.reassign = t.reassign := by rfl) (h4 : u.verify.job = t.verify.job := by rfl) : Calm s u :=
  h.trans ⟨fun d => by rw [State.drive, State.drive, h1]; exact .refl _, by rw [h2]; exact .refl _, by rw [h3], by rw [h3], by rw [h3], h4⟩

theorem Calm.modDrive (h : Calm s t) (d : DriveId) (f : Drive → Drive)
    (hf : Drive.Calm (t.drive d) (f (t.drive d)) := by exact ⟨rfl, rfl, rfl, id, id, Or.inl, id⟩) : Calm s (t.modDrive d f) := by
  refine h.trans ⟨fun e => ?_, .refl _, rfl, rfl, rfl, rfl⟩
  by_cases he : e = d
  · subst he; rw [State.drive_modDrive_self]; exact hf
  · rw [State.drive_modDrive_ne _ _ he]; exact .refl _

theorem Calm.mapDrives (h : Calm s t) (f : Drive → Drive)
    (hf : ∀ x, Drive.Calm x (f x) := by intro _; exact ⟨rfl, rfl, rfl, id, id, Or.inl, id⟩) :
    Calm s { t with drives := t.drives.map f } :=
  h.trans ⟨fun d => by simpa [State.drive] using hf _, .refl _, rfl, rfl, rfl, rfl⟩

theorem Calm.setOp (h : Calm s t) {d : DriveId} {op op' : Op} (hc : t.curTurn d = some op.turn) (ho : op'.turn = op.turn) :
    Calm s (t.setOp d op') :=
  h.modDrive d _ ⟨rfl, rfl, by rw [Option.map_some, ho]; exact hc.symm, id, id, .inl, id⟩

theorem Calm.modOp (h : Calm s t) (d : DriveId) (f : Op → Op) (hf : ∀ op, (f op).turn = op.turn := by intro _; rfl) :
    Calm s (t.modOp d f) :=
  h.modDrive d _ ⟨rfl, rfl, by rw [Option.map_map]; congr 1; funext op; exact hf op, id, id, .inl, id⟩

theorem Calm.modChan (h : Calm s t) (d : DriveId) (f : Channel → Channel) : Calm s (t.modChan d f) := h.modDrive d _

theorem Calm.tallyDrive (h : Calm s t) (d : DriveId) (f : DriveTallies → DriveTallies) : Calm s (t.tallyDrive d f) := h.modDrive d _

theorem Calm.modOrder (h : Calm s t) (n : Nat) (f : Order → Order) : Calm s (t.modOrder n f) := h.rest

theorem Calm.modPort (h : Calm s t) (p : Port) (f : PortCtl → PortCtl) : Calm s (t.modPort p f) := h.rest

theorem Calm.setNotice (h : Calm s t) (d : DriveId) (k : Byte) : Calm s (t.setNotice d k) := h.rest

theorem Calm.close (h : Calm s t) (n : Nat) : Calm s (t.close n) := h.rest

theorem Calm.endOrder (h : Calm s t) (n : Nat) (r : Result) : Calm s (t.endOrder n r) :=
  .ite (fun _ => (h.modOrder n _).close n) fun _ => h

theorem Calm.holdResult (h : Calm s t) (n : Nat) (r : Result) : Calm s (t.holdResult n r) :=
  .ite (fun _ => (h.modOrder n _).close n) fun _ => h

theorem Calm.endOrders (h : Calm s t) (d : DriveId) (q : Order → Bool) (r : Result) : Calm s (t.endOrders d q r) :=
  h.foldl _ (fun _ _ hu => hu.endOrder _ _) _

theorem Calm.endStateOrders (h : Calm s t) (d : DriveId) (k : List OrderKind) (r : Result) : Calm s (t.endStateOrders d k r) :=
  h.endOrders d _ r

theorem Calm.modVerify (h : Calm s t) (f : VerifyEngine → VerifyEngine) (hf : (f t.verify).job = t.verify.job := by rfl) :
    Calm s (t.modVerify f) := h.rest rfl rfl rfl hf

theorem Calm.setPlace (h : Calm s t) (i : Nat) (p : BufPlace) : Calm s (t.setPlace i p) :=
  h.trans ⟨fun _ => .refl _, .refl _, rfl, rfl, rfl, rfl⟩

/-! ## The watch list -/

theorem watchEntry_set_self {w : List WatchSlot} {i : Nat} (h : i < w.length) (e : WatchEntry) :
    watchEntry (w.set i (.entry e)) i = some e := by
  simp [watchEntry, List.getElem?_set_self h]

theorem watchEntry_set_ne {w : List WatchSlot} {i j : Nat} (h : j ≠ i) (x : WatchSlot) :
    watchEntry (w.set i x) j = watchEntry w j := by
  simp [watchEntry, List.getElem?_set_ne (Ne.symm h)]

theorem watchEntry_lt {w : List WatchSlot} {i : Nat} {e : WatchEntry} (h : watchEntry w i = some e) : i < w.length := by
  have := watchEntry_eq h
  exact (List.getElem?_eq_some_iff.mp this).1

/-- A slot that holds no CANDIDATE may take any content. -/
theorem CandidatesKept.set {w : List WatchSlot} {i : Nat} (x : WatchSlot)
    (h : ∀ e, watchEntry w i = some e → e.state ≠ .candidate) : CandidatesKept w (w.set i x) := fun j e hj hc => by
  have hne : j ≠ i := by rintro rfl; exact h e hj hc
  exact ⟨e, by rw [watchEntry_set_ne hne]; exact hj, hc, rfl⟩

/-- An entry gives its place to one of the same drive that is CANDIDATE where it was. -/
theorem CandidatesKept.setEntry {w : List WatchSlot} {i : Nat} {e f : WatchEntry} (hi : watchEntry w i = some e)
    (hs : e.state = .candidate → f.state = .candidate) (hd : f.drive = e.drive) : CandidatesKept w (w.set i (.entry f)) :=
  fun j e' hj hc => by
    by_cases hji : j = i
    · subst hji
      rw [hi] at hj
      cases hj
      exact ⟨f, watchEntry_set_self (watchEntry_lt hi) f, hs hc, hd⟩
    · exact ⟨e', by rw [watchEntry_set_ne hji]; exact hj, hc, rfl⟩

theorem CandidatesKept.map {w : List WatchSlot} (f : WatchSlot → WatchSlot)
    (hf : ∀ e : WatchEntry, e.state = .candidate → f (.entry e) = .entry e) : CandidatesKept w (w.map f) := fun i e hi hc => by
  refine ⟨e, ?_, hc, rfl⟩
  have := watchEntry_eq hi
  simp [watchEntry, this, hf e hc]

theorem Calm.setSlot (h : Calm s t) {i : Nat} {x : WatchSlot} (hw : CandidatesKept t.watch (t.watch.set i x)) :
    Calm s (t.setSlot i x) :=
  h.trans ⟨fun _ => .refl _, hw, rfl, rfl, rfl, rfl⟩

theorem Calm.setWatch (h : Calm s t) {i : Nat} {e : WatchEntry} (hw : CandidatesKept t.watch (t.watch.set i (.entry e))) :
    Calm s (t.setWatch i e) := h.setSlot hw

theorem Calm.candidate (h : Calm s t) {i : Nat} {e : WatchEntry} (c : Cause)
    (hw : ∀ f, watchEntry t.watch i = some f → f.state = .candidate → e.drive = f.drive) : Calm s (t.candidate i e c) := by
  refine (h.setWatch ?_).setNotice _ _
  intro j f hj hc
  by_cases hji : j = i
  · subst hji
    exact ⟨_, watchEntry_set_self (watchEntry_lt hj) _, rfl, hw f hj hc⟩
  · exact ⟨f, by rw [watchEntry_set_ne hji]; exact hj, hc, rfl⟩

/-- The search of the watch list for the entry least by a key finds an entry of the list. -/
theorem leastEntry_mem {w : List WatchSlot} (p : WatchEntry → Prop) [DecidablePred p] (key : WatchEntry → Nat) {b : Nat × Nat}
    (h : w.zipIdx.foldl (fun best x => match x.1 with
      | .entry e =>
        if p e then
          match best with
          | none => some (key e, x.2)
          | some b => if key e < b.1 then some (key e, x.2) else some b
        else best
      | .empty | .reserved => best) none = some b) : ∃ e, watchEntry w b.2 = some e ∧ p e := by
  suffices key : ∀ (l : List (WatchSlot × Nat)) (a : Option (Nat × Nat)), (∀ x ∈ l, w[x.2]? = some x.1) →
      (∀ c, a = some c → ∃ e, watchEntry w c.2 = some e ∧ p e) → ∀ c, l.foldl _ a = some c → ∃ e, watchEntry w c.2 = some e ∧ p e from
    key _ _ (fun x hx => by simpa using List.mem_zipIdx_iff_getElem?.mp hx) (fun _ hc => by cases hc) b h
  intro l
  induction l with
  | nil => exact fun a _ ha c hc => ha c hc
  | cons x l ih =>
    intro a hl ha c hc
    refine ih _ (fun y hy => hl y (List.mem_cons_of_mem _ hy)) ?_ c hc
    have hx := hl x List.mem_cons_self
    intro c' hc'
    obtain ⟨_ | _ | e, i⟩ := x
    · exact ha c' hc'
    · exact ha c' hc'
    · dsimp only at hc' hx
      have hw : watchEntry w i = some e := by simp [watchEntry, hx]
      by_cases he : p e
      · rw [if_pos he] at hc'
        cases a with
        | none => cases hc'; exact ⟨e, hw, he⟩
        | some b =>
          dsimp only at hc'
          split at hc'
          · cases hc'; exact ⟨e, hw, he⟩
          · cases hc'; exact ha c' rfl
      · rw [if_neg he] at hc'
        exact ha c' hc'

theorem earliestCounting_mem {w : List WatchSlot} {b : Nat × Nat} (h : earliestCounting w = some b) :
    ∃ e, watchEntry w b.2 = some e ∧ e.state = .counting :=
  leastEntry_mem (fun e => e.state = .counting) WatchEntry.windowStart h

/-- R120, R124: the slot a new entry takes holds no CANDIDATE. -/
theorem slotForNew_free {w : List WatchSlot} {i : Nat} (h : slotForNew w = some i) (e : WatchEntry)
    (he : watchEntry w i = some e) : e.state ≠ .candidate := by
  unfold slotForNew at h
  split at h
  · next j hj =>
    cases h
    obtain ⟨hlt, hemp, -⟩ := List.findIdx?_eq_some_iff_getElem.mp hj
    have := watchEntry_eq he
    rw [List.getElem?_eq_getElem hlt] at this
    simp_all
  · obtain ⟨b, hb, rfl⟩ := Option.map_eq_some_iff.mp h
    obtain ⟨e', he', hs⟩ := earliestCounting_mem hb
    rw [he'] at he
    cases he
    simp [hs]

theorem Calm.overflowWatch (h : Calm s t) : Calm s t.overflowWatch := h.rest

theorem Calm.recoveredReport (h : Calm s t) (d : DriveId) (k : Track) : Calm s (t.recoveredReport d k) := by
  unfold State.recoveredReport
  refine .ite (fun _ => h) fun _ => ?_
  split
  · split
    · exact h.overflowWatch
    · next i hi =>
      have hfree := slotForNew_free hi
      exact .ite (fun _ => h.candidate _ fun f hf hc => absurd hc (hfree f hf)) fun _ => h.setWatch (.set _ hfree)
  · next i _ =>
    split
    · exact h
    · next e he =>
      refine .ite (fun hc => h.candidate _ fun f hf hcand => ?_) fun _ => h.setWatch (.setEntry he id rfl)
      rw [he] at hf
      cases hf
      rfl

theorem Calm.unrecoveredReport (h : Calm s t) (d : DriveId) (k : Track) : Calm s (t.unrecoveredReport d k) := by
  unfold State.unrecoveredReport
  refine .ite (fun _ => h) fun _ => ?_
  split
  · split
    · exact h.overflowWatch
    · next i hi => exact h.candidate _ fun f hf hc => absurd hc (slotForNew_free hi f hf)
  · split
    · exact h
    · next e he =>
      split
      · exact h.candidate _ fun f hf _ => by rw [he] at hf; cases hf; rfl
      · exact .ite (fun _ => h.setWatch (.setEntry he id rfl)) fun _ => h
      · exact h

theorem Calm.shortfallReport (h : Calm s t) (d : DriveId) (k : Track) : Calm s (t.shortfallReport d k) := by
  unfold State.shortfallReport
  refine .ite (fun _ => h) fun _ => ?_
  split
  · split
    · exact h.overflowWatch
    · next i hi => exact h.candidate _ fun f hf hc => absurd hc (slotForNew_free hi f hf)
  · split
    · exact h
    · next e he => exact .ite (fun _ => h.candidate _ fun f hf _ => by rw [he] at hf; cases hf; rfl) fun _ => h

theorem State.windowPassed_counting {e : WatchEntry} (h : s.windowPassed e = true) : e.state = .counting := by
  simp only [State.windowPassed, Bool.and_eq_true, decide_eq_true_eq] at h
  exact h.1

theorem Calm.expireWatch (h : Calm s t) (i : Nat) : Calm s (t.expireWatch i) := by
  unfold State.expireWatch
  split
  · exact h
  · next e he =>
    refine .ite (fun hp => h.setSlot (.set _ fun f hf => ?_)) fun _ => h
    rw [he] at hf
    cases hf
    simp [State.windowPassed_counting hp]

theorem Calm.expireAll (h : Calm s t) : Calm s t.expireAll :=
  h.trans ⟨fun _ => .refl _, .map _ fun e he => by
    have : t.windowPassed e = false := by
      cases hp : t.windowPassed e
      · rfl
      · rw [State.windowPassed_counting hp] at he; cases he
    simp [this], rfl, rfl, rfl, rfl⟩

/-! ## The staging store and the data path -/

theorem Calm.setRun (h : Calm s t) (l : List RingSlot) : Calm s (t.setRun l) := h.rest

theorem Calm.setWslot (h : Calm s t) (i : Fin 8) (w : WriteSlot) : Calm s (t.setWslot i w) := h.rest

theorem Calm.ringTake (h : Calm s t) (op : Op) : Calm s (t.ringTake op) := .ite (fun _ => h) fun _ => h.setRun _

theorem Calm.ringBack (h : Calm s t) : Calm s t.ringBack := .ite (fun _ => h.setRun _) fun _ => h

theorem Calm.ringGood (h : Calm s t) (p : Payload) : Calm s (t.ringGood p) := by
  unfold State.ringGood
  split
  · exact .ite (fun _ => h.setRun _) fun _ => h
  · exact h

theorem Calm.ringDiscard (h : Calm s t) (l : List Nat) : Calm s (t.ringDiscard l) := h.setRun _

theorem Calm.ringTaken (h : Calm s t) (a b : Nat) : Calm s (t.ringTaken a b) := h.setRun _

theorem Calm.giveSlot (h : Calm s t) (i : Fin 8) (p : Port) (o : Order) : Calm s (t.giveSlot i p o) := h.rest

theorem Calm.freeSlot (h : Calm s t) (i : Fin 8) : Calm s (t.freeSlot i) := by
  unfold State.freeSlot
  dsimp only
  have h0 := h.setWslot i WriteSlot.free
  split
  · exact h0
  · next l _ =>
    have h1 : Calm s { t.setWslot i WriteSlot.free with waitList := l } := h0.rest
    split
    · exact h1
    · next p o _ =>
      split
      · exact (h1.giveSlot i p o).rest
      · exact h1.giveSlot i p o

theorem Calm.freeSlots (h : Calm s t) (l : List Nat) : Calm s (t.freeSlots l) :=
  h.foldl _ (fun _ _ hu => .ite (fun _ => hu.freeSlot _) fun _ => hu) _

theorem Calm.setSlotState (h : Calm s t) (a b : Nat) (st : WriteState) : Calm s (t.setSlotState a b st) := by
  unfold State.setSlotState
  split
  · exact h.setWslot _ _
  · exact h

theorem Calm.leaveWaitList (h : Calm s t) (l : List Nat) : Calm s (t.leaveWaitList l) := h.rest

theorem Calm.leaveQueues (h : Calm s t) (l : List Nat) : Calm s (t.leaveQueues l) := h.mapDrives _

theorem Calm.dropRequests (h : Calm s t) (l : List Nat) : Calm s (t.dropRequests l) := h.rest

theorem Calm.takePlace (h : Calm s t) (op : Op) : Calm s (t.takePlace op) := by
  unfold State.takePlace
  split <;> first | exact h.ringTake _ | exact h.setSlotState _ _ _ | exact h

theorem Calm.giveBack (h : Calm s t) (op : Op) : Calm s (t.giveBack op) := by
  unfold State.giveBack
  split <;> first | exact h.ringBack | exact h.setSlotState _ _ _ | exact h

theorem Calm.setPath (h : Calm s t) (p : DataPath) : Calm s { t with path := p } := h.rest

theorem Calm.release (h : Calm s t) : Calm s t.release := h.rest

theorem Calm.grant (h : Calm s t) (d : DriveId) (op : Op) : Calm s (t.grant d op) :=
  ((h.modDrive d _).takePlace op).setPath _

theorem Calm.countMiss (h : Calm s t) (d : DriveId) (op : Op) : Calm s (t.countMiss d op) := by
  unfold State.countMiss
  split <;> first | exact h.tallyDrive _ _ | exact h

theorem Calm.consider (h : Calm s t) (d : DriveId) (op : Op) : Calm s (t.consider d op) :=
  .ite (fun _ => .ite (fun _ => h.modDrive d _) fun _ => h.countMiss d op) fun _ => h

theorem Calm.planContinuation (h : Calm s t) (d : DriveId) (op : Op) : Calm s (t.planContinuation d op).1 := by
  unfold State.planContinuation
  dsimp only
  split
  · split
    · exact h
    · exact h.countMiss d op
  · exact h

theorem Calm.beginTransfer (h : Calm s t) (d : DriveId) (op : Op) (x : Xfer) : Calm s (t.beginTransfer d op x) := by
  unfold State.beginTransfer
  dsimp only
  refine Calm.setPath (Calm.planContinuation ?_ d op) _
  exact .ite (fun _ => (h.takePlace op).setPath _) fun _ => h

theorem Calm.layDown (h : Calm s t) (d : DriveId) (k : Track) (n : Nat) (f : Frame) : Calm s (t.layDown d k n f) := h.rest

theorem Calm.tear (h : Calm s t) (d : DriveId) (k : Track) (n : Nat) (f : Frame) : Calm s (t.tear d k n f) := h.rest

theorem Calm.cutOff (h : Calm s t) (d : DriveId) : Calm s (t.cutOff d) := by
  unfold State.cutOff
  refine .ite (fun _ => ?_) fun _ => h
  split
  · next op x _ _ =>
    have ht : Calm s (match x.frame with
        | some f => if x.begun then t.tear d op.phys x.sector f else t
        | none => t) := by
      split
      · exact .ite (fun _ => h.tear _ _ _ _) fun _ => h
      · exact h
    exact Calm.release (.ite (fun _ => ht) fun _ => ht.giveBack op)
  · exact h.release

theorem Calm.tearWrite (h : Calm s t) : Calm s t.tearWrite := by
  unfold State.tearWrite
  split
  · exact h.cutOff _
  · exact h

theorem Calm.abandonGrant (h : Calm s t) (op : Op) (x : Xfer) : Calm s (t.abandonGrant op x) :=
  Calm.release (.ite (fun _ => h) fun _ => h.giveBack op)

theorem Calm.cutMapWrite (h : Calm s t) (d : DriveId) (st : MapState) : Calm s (t.cutMapWrite d st) := by
  unfold State.cutMapWrite
  split
  · exact .ite (fun _ => h.modDrive d _) fun _ => h
  · exact h

theorem Calm.afterTransfer (h : Calm s t) (d : DriveId) (x : Xfer) (good : Bool) : Calm s (t.afterTransfer d x good) := by
  unfold State.afterTransfer
  split
  · exact h.release
  · refine .ite (fun _ => ?_) fun _ => h.release
    dsimp only
    split
    · exact h.setPath _
    · exact .ite (fun _ => h.beginTransfer _ _ _) fun _ => h.release

theorem Calm.seekerStart (h : Calm s t) (d : DriveId) (op : Op) (n : Nat) : Calm s (t.seekerStart d op n) :=
  .ite (fun _ => .ite (fun _ => (h.modDrive d _).tallyDrive d _) fun _ => h) fun _ =>
    .ite (fun _ => h.consider d op) fun _ => h

/-! ## The sequencers -/

theorem Calm.noteAttempt (h : Calm s t) (op : Op) : Calm s (t.noteAttempt op) := by
  unfold State.noteAttempt
  split
  · exact h.modOrder _ _
  · exact h

theorem Calm.setFailing (h : Calm s t) (op : Op) : Calm s (t.setFailing op) := h.modOrder _ _

theorem Calm.keepGood (h : Calm s t) (op : Op) (p : Payload) : Calm s (t.keepGood op p) := by
  unfold State.keepGood
  split <;> first | exact h.modOrder _ _ | exact h.setPlace _ _ | exact h

theorem Calm.countRecovered (h : Calm s t) (d : DriveId) (op : Op) : Calm s (t.countRecovered d op) :=
  .ite (fun _ => h) fun _ => .ite (fun _ => (h.tallyDrive d _).recoveredReport d _) fun _ => h.tallyDrive d _

theorem Calm.countUnrecovered (h : Calm s t) (d : DriveId) (op : Op) : Calm s (t.countUnrecovered d op) :=
  .ite (fun _ => (h.tallyDrive d _).unrecoveredReport d _) fun _ => h

theorem Calm.surfaceFailed (h : Calm s t) (op : Op) : Calm s (t.surfaceFailed op) := h.modVerify _

theorem Calm.operationResult (h : Calm s t) (op : Op) (r : Result) : Calm s (t.operationResult op r) :=
  .ite (fun _ => h.holdResult _ _) fun _ => h.endOrder _ _

theorem Calm.endWaiting (h : Calm s t) (d : DriveId) (k : Track) (r : Result) : Calm s (t.endWaiting d k r) := h.endOrders d _ r

theorem Calm.countReassignFailure (h : Calm s t) (d : DriveId) : Calm s (t.countReassignFailure d) :=
  (h.tallyDrive d _).setNotice d _

theorem Calm.bindCommits (h : Calm s t) (d : DriveId) : Calm s (t.bindCommits d) :=
  h.foldl _ (fun _ _ hu => hu.modOrder _ _) _

theorem Calm.passOver (h : Calm s t) (es : List (Port × Order)) (n : Nat) : Calm s (t.passOver es n) :=
  h.foldl _ (fun _ _ hu => hu.modOrder _ _) _

theorem Calm.recalFor (h : Calm s t) (d : DriveId) (n : Option Nat) : Calm s (t.recalFor d n) := by
  unfold State.recalFor
  refine .ite (fun _ => h.modOp d _) fun _ => ?_
  split
  · exact h
  · exact (h.modChan d _).modOp d _

theorem Calm.beginSeek (h : Calm s t) (d : DriveId) (n : Nat) (g : Goal) : Calm s (t.beginSeek d n g) :=
  ((h.modDrive d _).tallyDrive d _).modOp d _

theorem State.reachTransfer_eq {d : DriveId} {op : Op} (h : (t.drive d).cur = some op) (hk : op.kind ≠ .seek) :
    t.reachTransfer d = t.modDrive d fun x => { x with headSel := op.phys.head, cur := some { op with stage := .transfer } } := by
  simp [State.reachTransfer, h, hk]

/-- An operation other than a SEEK goes on to its sector and stays current. -/
theorem Calm.reachTransfer (h : Calm s t) {d : DriveId} (hk : ∀ op, (t.drive d).cur = some op → op.kind ≠ .seek) :
    Calm s (t.reachTransfer d) := by
  cases hc : (t.drive d).cur with
  | none => simpa [State.reachTransfer, hc] using h
  | some op =>
    rw [State.reachTransfer_eq hc (hk op hc)]
    exact h.modDrive d _ ⟨rfl, rfl, by rw [hc]; rfl, id, id, .inl, id⟩

theorem Calm.seekTo (h : Calm s t) {d : DriveId} (n : Nat) (hk : ∀ op, (t.drive d).cur = some op → op.kind ≠ .seek) :
    Calm s (t.seekTo d n) := by
  unfold State.seekTo
  refine .ite (fun _ => h.modOp d _) fun _ => .ite (fun _ => .ite (fun _ => ?_) fun _ => h.beginSeek _ _ _) fun _ => h.recalFor _ _
  refine (h.modChan d _).reachTransfer fun op hc => hk op ?_
  simpa [State.modChan] using hc

theorem Calm.makeWaiting (h : Calm s t) {d : DriveId} (m : Motion) (hk : ∀ op, (t.drive d).cur = some op → op.kind ≠ .seek) :
    Calm s (t.makeWaiting d m) := by
  unfold State.makeWaiting
  split
  · exact h.seekTo _ hk
  · exact h.recalFor _ _

/-! ## The map of a drive -/

theorem Drive.Calm.mapChanged (x : Drive) : Drive.Calm x x.mapChanged :=
  ⟨rfl, rfl, rfl, id, id, fun h => by simpa [Drive.mapChanged] using h, id⟩

theorem Drive.Calm.markTrack (x : Drive) (k : Track) (st : PoolState) : Drive.Calm x (x.markTrack k st) := by
  unfold Drive.markTrack; split <;> exact ⟨rfl, rfl, rfl, id, id, .inl, id⟩

theorem Drive.Calm.releaseTrack (x : Drive) (k : Track) : Drive.Calm x (x.releaseTrack k) := by
  unfold Drive.releaseTrack
  split
  · exact .refl x
  · split <;> exact ⟨rfl, rfl, rfl, id, id, .inl, id⟩

theorem Drive.Calm.modEntry (x : Drive) (k : Track) (f : SpareEntry → SpareEntry) : Drive.Calm x (x.modEntry k f) :=
  ⟨rfl, rfl, rfl, id, id, .inl, id⟩

theorem Drive.Calm.dropEntry (x : Drive) (k : Track) : Drive.Calm x (x.dropEntry k) := ⟨rfl, rfl, rfl, id, id, .inl, id⟩

theorem Drive.Calm.addEntry (x : Drive) (k a : Track) (p : Bool) (o : Origin) : Drive.Calm x (x.addEntry k a p o) := by
  unfold Drive.addEntry; split <;> exact ⟨rfl, rfl, rfl, id, id, .inl, id⟩

theorem Drive.Calm.beginSparing (x : Drive) (k : Track) (n : Nat) : Drive.Calm x (x.beginSparing k n) := by
  unfold Drive.beginSparing
  dsimp only
  split
  · exact (markTrack x _ _).trans (addEntry _ _ _ _ _)
  · exact (markTrack x _ _).trans (modEntry _ _ _)

theorem Drive.Calm.killTrial (x : Drive) (k : Track) : Drive.Calm x (x.killTrial k) := by
  unfold Drive.killTrial
  split
  · exact .refl x
  · exact markTrack x _ _

theorem Drive.Calm.nextTrial (x : Drive) (k : Track) (n : Nat) : Drive.Calm x (x.nextTrial k n) :=
  (markTrack x _ _).trans (modEntry _ _ _)

theorem Drive.Calm.sparingDone (x : Drive) (k : Track) (o : Origin) : Drive.Calm x (x.sparingDone k o) := by
  unfold Drive.sparingDone
  split
  · exact .refl x
  · split
    · exact modEntry x _ _
    · exact (markTrack x _ _).trans (modEntry _ _ _)

theorem Drive.Calm.sparingUndone (x : Drive) (k : Track) : Drive.Calm x (x.sparingUndone k) := by
  unfold Drive.sparingUndone
  split
  · exact .refl x
  · split
    · split
      · exact (releaseTrack x _).trans (dropEntry _ _)
      · exact (releaseTrack x _).trans (modEntry _ _ _)
    · exact .refl x

theorem Drive.Calm.spareByVerify (x : Drive) (k : Track) (n : Nat) : Drive.Calm x (x.spareByVerify k n) := by
  unfold Drive.spareByVerify
  dsimp only
  split
  · exact (markTrack x _ _).trans (addEntry _ _ _ _ _)
  · exact ((markTrack x _ _).trans (markTrack _ _ _)).trans (modEntry _ _ _)

theorem Drive.Calm.storeEntry (x : Drive) (e : SpareEntry) : Drive.Calm x (x.storeEntry e) := by
  have key : ∀ y : Drive, Drive.Calm x y → Drive.Calm x { y.markTrack e.alt .inUse with spare := putEntry x.spare e } :=
    fun y hy => (hy.trans (markTrack y _ _)).trans ⟨rfl, rfl, rfl, id, id, .inl, id⟩
  refine key _ ?_
  split
  · split
    · exact .refl x
    · exact markTrack x _ _
  · exact .refl x

theorem Drive.Calm.removeSlot (x : Drive) (e : SpareEntry) : Drive.Calm x (x.removeSlot e) := by
  have h : Drive.Calm (x.markTrack e.alt .free) (x.removeSlot e) := ⟨rfl, rfl, rfl, id, id, .inl, id⟩
  exact (markTrack x _ _).trans h

theorem Drive.Calm.putSlot (x : Drive) (i : Nat) (b : List Byte) : Drive.Calm x (x.putSlot i b) := by
  unfold Drive.putSlot
  split
  · exact .refl x
  · exact (removeSlot x _).trans (mapChanged _)
  · split
    · exact .refl x
    · exact (storeEntry x _).trans (mapChanged _)

theorem Drive.Calm.putPool (x : Drive) (i : Nat) (st : PoolState) : Drive.Calm x (x.putPool i st) := by
  unfold Drive.putPool
  split
  · exact .refl x
  · have h : Drive.Calm x { x with pool := x.pool.set i st } := ⟨rfl, rfl, rfl, id, id, .inl, id⟩
    exact h.trans (mapChanged _)

end Sys2Proof.Machine
end

section
/-! The laws of the turns (R8, R126, R127, R139) through the operations of the part. -/

namespace Sys2Proof.Machine

-- One declaration after the other: in parallel the one compile of the whole text runs out of threads.
set_option Elab.async false

variable {a b c : Prop} {x y : Option DriveId} {s t u : State} {d : DriveId}

/-! ## The laws, with a drive excused -/

/-- R9, R17, R19: the drive states of a drive whose geometry is unset. -/
def restStates : List DriveState := [.absent, .waitingSpin, .spinningUp, .notReady, .fenced]

/-- The law of the reassignment engine, but that the REASSIGN current on drive `x` may have lost the engine. -/
structure State.engineBut (s : State) (x : Option DriveId) : Prop where
  geometry : ∀ d, (s.drive d).geom = none → (s.drive d).state ∈ restStates ∧ (s.drive d).cur = none ∧
    (s.drive d).pendRecal = false ∧ (s.drive d).pendLoad = false ∧ (s.drive d).pendWrite = false
  queued : ∀ d, (s.drive d).pendReassign = true → (s.drive d).geom.isSome = true ∧ (s.drive d).state ≠ .fenced ∧
    s.reassign.state = .taken ∧
    ∃ i e, s.reassign.slot = some i ∧ watchEntry s.watch i = some e ∧ e.state = .candidate ∧ e.drive = d
  current : ∀ d op, (s.drive d).cur = some op → op.kind = .reassign → op.ended = false → x ≠ some d →
    s.reassign.state = .copying ∧ s.reassign.held.map WatchEntry.drive = some d
  surface : ∀ d op, (s.drive d).cur = some op → op.kind = .surface → op.pass ≠ .read ∨ s.destructive = true →
    s.destructive = true ∧ (s.drive d).state = .fenced

theorem State.engineBut_none : s.engineBut none ↔ s.engineLaw := by
  have held : ∀ d, s.reassign.held.map WatchEntry.drive = some d ↔ ∃ e, s.reassign.held = some e ∧ e.drive = d := fun d =>
    Option.map_eq_some_iff
  constructor
  · intro h
    exact ⟨h.geometry, h.queued, fun d op h1 h2 h3 => (h.current d op h1 h2 h3 (by simp)).imp id (held d).mp, h.surface⟩
  · intro h
    exact ⟨h.geometry, h.queued, fun d op h1 h2 h3 _ => (h.current d op h1 h2 h3).imp id (held d).mpr, h.surface⟩

/-- The laws of the turns, each under the condition that it is asked for: that of the spin-up turn, that of the verify engine, and
the two engines' together. -/
structure Turned (a b c : Prop) (x : Option DriveId) (s : State) : Prop where
  spin : a → s.spinLaw
  verify : b ∨ c → s.verifyLaw
  engine : c → s.engineBut x

/-- A REASSIGN is under way on the drive. -/
def State.copies (s : State) (d : DriveId) : Prop := ∃ op, (s.drive d).cur = some op ∧ op.kind = .reassign ∧ op.ended = false

/-- No REASSIGN is queued. -/
def State.noneQueued (s : State) : Prop := ∀ d, (s.drive d).pendReassign = false

theorem State.engineBut.noneQueued (h : s.engineBut x) (hs : s.reassign.state ≠ .taken) : s.noneQueued := fun d => by
  cases hp : (s.drive d).pendReassign
  · rfl
  · exact absurd (h.queued d hp).2.2.1 hs

theorem Turned.geom_of_cur (h : Turned a b c x t) (hc : (t.drive d).cur ≠ none) : c → (t.drive d).geom ≠ none :=
  fun h' hg => hc ((h.engine h').geometry d hg).2.1

theorem Turned.geom_of_state (h : Turned a b c x t) (hs : (t.drive d).state ∉ restStates) : c → (t.drive d).geom ≠ none :=
  fun h' hg => hs ((h.engine h').geometry d hg).1

/-- The law with no drive excused is the law with any drive excused. -/
theorem Turned.excuse (h : Turned a b c none t) (x : Option DriveId) : Turned a b c x t :=
  ⟨h.spin, h.verify, fun h' => have e := h.engine h'
    ⟨e.geometry, e.queued, fun d op h1 h2 h3 _ => e.current d op h1 h2 h3 (by simp), e.surface⟩⟩

theorem Turned.ite {p : Prop} [Decidable p] {v w : State} (hv : p → Turned a b c x v) (hw : ¬p → Turned a b c x w) :
    Turned a b c x (if p then v else w) := by split <;> rename_i hp <;> [exact hv hp; exact hw hp]

theorem Turned.foldl {α : Type} (f : State → α → State) (hf : ∀ v i, Turned a b c x v → Turned a b c x (f v i)) (l : List α)
    (h : Turned a b c x t) : Turned a b c x (l.foldl f t) := by
  induction l generalizing t with
  | nil => exact h
  | cons i l ih => exact ih (hf _ _ h)

/-! ## Calm updates -/

theorem Calm.cur_back (k : Calm s t) {op' : Op} (h : (t.drive d).cur = some op') :
    ∃ op, (s.drive d).cur = some op ∧ op.turn = op'.turn := by
  have hk := k.curTurn d
  rw [State.curTurn_of h] at hk
  exact Option.map_eq_some_iff.mp hk.symm

theorem Calm.cur_on (k : Calm s t) {op : Op} (h : (s.drive d).cur = some op) :
    ∃ op', (t.drive d).cur = some op' ∧ op'.turn = op.turn := by
  have hk := k.curTurn d
  rw [State.curTurn_of h] at hk
  exact Option.map_eq_some_iff.mp hk

theorem Op.turn_fields {op op' : Op} (h : op.turn = op'.turn) :
    op.kind = op'.kind ∧ op.oid = op'.oid ∧ op.pass = op'.pass ∧ op.ended = op'.ended := by
  simpa [Op.turn] using h

theorem Calm.verifyLaw (k : Calm s t) (h : s.verifyLaw) : t.verifyLaw := by
  refine ⟨fun j hj => ?_, fun d op hop hk => ?_⟩
  · rw [k.job] at hj
    obtain ⟨op, hop, hkind, hoid⟩ := h.1 j hj
    obtain ⟨op', hop', ht⟩ := k.cur_on hop
    obtain ⟨h1, h2, -, -⟩ := Op.turn_fields ht
    exact ⟨op', hop', h1.trans hkind, h2.trans hoid⟩
  · obtain ⟨op0, hop0, ht⟩ := k.cur_back hop
    obtain ⟨h1, h2, -, -⟩ := Op.turn_fields ht
    rw [k.job, ← h2]
    exact h.2 d op0 hop0 (h1.trans hk)

theorem Calm.engineBut (k : Calm s t) (h : s.engineBut x) : t.engineBut x where
  geometry d hg := by
    rw [k.geom] at hg
    obtain ⟨hst, hcur, hr, hl, hw⟩ := h.geometry d hg
    have hd := k.drive d
    refine ⟨hd.state ▸ hst, State.cur_none_iff.mpr (by rw [k.curTurn, ← State.cur_none_iff]; exact hcur),
      Bool.eq_false_iff.mpr fun hp => ?_, Bool.eq_false_iff.mpr fun hp => ?_, Bool.eq_false_iff.mpr fun hp => ?_⟩
    · simp [hd.recal hp] at hr
    · simp [hd.load hp] at hl
    · rcases hd.write hp with hp | hp
      · simp [hp] at hw
      · simp [hp, restStates] at hst
  queued d hp := by
    obtain ⟨hg, hst, hen, i, e, hslot, hw, hcand, hdr⟩ := h.queued d ((k.drive d).reassign hp)
    obtain ⟨e', hw', hcand', hdr'⟩ := k.watch i e hw hcand
    exact ⟨by rw [k.geom]; exact hg, by rw [k.state]; exact hst, k.engine.trans hen, i, e', k.slot.trans hslot, hw', hcand', hdr'.trans hdr⟩
  current d op hop hk he hx := by
    obtain ⟨op0, hop0, ht⟩ := k.cur_back hop
    obtain ⟨h1, -, -, h4⟩ := Op.turn_fields ht
    rw [k.engine, k.held]
    exact h.current d op0 hop0 (h1.trans hk) (h4.trans he) hx
  surface d op hop hk hp := by
    obtain ⟨op0, hop0, ht⟩ := k.cur_back hop
    obtain ⟨h1, -, h3, -⟩ := Op.turn_fields ht
    rw [k.destructive] at hp ⊢
    rw [k.state]
    exact h.surface d op0 hop0 (h1.trans hk) (h3 ▸ hp)

theorem Turned.calm (h : Turned a b c x s) (k : Calm s t) : Turned a b c x t :=
  ⟨fun h' d e hd he => h.spin h' d e (by rw [← k.state]; exact hd) (by rw [← k.state]; exact he), fun h' => k.verifyLaw (h.verify h'),
   fun h' => k.engineBut (h.engine h')⟩

/-! ## The current operation -/

theorem State.drive_modDrive (s : State) (d e : DriveId) (f : Drive → Drive) :
    (s.modDrive d f).drive e = if e = d then f (s.drive e) else s.drive e := by
  split
  · next h => subst h; exact State.drive_modDrive_self s e f
  · next h => exact State.drive_modDrive_ne s f h

theorem State.drive_clearOp (s : State) (d e : DriveId) :
    (s.clearOp d).drive e = if e = d then { s.drive e with cur := none, request := false } else s.drive e := by
  unfold State.clearOp
  dsimp only
  rw [State.drive_modDrive]
  have hv : ∀ n, (s.closeVerify n).drive e = s.drive e := fun n => rfl
  split <;> (split <;> [split; skip]) <;> simp [hv]

theorem State.job_clearOp (s : State) (d : DriveId) :
    (s.clearOp d).verify.job = if (∃ op, (s.drive d).cur = some op ∧ op.kind = .surface) then none else s.verify.job := by
  unfold State.clearOp
  dsimp only
  split
  · next op hop =>
    split
    · next hk => rw [if_pos ⟨op, hop, hk⟩]; rfl
    · next hk =>
      rw [if_neg]
      · rfl
      · rintro ⟨op', hop', hk'⟩
        rw [hop] at hop'
        cases hop'
        exact hk hk'
  · next hop =>
    rw [if_neg]
    · rfl
    · rintro ⟨op', hop', -⟩
      rw [hop] at hop'
      cases hop'

theorem State.watch_clearOp (s : State) (d : DriveId) : (s.clearOp d).watch = s.watch := congrArg Prod.fst (s.sparing_clearOp d)

theorem State.reassign_clearOp (s : State) (d : DriveId) : (s.clearOp d).reassign = s.reassign :=
  congrArg Prod.snd (s.sparing_clearOp d)

theorem State.verifyLaw.clearOp (h : s.verifyLaw) (d : DriveId) : (s.clearOp d).verifyLaw := by
  refine ⟨fun j hj => ?_, fun e op hop hk => ?_⟩
  · rw [State.job_clearOp] at hj
    split at hj
    · cases hj
    · next hno =>
      obtain ⟨op, hop, hk, ho⟩ := h.1 j hj
      have hne : j.drive ≠ d := by rintro rfl; exact hno ⟨op, hop, hk⟩
      exact ⟨op, by rw [State.drive_clearOp, if_neg hne]; exact hop, hk, ho⟩
  · rw [State.drive_clearOp] at hop
    split at hop
    · cases hop
    · next hne =>
      obtain ⟨j, hj, hd, ho⟩ := h.2 e op hop hk
      refine ⟨j, ?_, hd, ho⟩
      rw [State.job_clearOp, if_neg]
      · exact hj
      · rintro ⟨op', hop', hk'⟩
        obtain ⟨j', hj', hd', -⟩ := h.2 d op' hop' hk'
        rw [hj] at hj'
        cases hj'
        exact hne (hd.symm.trans hd')

/-- The end of a drive's operation keeps the laws, and that drive needs no excuse after it. -/
theorem Turned.clearOp_but (h : Turned a b c x t) (d : DriveId) (hx : ∀ e, x = some e → y = some e ∨ e = d) :
    Turned a b c y (t.clearOp d) := by
  have hst : ∀ e, ((t.clearOp d).drive e).state = (t.drive e).state := fun e => by rw [State.drive_clearOp]; split <;> rfl
  refine ⟨fun h' d1 d2 h1 h2 => h.spin h' d1 d2 (hst d1 ▸ h1) (hst d2 ▸ h2), fun h' => (h.verify h').clearOp d, fun h' => ?_⟩
  have e := h.engine h'
  refine ⟨fun d1 hg => ?_, fun d1 hp => ?_, fun d1 op hop hk he hy => ?_, fun d1 op hop hk hp => ?_⟩
  · rw [State.drive_clearOp] at hg ⊢
    split at hg
    · next h1 => subst h1; rw [if_pos rfl]; exact ⟨(e.geometry d1 hg).1, rfl, (e.geometry d1 hg).2.2⟩
    · next h1 => rw [if_neg h1]; exact e.geometry d1 hg
  · rw [State.watch_clearOp, State.reassign_clearOp]
    have hp' : (t.drive d1).pendReassign = true := by rw [State.drive_clearOp] at hp; split at hp <;> exact hp
    have hg' : ((t.clearOp d).drive d1).geom = (t.drive d1).geom := by rw [State.drive_clearOp]; split <;> rfl
    rw [hg', hst]
    exact e.queued d1 hp'
  · rw [State.reassign_clearOp]
    rw [State.drive_clearOp] at hop
    split at hop
    · cases hop
    · next h1 =>
      refine e.current d1 op hop hk he fun hx' => ?_
      rcases hx d1 hx' with h2 | h2
      · exact hy h2
      · exact h1 h2
  · rw [State.drive_clearOp] at hop
    split at hop
    · cases hop
    · next h1 =>
      have hdes : (t.clearOp d).destructive = t.destructive := by
        obtain ⟨j, hj, hjd, -⟩ := (h.verify (.inr h')).2 d1 op hop hk
        rw [State.destructive, State.destructive, State.job_clearOp, if_neg]
        rintro ⟨op', hop', hk'⟩
        obtain ⟨j', hj', hjd', -⟩ := (h.verify (.inr h')).2 d op' hop' hk'
        rw [hj] at hj'
        cases hj'
        exact h1 (hjd.symm.trans hjd')
      rw [hdes] at hp ⊢
      rw [hst]
      exact e.surface d1 op hop hk hp

theorem Turned.clearOp (h : Turned a b c x t) (d : DriveId) : Turned a b c x (t.clearOp d) := h.clearOp_but d fun _ he => .inl he

/-- A drive excused is so no longer once nothing is current on it. -/
theorem Turned.clearOp_self (h : Turned a b c (some d) t) : Turned a b c none (t.clearOp d) :=
  h.clearOp_but d fun e he => .inr (by cases he; rfl)

theorem State.cur_clearOp (s : State) (d : DriveId) : ((s.clearOp d).drive d).cur = none := by
  rw [State.drive_clearOp, if_pos rfl]

theorem State.geom_clearOp (s : State) (d e : DriveId) : ((s.clearOp d).drive e).geom = (s.drive e).geom := by
  rw [State.drive_clearOp]; split <;> rfl

/-- An operation that goes on as one of its kind and order; a SURFACE VERIFY changes to a pass that writes or reads back only in a
destructive verification. -/
structure Op.Follows (destructive : Bool) (op op' : Op) : Prop where
  kind : op'.kind = op.kind
  oid : op'.oid = op.oid
  ended : op'.ended = false → op.ended = false
  pass : op.kind = .surface → op'.pass ≠ .read → op.pass ≠ .read ∨ destructive = true

/-- The current operation of a drive gives its place to one that follows it. -/
theorem Turned.follow (h : Turned a b c x t) {op op' : Op} (hop : (t.drive d).cur = some op) (hf : op.Follows t.destructive op')
    (f : Drive → Drive) (hcur : (f (t.drive d)).cur = some op')
    (hrest : Drive.Calm { t.drive d with cur := none } { f (t.drive d) with cur := none }) : Turned a b c x (t.modDrive d f) := by
  have back : ∀ e op1, ((t.modDrive d f).drive e).cur = some op1 → ∃ op2, (t.drive e).cur = some op2 ∧ op2.Follows t.destructive op1 := by
    intro e op1 h1
    rw [State.drive_modDrive] at h1
    split at h1
    · next he => subst he; rw [hcur] at h1; cases h1; exact ⟨op, hop, hf⟩
    · exact ⟨op1, h1, rfl, rfl, id, fun _ => .inl⟩
  have rest : ∀ e, Drive.Calm { t.drive e with cur := none } { (t.modDrive d f).drive e with cur := none } := fun e => by
    rw [State.drive_modDrive]
    split
    · next he => subst he; exact hrest
    · exact .refl _
  refine ⟨fun h' d1 d2 h1 h2 => h.spin h' d1 d2 ((rest d1).state ▸ h1) ((rest d2).state ▸ h2),
    fun h' => ⟨fun j hj => ?_, fun e op1 h1 h2 => ?_⟩, fun h' => ?_⟩
  · obtain ⟨op1, hop1, hk1, ho1⟩ := (h.verify h').1 j hj
    by_cases hjd : j.drive = d
    · rw [hjd] at hop1 ⊢
      rw [hop] at hop1
      cases hop1
      exact ⟨op', by rw [State.drive_modDrive_self]; exact hcur, hf.kind.trans hk1, hf.oid.trans ho1⟩
    · exact ⟨op1, by rw [State.drive_modDrive_ne _ _ hjd]; exact hop1, hk1, ho1⟩
  · obtain ⟨op2, hop2, hf2⟩ := back e op1 h1
    obtain ⟨j, hj, hd, ho⟩ := (h.verify h').2 e op2 hop2 (hf2.kind.symm.trans h2)
    exact ⟨j, hj, hd, ho.trans hf2.oid.symm⟩
  have e := h.engine h'
  refine ⟨fun d1 hg => ?_, fun d1 hp => ?_, fun d1 op1 h1 h2 h3 hx => ?_, fun d1 op1 h1 h2 h3 => ?_⟩
  · have r := rest d1
    obtain ⟨g1, g2, g3, g4, g5⟩ := e.geometry d1 (r.geom ▸ hg)
    refine ⟨r.state ▸ g1, ?_, Bool.eq_false_iff.mpr fun hp => ?_, Bool.eq_false_iff.mpr fun hp => ?_, Bool.eq_false_iff.mpr fun hp => ?_⟩
    · cases h1 : ((t.modDrive d f).drive d1).cur with
      | none => rfl
      | some op1 =>
        obtain ⟨op2, hop2, -⟩ := back d1 op1 h1
        rw [g2] at hop2
        cases hop2
    · have hr : (t.drive d1).pendRecal = true := r.recal hp
      simp [hr] at g3
    · have hr : (t.drive d1).pendLoad = true := r.load hp
      simp [hr] at g4
    · have hr : (t.drive d1).pendWrite = true ∨ (t.drive d1).state = .ready := r.write hp
      rcases hr with hr | hr
      · simp [hr] at g5
      · simp [hr, restStates] at g1
  · have hr : (t.drive d1).pendReassign = true := (rest d1).reassign hp
    obtain ⟨q1, q2, q3⟩ := e.queued d1 hr
    exact ⟨by rw [show ((t.modDrive d f).drive d1).geom = (t.drive d1).geom from (rest d1).geom]; exact q1,
      by rw [show ((t.modDrive d f).drive d1).state = (t.drive d1).state from (rest d1).state]; exact q2, q3⟩
  · obtain ⟨op2, hop2, hf2⟩ := back d1 op1 h1
    exact e.current d1 op2 hop2 (hf2.kind.symm.trans h2) (hf2.ended h3) hx
  · obtain ⟨op2, hop2, hf2⟩ := back d1 op1 h1
    have hk2 : op2.kind = .surface := hf2.kind.symm.trans h2
    rw [show ((t.modDrive d f).drive d1).state = (t.drive d1).state from (rest d1).state]
    exact e.surface d1 op2 hop2 hk2 (h3.elim (hf2.pass hk2) .inr)

/-- An operation of the kind, order and course of the current one takes its place. -/
theorem Turned.setOp (h : Turned a b c x t) {op op' : Op} (hc : t.curTurn d = some op.turn) (hf : op.Follows t.destructive op') :
    Turned a b c x (t.setOp d op') := by
  obtain ⟨op0, hop0, hturn⟩ := Option.map_eq_some_iff.mp hc
  obtain ⟨k0, o0, p0, e0⟩ := Op.turn_fields hturn
  refine h.follow hop0 ⟨hf.kind.trans k0.symm, hf.oid.trans o0.symm, fun he => e0.trans (hf.ended he), fun hk hp => ?_⟩ _ rfl (.refl _)
  rw [p0]
  exact hf.pass (k0.symm.trans hk) hp

theorem Turned.setOp_same (h : Turned a b c x t) {op op' : Op} (hc : t.curTurn d = some op.turn) (ho : op'.turn = op.turn) :
    Turned a b c x (t.setOp d op') := h.calm ((Calm.refl t).setOp hc ho)

@[simp] theorem State.curTurn_setOp (s : State) (d : DriveId) (op : Op) : (s.setOp d op).curTurn d = some op.turn := by
  simp [State.curTurn]

/-- R80: an operation is to end with its transfer. -/
theorem Turned.endsWithTransfer (h : Turned a b c x t) (d : DriveId) :
    Turned a b c x (t.modDrive d fun x => { x with cur := x.cur.map fun op => { op with ended := true }, request := false }) := by
  cases hc : (t.drive d).cur with
  | none => exact h.calm ((Calm.refl t).modDrive d _ ⟨rfl, rfl, by rw [hc]; rfl, id, id, .inl, id⟩)
  | some op =>
    exact h.follow hc (op' := { op with ended := true }) ⟨rfl, rfl, nofun, fun _ => .inl⟩ _ (by simp [hc])
      ⟨rfl, rfl, rfl, id, id, .inl, id⟩

theorem Turned.windDown (h : Turned a b c x t) (d : DriveId) : Turned a b c x (t.windDown d) := by
  unfold State.windDown
  refine .ite (fun _ => ?_) fun _ => h.clearOp d
  have h1 := h.endsWithTransfer d
  dsimp only
  split
  · exact .ite (fun _ => (h1.calm (Calm.refl _).release).clearOp d) fun _ => h1.calm ((Calm.refl _).setPath _)
  · exact h1

theorem Turned.stopOps (h : Turned a b c x t) (l : List Nat) (soft : Bool) : Turned a b c x (t.stopOps l soft) := by
  refine h.foldl _ (fun v e hv => ?_) _
  split
  · exact .ite (fun _ => .ite (fun _ => hv.calm ((Calm.refl v).modOp e _)) fun _ => hv.windDown e) fun _ => hv
  · exact hv

/-- R91, R97, R117: orders that end together. -/
theorem Turned.endTogether (h : Turned a b c x t) (l : List Nat) (r : Result) (soft : Bool) :
    Turned a b c x (t.endTogether l r soft) := by
  have k : Calm t ((((l.foldl (fun s n => s.endOrder n r) t).leaveWaitList l).leaveQueues l).ringDiscard l |>.dropRequests l) :=
    (((((Calm.refl t).foldl _ (fun _ _ hu => hu.endOrder _ _) l).leaveWaitList l).leaveQueues l).ringDiscard l).dropRequests l
  exact ((h.calm k).stopOps l soft).calm ((Calm.refl _).freeSlots l)

/-! ## The motion an operation asks for -/

theorem Turned.reachTransfer (h : Turned a b c x t) (d : DriveId) : Turned a b c x (t.reachTransfer d) := by
  by_cases hk : ∀ op, (t.drive d).cur = some op → op.kind ≠ .seek
  · exact h.calm ((Calm.refl t).reachTransfer hk)
  · push Not at hk
    obtain ⟨op, hop, hk⟩ := hk
    have k : Calm t (t.modDrive d fun x => { x with headSel := op.phys.head, cur := some { op with stage := .transfer } }) :=
      (Calm.refl t).modDrive d _ ⟨rfl, rfl, by rw [hop]; rfl, id, id, .inl, id⟩
    have he : t.reachTransfer d = ((t.modDrive d fun x =>
        { x with headSel := op.phys.head, cur := some { op with stage := .transfer } }).clearOp d).endOrder op.oid .complete := by
      simp [State.reachTransfer, hop, hk]
    rw [he]
    exact ((h.calm k).clearOp d).calm ((Calm.refl _).endOrder _ _)

theorem Turned.recalFor (h : Turned a b c x t) (d : DriveId) (n : Option Nat) : Turned a b c x (t.recalFor d n) :=
  h.calm ((Calm.refl t).recalFor d n)

theorem Turned.seekTo (h : Turned a b c x t) (d : DriveId) (n : Nat) : Turned a b c x (t.seekTo d n) := by
  unfold State.seekTo
  have k := Calm.refl t
  refine .ite (fun _ => h.calm (k.modOp d _)) fun _ => .ite (fun _ => .ite (fun _ => ?_) fun _ => h.calm (k.beginSeek d n _)) fun _ =>
    h.recalFor d _
  exact (h.calm (k.modChan d _)).reachTransfer d

theorem Turned.makeWaiting (h : Turned a b c x t) (d : DriveId) (m : Motion) : Turned a b c x (t.makeWaiting d m) := by
  unfold State.makeWaiting
  split
  · exact h.seekTo d _
  · exact h.recalFor d _

theorem Turned.moveToTrack (h : Turned a b c x t) {op op' : Op} (n : Nat) (hc : t.curTurn d = some op.turn)
    (hf : op.Follows t.destructive op') : Turned a b c x (t.moveToTrack d n op') :=
  .ite (fun _ => (h.setOp hc hf).reachTransfer d) fun _ => (h.setOp hc hf).seekTo d _

/-! ## Entries to drive states -/

/-- A drive changes its state or its pending operations with its current operation as it was. -/
theorem Turned.change (h : Turned a b c x t) (f : Drive → Drive) (hcur : (f (t.drive d)).cur = (t.drive d).cur)
    (hspin : (f (t.drive d)).state = .spinningUp → (t.drive d).state = .spinningUp ∨ ∀ e, (t.drive e).state ≠ .spinningUp)
    (hgeom : c → (f (t.drive d)).geom = none → (t.drive d).geom = none ∧ (f (t.drive d)).state ∈ restStates ∧
      (f (t.drive d)).pendRecal = false ∧ (f (t.drive d)).pendLoad = false ∧ (f (t.drive d)).pendWrite = false)
    (hqueue : c → (f (t.drive d)).pendReassign = true → (f (t.drive d)).geom.isSome = true ∧ (f (t.drive d)).state ≠ .fenced ∧
      t.reassign.state = .taken ∧
      ∃ i e, t.reassign.slot = some i ∧ watchEntry t.watch i = some e ∧ e.state = .candidate ∧ e.drive = d)
    (hsurf : (t.drive d).cur = none ∨ (t.drive d).state ≠ .fenced ∨ (f (t.drive d)).state = .fenced) :
    Turned a b c x (t.modDrive d f) := by
  have cur : ∀ e, ((t.modDrive d f).drive e).cur = (t.drive e).cur := fun e => by
    rw [State.drive_modDrive]
    split
    · next he => rw [he, hcur]
    · rfl
  refine ⟨fun h' d1 d2 h1 h2 => ?_, fun h' => ?_, fun h' => ?_⟩
  · rw [State.drive_modDrive] at h1 h2
    split at h1 <;> split at h2
    · next e1 e2 => exact e1.trans e2.symm
    · next e1 e2 => exact (hspin (e1 ▸ h1)).elim (fun hd => e1.trans (h.spin h' d d2 hd h2)) fun hno => absurd h2 (hno d2)
    · next e1 e2 => exact (hspin (e2 ▸ h2)).elim (fun hd => (h.spin h' d1 d h1 hd).trans e2.symm) fun hno => absurd h1 (hno d1)
    · exact h.spin h' d1 d2 h1 h2
  · obtain ⟨v1, v2⟩ := h.verify h'
    exact ⟨fun j hj => by rw [cur]; exact v1 j hj, fun e op h1 => by rw [cur] at h1; exact v2 e op h1⟩
  have e := h.engine h'
  refine ⟨fun d1 h1 => ?_, fun d1 h1 => ?_, fun d1 op h1 => ?_, fun d1 op h1 h2 h3 => ?_⟩
  · rw [cur]
    rw [State.drive_modDrive] at h1 ⊢
    split at h1
    · next hd =>
      rw [if_pos hd]
      subst hd
      obtain ⟨g1, g2, g3⟩ := hgeom h' h1
      exact ⟨g2, (e.geometry d1 g1).2.1, g3⟩
    · next hd => rw [if_neg hd]; exact e.geometry d1 h1
  · rw [State.drive_modDrive] at h1 ⊢
    split at h1
    · next hd =>
      rw [if_pos hd]
      subst hd
      exact hqueue h' h1
    · next hd => rw [if_neg hd]; exact e.queued d1 h1
  · rw [cur] at h1; exact e.current d1 op h1
  · rw [cur] at h1
    obtain ⟨s1, s2⟩ := e.surface d1 op h1 h2 h3
    refine ⟨s1, ?_⟩
    rw [State.drive_modDrive]
    split
    · next hd =>
      subst hd
      rcases hsurf with hc | hc | hc
      · rw [h1] at hc; cases hc
      · exact absurd s2 hc
      · exact hc
    · exact s2

/-- R4, R7: a drive state is set, and the watchdog with it. -/
theorem State.setDriveState_eq (s : State) (d : DriveId) (st : DriveState) :
    s.setDriveState d st = s.modDrive d fun x =>
      { x with
        state := st, watchFrom := if st.armed && !x.state.armed then s.clock else x.watchFrom,
        watchLimit := if st.armed && !x.state.armed then x.twoPeriods else x.watchLimit } := by
  unfold State.setDriveState
  congr 1
  funext x
  split <;> rfl

/-- A drive takes a state that asks for no turn. -/
theorem Turned.setDriveState (h : Turned a b c x t) {st : DriveState} (hs : st ≠ .spinningUp)
    (hg : c → (t.drive d).geom = none → st ∈ restStates) (hc : (t.drive d).cur = none ∨ (t.drive d).state ≠ .fenced ∨ st = .fenced)
    (hq : c → st = .fenced → (t.drive d).pendReassign = false) : Turned a b c x (t.setDriveState d st) := by
  rw [State.setDriveState_eq]
  refine h.change _ rfl (fun h1 => absurd h1 hs) (fun h' h1 => ?_) (fun h' h1 => ?_) hc
  · exact ⟨h1, hg h' h1, ((h.engine h').geometry d h1).2.2⟩
  obtain ⟨q1, -, q3⟩ := (h.engine h').queued d h1
  refine ⟨q1, fun hf => ?_, q3⟩
  have hp : (t.drive d).pendReassign = true := h1
  rw [hq h' hf] at hp
  cases hp

/-- An internal operation is placed in the queue of a drive whose geometry is set. -/
theorem Turned.place (h : Turned a b c x t) (f : Drive → Drive) (hg : c → (t.drive d).geom ≠ none)
    (hstate : (f (t.drive d)).state = (t.drive d).state) (hgeom : (f (t.drive d)).geom = (t.drive d).geom)
    (hcur : (f (t.drive d)).cur = (t.drive d).cur) (hre : (f (t.drive d)).pendReassign = (t.drive d).pendReassign) :
    Turned a b c x (t.modDrive d f) := by
  refine h.change f hcur (fun h1 => .inl (hstate ▸ h1)) (fun h' h1 => absurd (hgeom ▸ h1) (hg h'))
    (fun h' h1 => ?_) ?_
  · rw [hstate, hgeom]; exact (h.engine h').queued d (hre ▸ h1)
  · by_cases hf : (t.drive d).state = .fenced
    · exact .inr (.inr (hstate.trans hf))
    · exact .inr (.inl hf)

@[simp] theorem State.cur_setDriveState (s : State) (d e : DriveId) (st : DriveState) :
    ((s.setDriveState d st).drive e).cur = (s.drive e).cur := by
  rw [State.setDriveState_eq, State.drive_modDrive]; split <;> rfl

@[simp] theorem State.geom_setDriveState (s : State) (d e : DriveId) (st : DriveState) :
    ((s.setDriveState d st).drive e).geom = (s.drive e).geom := by
  rw [State.setDriveState_eq, State.drive_modDrive]; split <;> rfl

@[simp] theorem State.state_setDriveState (s : State) (d : DriveId) (st : DriveState) :
    ((s.setDriveState d st).drive d).state = st := by
  rw [State.setDriveState_eq, State.drive_modDrive_self]

/-- A drive with nothing current and its geometry set takes a state other than SPINNING UP and FENCED. -/
theorem Turned.enter (h : Turned a b c x t) {st : DriveState} (hs : st ≠ .spinningUp) (hf : st ≠ .fenced)
    (hg : c → (t.drive d).geom ≠ none) (hc : (t.drive d).cur = none ∨ (t.drive d).state ≠ .fenced) :
    Turned a b c x (t.setDriveState d st) :=
  h.setDriveState hs (fun h' hn => absurd hn (hg h')) (hc.imp id .inl) fun _ hf' => absurd hf' hf

theorem Turned.enterRecalibrating (h : Turned a b c x t) (hg : c → (t.drive d).geom ≠ none)
    (hc : (t.drive d).cur = none ∨ (t.drive d).state ≠ .fenced) : Turned a b c x (t.enterRecalibrating d) :=
  (h.enter (by decide) (by decide) hg hc).place _ (by simpa using hg) rfl rfl rfl rfl

theorem Turned.enterReady (h : Turned a b c x t) (hg : c → (t.drive d).geom ≠ none) (hc : (t.drive d).cur = none) :
    Turned a b c x (t.enterReady d) :=
  (h.enter (by decide) (by decide) hg (.inl hc)).calm ((((Calm.refl _).modDrive d _).setNotice d _).endStateOrders d _ _)

theorem Turned.enterMapLost (h : Turned a b c x t) (hg : c → (t.drive d).geom ≠ none) (hc : (t.drive d).cur = none) :
    Turned a b c x (t.enterMapLost d) :=
  ((h.enter (st := .mapLost) (by decide) (by decide) hg (.inl hc)).calm
    ((((Calm.refl _).modDrive d Drive.emptyMap).modDrive d _).setNotice d _)).endTogether _ _ _

theorem Turned.mapStep (h : Turned a b c x t) (hs : (t.drive d).state = .recalibrating) (hc : (t.drive d).cur = none) :
    Turned a b c x (t.mapStep d) := by
  have hg := h.geom_of_state (d := d) (by rw [hs]; decide)
  refine .ite (fun _ => ?_) fun _ => .ite (fun _ => h.enterReady hg hc) fun _ => ?_
  · exact (h.enter (by decide) (by decide) hg (.inl hc)).place _ (by simpa using hg) rfl rfl rfl rfl
  · exact (h.enter (by decide) (by decide) hg (.inl hc)).place _ (by simpa using hg) rfl rfl rfl rfl

theorem State.modDrive_modDrive (s : State) (d : DriveId) (f g : Drive → Drive) :
    (s.modDrive d f).modDrive d g = s.modDrive d fun x => g (f x) := by
  simp [State.modDrive]

/-- R8: the spin-up turn is free, and a WAITING SPIN drive takes it. -/
theorem Turned.enterSpinningUp (h : Turned a b c x t) (hfree : ∀ e, (t.drive e).state ≠ .spinningUp)
    (hd : (t.drive d).state = .waitingSpin) : Turned a b c x (t.enterSpinningUp d) := by
  rw [State.enterSpinningUp, State.setDriveState_eq, State.modDrive_modDrive]
  have hne : DriveState.spinningUp ≠ .fenced := by decide
  have hmem : DriveState.spinningUp ∈ restStates := by decide
  refine h.change _ rfl (fun _ => .inr hfree) (fun h' h1 => ?_) (fun h' h1 => ?_) (.inr (.inl (by rw [hd]; decide)))
  swap
  · obtain ⟨q1, -, q3⟩ := (h.engine h').queued d h1
    exact ⟨q1, hne, q3⟩
  exact ⟨h1, hmem, ((h.engine h').geometry d h1).2.2⟩

end Sys2Proof.Machine
end

section
/-! The laws of the turns through the engines, the sequencers and the immediate actions. -/

namespace Sys2Proof.Machine

-- One declaration after the other: in parallel the one compile of the whole text runs out of threads.
set_option Elab.async false

variable {a b c : Prop} {x y : Option DriveId} {s t u : State} {d : DriveId}

/-! ## The reassignment engine (R126 to R135) -/

theorem Calm.noneQueued (k : Calm s t) (h : s.noneQueued) : t.noneQueued := fun d => by
  cases hp : (t.drive d).pendReassign
  · rfl
  · rw [← (k.drive d).reassign hp]; exact h d

theorem Calm.copies_back (k : Calm s t) (h : t.copies d) : s.copies d := by
  obtain ⟨op', hop', hk, he⟩ := h
  obtain ⟨op, hop, ht⟩ := k.cur_back hop'
  obtain ⟨h1, -, -, h4⟩ := Op.turn_fields ht
  exact ⟨op, hop, h1.trans hk, h4.trans he⟩

theorem Turned.copying (h : Turned a b c none t) (hc : t.copies d) :
    c → t.reassign.state = .copying ∧ t.reassign.held.map WatchEntry.drive = some d := fun h' => by
  obtain ⟨op, hop, hk, he⟩ := hc
  exact (h.engine h').current d op hop hk he (by simp)

/-- R126: one REASSIGN at most is under way. -/
theorem Turned.copies_only (h : Turned a b c none t) (hc : t.copies d) : c → ∀ e, t.copies e → e = d := fun h' e he => by
  have h1 := (h.copying hc h').2
  have h2 := (h.copying he h').2
  rw [h1] at h2
  cases h2
  rfl

theorem Turned.noneQueued_of_copies (h : Turned a b c none t) (hc : t.copies d) : c → t.noneQueued := fun h' =>
  (h.engine h').noneQueued (by rw [(h.copying hc h').1]; decide)

/-- The engine takes another content while no REASSIGN is queued. -/
theorem Turned.setEngine (h : Turned a b c x t) (r : ReassignEngine) (hq : c → t.noneQueued)
    (hl : c → ∀ e, t.copies e → y = some e ∨ (r.state = .copying ∧ r.held.map WatchEntry.drive = some e)) :
    Turned a b c y (t.setEngine r) := by
  refine ⟨h.spin, h.verify, fun h' => ?_⟩
  have e := h.engine h'
  refine ⟨e.geometry, fun d1 h1 => ?_, fun d1 op h1 h2 h3 h4 => ?_, e.surface⟩
  · have h0 : (t.drive d1).pendReassign = true := h1
    rw [hq h' d1] at h0
    cases h0
  · exact (hl h' d1 ⟨op, h1, h2, h3⟩).resolve_left h4

theorem Turned.engineFree (h : Turned a b c x t) (hq : c → t.noneQueued) (hl : c → ∀ e, t.copies e → y = some e) :
    Turned a b c y t.engineFree := h.setEngine _ hq fun h' e he => .inl (hl h' e he)

/-- A watch slot takes any content while no REASSIGN is queued. -/
theorem Turned.setSlot (h : Turned a b c x t) (i : Nat) (w : WatchSlot) (hq : c → t.noneQueued) : Turned a b c x (t.setSlot i w) := by
  refine ⟨h.spin, h.verify, fun h' => ?_⟩
  have e := h.engine h'
  refine ⟨e.geometry, fun d1 h1 => ?_, e.current, e.surface⟩
  have h0 : (t.drive d1).pendReassign = true := h1
  rw [hq h' d1] at h0
  cases h0

theorem Turned.engineFree_clearOp (h : Turned a b c none t) (hq : c → t.noneQueued) (hl : c → ∀ e, t.copies e → e = d) :
    Turned a b c none (t.engineFree.clearOp d) :=
  (h.engineFree (y := some d) hq fun h' e he => by rw [hl h' e he]).clearOp_self

theorem Turned.reassignFail (h : Turned a b c none t) (hc : t.copies d) : Turned a b c none (t.reassignFail d) := by
  unfold State.reassignFail
  have hq := h.noneQueued_of_copies hc
  have hl := h.copies_only hc
  split
  · next i e _ _ =>
    have k1 : Calm t (t.modDrive d fun x => (x.sparingUndone e.home).mapChanged) :=
      (Calm.refl t).modDrive d _ ((Drive.Calm.sparingUndone _ _).trans (.mapChanged _))
    have h2 := (h.calm k1).setSlot i (.entry { e with state := .stuck }) fun h' => k1.noneQueued (hq h')
    have k2 : Calm ((t.modDrive d fun x => (x.sparingUndone e.home).mapChanged).setWatch i { e with state := .stuck }) _ :=
      ((Calm.refl _).countReassignFailure d).endWaiting d e.home .reassignFailed
    exact (h2.calm k2).engineFree_clearOp (fun h' => k2.noneQueued (k1.noneQueued (hq h')))
      fun h' f hf => hl h' f (k1.copies_back (k2.copies_back hf))
  · exact h.engineFree_clearOp hq hl

theorem Turned.reassignDone (h : Turned a b c none t) (hc : t.copies d) : Turned a b c none (t.reassignDone d) := by
  unfold State.reassignDone
  have hq := h.noneQueued_of_copies hc
  have hl := h.copies_only hc
  split
  · next i e _ _ =>
    have k1 : Calm t (t.modDrive d fun x => (x.sparingDone e.home (if e.cause = some .ordered then .ordered else .auto)).mapChanged) :=
      (Calm.refl t).modDrive d _ ((Drive.Calm.sparingDone _ _ _).trans (.mapChanged _))
    have h2 := (h.calm k1).setSlot i .empty fun h' => k1.noneQueued (hq h')
    have k2 : Calm (State.setSlot _ i .empty) _ :=
      (((Calm.refl ((t.modDrive d fun x =>
          (x.sparingDone e.home (if e.cause = some .ordered then .ordered else .auto)).mapChanged).setSlot i .empty)).tallyDrive d
        DriveTallies.raiseReassignments).setNotice d noticeReassigned).endWaiting d e.home .complete
    exact (h2.calm k2).engineFree_clearOp (fun h' => k2.noneQueued (k1.noneQueued (hq h')))
      fun h' f hf => hl h' f (k1.copies_back (k2.copies_back hf))
  · exact h.engineFree_clearOp hq hl

/-- R135: after the abort a REASSIGN current on the drive is to be ended; none is queued there. -/
theorem Turned.abortReassign (h : Turned a b c none t) (d : DriveId) : Turned a b c (some d) (t.abortReassign d) := by
  unfold State.abortReassign
  split
  · next hd =>
    split
    · next i e hs _ he =>
      have k : Calm t (t.modDrive d fun x => x.sparingUndone e.home) := (Calm.refl t).modDrive d _ (.sparingUndone _ _)
      have hq : c → t.noneQueued := fun h' => (h.engine h').noneQueued (by rw [hs]; decide)
      refine ((h.calm k).setSlot i (.entry e) fun h' => k.noneQueued (hq h')).engineFree (fun h' => k.noneQueued (hq h')) fun h' f hf => ?_
      have hdrive : t.reassign.held.map WatchEntry.drive = some d := by simpa [State.engineDrive, hs] using hd
      rw [← hdrive]
      exact (h.copying (k.copies_back hf) h').2
    · next hno =>
      have k : Calm t (t.modDrive d fun x => { x with pendReassign := false }) :=
        (Calm.refl t).modDrive d _ ⟨rfl, rfl, rfl, id, id, .inl, nofun⟩
      refine (h.calm k).engineFree (fun h' f => ?_) fun h' f hf => ?_
      · by_cases hfd : f = d
        · subst hfd; rw [State.drive_modDrive_self]
        · rw [State.drive_modDrive_ne _ _ hfd]
          cases hp : (t.drive f).pendReassign
          · rfl
          · obtain ⟨-, -, hen, i, e, hslot, hw, -, hde⟩ := (h.engine h').queued f hp
            simp only [State.engineDrive, hen, hslot, hw, Option.bind_some, Option.map_some, Option.some.injEq] at hd
            exact absurd (hde.symm.trans hd) hfd
      · obtain ⟨hen, hheld⟩ := h.copying (k.copies_back hf) h'
        simp only [State.engineDrive, hen, hheld] at hd
        exact hd.symm
  · exact h.excuse _

theorem State.abortReassign_queued (h : c → t.engineBut none) (d : DriveId) :
    c → ((t.abortReassign d).drive d).pendReassign = false := fun h' => by
  have e := h h'
  cases hp : (t.drive d).pendReassign
  · have k : ∀ home, Drive.Calm (t.drive d) ((t.drive d).sparingUndone home) := fun home => .sparingUndone _ home
    unfold State.abortReassign
    split
    · split
      · next i e _ _ _ =>
        change (((t.modDrive d fun x => x.sparingUndone e.home).drive d).pendReassign) = false
        rw [State.drive_modDrive_self]
        exact Bool.eq_false_iff.mpr fun hp' => by rw [(k _).reassign hp'] at hp; cases hp
      · change (((t.modDrive d fun x => { x with pendReassign := false }).drive d).pendReassign) = false
        rw [State.drive_modDrive_self]
    · exact hp
  · obtain ⟨-, -, hen, i, w, hslot, hw, -, hde⟩ := e.queued d hp
    have hd : t.engineDrive = some d := by simp [State.engineDrive, hen, hslot, hw, hde]
    unfold State.abortReassign
    rw [if_pos hd, hen]
    change (((t.modDrive d fun x => { x with pendReassign := false }).drive d).pendReassign) = false
    rw [State.drive_modDrive_self]

/-! ## Taking a candidate and starting on it (R127, R128) -/

theorem bestCandidate_mem {b : Nat × Nat} (h : s.bestCandidate = some b) :
    ∃ e, watchEntry s.watch b.2 = some e ∧ s.eligible e = true :=
  leastEntry_mem (fun e => s.eligible e = true) (fun e => e.candTime.getD 0) h

theorem State.eligible_iff {e : WatchEntry} (h : s.eligible e = true) : e.state = .candidate ∧ (s.drive e.drive).state = .ready := by
  simp only [State.eligible, Bool.and_eq_true, decide_eq_true_eq] at h
  exact h.1

theorem Turned.takeCandidate (h : Turned a b c none t) {i : Nat} {e : WatchEntry} (hf : t.reassign.state = .free)
    (hw : watchEntry t.watch i = some e) (he : t.eligible e = true) : Turned a b c none (t.takeCandidate i) := by
  obtain ⟨hcand, hready⟩ := State.eligible_iff he
  have hne : t.reassign.state ≠ .taken := by rw [hf]; decide
  have hg := h.geom_of_state (d := e.drive) (by rw [hready]; decide)
  have heq : t.takeCandidate i = (t.setEngine { ReassignEngine.initial with state := .taken, slot := some i }).modDrive e.drive
      fun x => { x with pendReassign := true } := by simp [State.takeCandidate, hw]
  rw [heq]
  have h1 : Turned a b c none (t.setEngine { ReassignEngine.initial with state := .taken, slot := some i }) :=
    h.setEngine _ (fun h' => (h.engine h').noneQueued hne) fun h' f hf' => by
      have := (h.copying hf' h').1
      rw [hf] at this
      cases this
  exact h1.change _ rfl .inl (fun h' hn => absurd hn (hg h'))
    (fun h' _ => ⟨Option.isSome_iff_ne_none.mpr (hg h'), by change (t.drive e.drive).state ≠ _; rw [hready]; decide, rfl, i, e, rfl, hw, hcand, rfl⟩)
    (.inr (.inl (by change (t.drive e.drive).state ≠ _; rw [hready]; decide)))

/-- What the start of an operation asks of the engines: a SURFACE VERIFY takes the FREE verify engine for its drive and order, and a
destructive one stands on a FENCED drive; any other operation leaves the engine's job as it is. -/
structure StartsOn (t : State) (d : DriveId) (op : Op) (job : Option VerifyJob) : Prop where
  other : op.kind ≠ .surface → job = t.verify.job
  surface : op.kind = .surface → t.verify.job = none ∧ ∃ j, job = some j ∧ j.drive = d ∧ j.oid = op.oid ∧
    (op.pass ≠ .read ∨ j.destructive = true → j.destructive = true ∧ (t.drive d).state = .fenced)

/-- An operation becomes current on a drive with none; a REASSIGN does so on the drive the engine copies for. -/
theorem Turned.start (h : Turned a b c x t) {op : Op} (f : VerifyEngine → VerifyEngine) (hn : (t.drive d).cur = none)
    (hg : c → (t.drive d).geom ≠ none) (hs : StartsOn t d op (f t.verify).job)
    (hr : c → op.kind = .reassign → t.reassign.state = .copying ∧ t.reassign.held.map WatchEntry.drive = some d) :
    Turned a b c x ((t.modVerify f).setOp d op) := by
  have cur : ∀ e op1, (((t.modVerify f).setOp d op).drive e).cur = some op1 → e = d ∧ op1 = op ∨ e ≠ d ∧ (t.drive e).cur = some op1 := by
    intro e op1 h1
    by_cases hed : e = d
    · subst hed; rw [State.drive_setOp] at h1; cases h1; exact .inl ⟨rfl, rfl⟩
    · rw [State.setOp, State.drive_modDrive_ne _ _ hed] at h1; exact .inr ⟨hed, h1⟩
  have rest : ∀ e, Drive.Calm { t.drive e with cur := none } { ((t.modVerify f).setOp d op).drive e with cur := none } := fun e => by
    rw [State.setOp, State.drive_modDrive]; split <;> exact .refl _
  have st : ∀ e, (((t.modVerify f).setOp d op).drive e).state = (t.drive e).state := fun e => (rest e).state
  have job : ((t.modVerify f).setOp d op).verify.job = (f t.verify).job := rfl
  have away : (t.verify.job.isSome = true) → op.kind ≠ .surface := fun hj hk => by rw [(hs.surface hk).1] at hj; cases hj
  refine ⟨fun h' d1 d2 h1 h2 => h.spin h' d1 d2 (st d1 ▸ h1) (st d2 ▸ h2), fun h' => ⟨fun j hj => ?_, fun e op1 h1 h2 => ?_⟩, fun h' => ?_⟩
  · rw [job] at hj
    by_cases hk : op.kind = .surface
    · obtain ⟨-, j', hj', hjd, hjo, -⟩ := hs.surface hk
      rw [hj'] at hj
      cases hj
      exact ⟨op, by rw [hjd, State.drive_setOp], hk, hjo.symm⟩
    · rw [hs.other hk] at hj
      obtain ⟨op1, hop1, hj1⟩ := (h.verify h').1 j hj
      have hne : j.drive ≠ d := by intro he; rw [he, hn] at hop1; cases hop1
      exact ⟨op1, by rw [State.setOp, State.drive_modDrive_ne _ _ hne]; exact hop1, hj1⟩
  · rw [job]
    rcases cur e op1 h1 with ⟨rfl, rfl⟩ | ⟨-, h1'⟩
    · obtain ⟨-, j', hj', hjd, hjo, -⟩ := hs.surface h2
      exact ⟨j', hj', hjd, hjo⟩
    · obtain ⟨j, hj, hj1⟩ := (h.verify h').2 e op1 h1' h2
      exact ⟨j, by rw [hs.other (away (by simp [hj]))]; exact hj, hj1⟩
  have e := h.engine h'
  refine ⟨fun d1 h1 => ?_, fun d1 h1 => ?_, fun d1 op1 h1 h2 h3 hx => ?_, fun d1 op1 h1 h2 h3 => ?_⟩
  · have hg1 : (t.drive d1).geom = none := (rest d1).geom.symm.trans h1
    have hne : d1 ≠ d := by rintro rfl; exact hg h' hg1
    rw [State.setOp, State.drive_modDrive_ne _ _ hne]
    exact e.geometry d1 hg1
  · have hp : (t.drive d1).pendReassign = true := (rest d1).reassign h1
    rw [st, show (((t.modVerify f).setOp d op).drive d1).geom = (t.drive d1).geom from (rest d1).geom]
    exact e.queued d1 hp
  · rcases cur d1 op1 h1 with ⟨rfl, rfl⟩ | ⟨-, h1'⟩
    · exact hr h' h2
    · exact e.current d1 op1 h1' h2 h3 hx
  · rw [st]
    rw [State.destructive, job] at h3 ⊢
    rcases cur d1 op1 h1 with ⟨rfl, rfl⟩ | ⟨-, h1'⟩
    · obtain ⟨-, j', hj', -, -, hdes⟩ := hs.surface h2
      rw [hj'] at h3 ⊢
      exact hdes h3
    · obtain ⟨j, hj, -⟩ := (h.verify (.inr h')).2 d1 op1 h1' h2
      rw [hs.other (away (by simp [hj]))] at h3 ⊢
      exact e.surface d1 op1 h1' h2 h3

theorem Turned.startOp (h : Turned a b c x t) {op : Op} (hn : (t.drive d).cur = none) (hk : op.kind ≠ .surface)
    (hg : c → (t.drive d).geom ≠ none)
    (hr : c → op.kind = .reassign → t.reassign.state = .copying ∧ t.reassign.held.map WatchEntry.drive = some d) :
    Turned a b c x (t.setOp d op) :=
  h.start id hn hg ⟨fun _ => rfl, fun h' => absurd h' hk⟩ hr

/-- R128: the REASSIGN queued for a drive with nothing current starts. -/
theorem Turned.startReassign (h : Turned a b c none t) (hp : (t.drive d).pendReassign = true) (hn : (t.drive d).cur = none) :
    Turned a b c none ((t.modDrive d fun x => { x with pendReassign := false }).startReassign d) := by
  have k0 : Calm t (t.modDrive d fun x => { x with pendReassign := false }) :=
    (Calm.refl t).modDrive d _ ⟨rfl, rfl, rfl, id, id, .inl, nofun⟩
  have hq : c → (t.modDrive d fun x => { x with pendReassign := false }).noneQueued := fun h' f => by
    by_cases hfd : f = d
    · subst hfd; rw [State.drive_modDrive_self]
    · rw [State.drive_modDrive_ne _ _ hfd]
      cases hpf : (t.drive f).pendReassign
      · rfl
      · obtain ⟨-, -, -, i, e, hslot, hw, -, hde⟩ := (h.engine h').queued f hpf
        obtain ⟨-, -, -, i', e', hslot', hw', -, hde'⟩ := (h.engine h').queued d hp
        rw [hslot] at hslot'
        cases hslot'
        rw [hw] at hw'
        cases hw'
        exact absurd (hde.symm.trans hde') hfd
  have hl : c → ∀ e, ¬(t.modDrive d fun x => { x with pendReassign := false }).copies e := fun h' e he => by
    have h1 := (h.copying (k0.copies_back he) h').1
    rw [((h.engine h').queued d hp).2.2.1] at h1
    cases h1
  have h0 := h.calm k0
  unfold State.startReassign
  split
  · next i hs hi =>
    split
    · exact h0.engineFree hq fun h' e he => absurd he (hl h' e)
    · next e he =>
      split
      · have h1 := h0.setSlot i (.entry { e with state := .stuck }) hq
        have k := ((Calm.refl ((t.modDrive d fun x => { x with pendReassign := false }).setWatch i { e with state := .stuck })).countReassignFailure d).endWaiting d e.home .noAlternate
        exact (h1.calm k).engineFree (fun h' => k.noneQueued (hq h')) fun h' f hf => absurd (k.copies_back hf) (hl h' f)
      · next pos _ =>
        have k1 : Calm (t.modDrive d fun x => { x with pendReassign := false }) _ := (Calm.refl _).modDrive d
          (fun x => (x.beginSparing e.home pos).mapChanged) ((Drive.Calm.beginSparing _ _ _).trans (.mapChanged _))
        have h1 := ((h0.calm k1).setSlot i .reserved fun h' => k1.noneQueued (hq h')).setEngine (y := none)
          { ReassignEngine.initial with state := .copying, slot := some i, held := some e, tried := 1 }
          (fun h' => k1.noneQueued (hq h')) fun h' f hf => absurd (k1.copies_back hf) (hl h' f)
        refine (h1.startOp (d := d) ?_ (by simp [Op.internal]) (fun h' => ?_) fun h' _ => ⟨rfl, ?_⟩).seekTo d _
        · exact State.cur_none_iff.mpr ((k0.trans k1).curTurn d |>.trans (State.cur_none_iff.mp hn))
        · have hg : _ = (t.drive d).geom := (k0.trans k1).geom d
          refine fun hn' => absurd (hg.symm.trans hn') ?_
          exact Option.isSome_iff_ne_none.mp ((h.engine h').queued d hp).1
        · obtain ⟨-, -, -, i', e', hslot', hw', -, hde'⟩ := (h.engine h').queued d hp
          have hi' : t.reassign.slot = some i := hi
          have he' : watchEntry t.watch i = some e := he
          rw [hi'] at hslot'
          cases hslot'
          rw [he'] at hw'
          cases hw'
          simp [State.setEngine, hde']
  · exact h0

/-- R139: a SURFACE VERIFY becomes current and makes the FREE verify engine BUSY; a destructive one does so on a FENCED drive. -/
theorem Turned.startSurface (h : Turned a b c x t) (p : Port) (o : Order) (hn : (t.drive d).cur = none) (hj : t.verify.job = none)
    (hd : o.destructive = true → (t.drive d).state = .fenced) : Turned a b c x (t.startSurface d p o) := by
  unfold State.startSurface
  split
  · exact h
  next g hg =>
  dsimp only
  refine (h.start _ hn (fun _ hg' => by rw [hg] at hg'; cases hg') ⟨fun hk => absurd rfl hk, fun _ => ⟨hj, _, rfl, rfl, rfl, ?_⟩⟩
    fun _ hk => by cases hk).seekTo d _
  intro hw
  have hdes : (o.flags &&& 1#8 = 1#8) := by
    by_contra hno
    rcases hw with hw | hw
    · simp [Op.internal, hno] at hw
    · simp [hno] at hw
  exact ⟨by simpa using hdes, hd (by simpa [Order.destructive] using hdes)⟩

end Sys2Proof.Machine
end

section
/-! The laws of the turns through the drive sequencers (R98 to R147). -/

namespace Sys2Proof.Machine

-- One declaration after the other: in parallel the one compile of the whole text runs out of threads.
set_option Elab.async false

variable {a b c : Prop} {x y : Option DriveId} {s t u : State} {d : DriveId} {op : Op}

/-! ## Operations that follow one another -/

theorem Op.Follows.of_pass {des : Bool} {op op' : Op} (hk : op'.kind = op.kind) (ho : op'.oid = op.oid) (he : op'.ended = op.ended)
    (hp : op'.pass = op.pass) : op.Follows des op' := ⟨hk, ho, fun h => he ▸ h, fun _ h => .inl (hp ▸ h)⟩

theorem Op.Follows.of_kind {des : Bool} {op op' : Op} (hs : op.kind ≠ .surface) (hk : op'.kind = op.kind) (ho : op'.oid = op.oid)
    (he : op'.ended = op.ended) : op.Follows des op' := ⟨hk, ho, fun h => he ▸ h, fun h => absurd h hs⟩

/-- An operation that wants a sector in another pass; a SURFACE VERIFY that reads goes on reading. -/
theorem Op.Follows.wants {des : Bool} (op : Op) (n : Nat) (p : Pass) (h : op.kind = .surface → p = .read ∨ op.pass ≠ .read) :
    op.Follows des (op.wants n p) :=
  ⟨rfl, rfl, id, fun hk hp => .inl ((h hk).resolve_left hp)⟩

theorem State.copies_of (hc : t.curTurn d = some op.turn) (hk : op.kind = .reassign) (he : op.ended = false) : t.copies d := by
  obtain ⟨op0, hop0, hturn⟩ := Option.map_eq_some_iff.mp hc
  obtain ⟨k0, -, -, e0⟩ := Op.turn_fields hturn
  exact ⟨op0, hop0, k0.trans hk, e0.trans he⟩

theorem State.cur_ne_none (hc : t.curTurn d = some op.turn) : (t.drive d).cur ≠ none := by
  rw [Ne, State.cur_none_iff, hc]; simp

/-! ## MAP WRITE and MAP LOAD (R60 to R66) -/

theorem Turned.startMapWrite (h : Turned a b c x t) (hn : (t.drive d).cur = none) (hg : c → (t.drive d).geom ≠ none) :
    Turned a b c x (t.startMapWrite d) := by
  unfold State.startMapWrite
  split
  · exact h
  · next g _ =>
    have k := ((Calm.refl t).bindCommits d).modDrive d fun x => { x with mapState := .writing }
    have h1 := (h.calm k).startOp (d := d) (op := { Op.internal .mapWrite g.mapTrack g.mapTrack .map .write with
        record := some (composeRecord g (t.drive d)) }) (State.cur_none_iff.mpr ((k.curTurn d).trans (State.cur_none_iff.mp hn)))
      (by simp [Op.internal]) (fun h' => by rw [k.geom]; exact hg h') fun _ hk => by cases hk
    rw [State.setOp, State.modDrive_modDrive] at h1
    exact h1.seekTo d _

theorem Turned.startMapLoad (h : Turned a b c x t) (hn : (t.drive d).cur = none) (hg : c → (t.drive d).geom ≠ none) :
    Turned a b c x (t.startMapLoad d) := by
  unfold State.startMapLoad
  split
  · exact h
  · exact (h.startOp hn (by simp [Op.internal]) hg fun _ hk => by cases hk).seekTo d _

theorem Turned.endMapWrite (h : Turned a b c x t) (d : DriveId) (ok : Bool) : Turned a b c x (t.endMapWrite d ok) := by
  unfold State.endMapWrite
  have k1 : Calm (t.clearOp d) ((t.clearOp d).modDrive d fun x => { x with mapState := x.mapState.afterWrite ok }) :=
    (Calm.refl _).modDrive d _
  have k2 := (Calm.ite (c := ok = true) (fun _ => k1) fun _ => k1.setNotice d noticeMapLost).endOrders d
    (fun o => o.kind = .commitMap && o.bound) (if ok then .complete else .dataCheck)
  have h2 := (h.clearOp d).calm k2
  refine .ite (fun hs => h2.enterReady (h2.geom_of_state ?_) ?_) fun _ => h2
  · rcases hs with hs | hs
    · rw [hs]; decide
    · rw [hs.1]; decide
  · exact State.cur_none_iff.mpr ((k2.curTurn d).trans (State.cur_none_iff.mp (t.cur_clearOp d)))

theorem Turned.mapSectorWritten (h : Turned a b c x t) (hc : t.curTurn d = some op.turn) (hk : op.kind = .mapWrite) :
    Turned a b c x (t.mapSectorWritten d op) := by
  have hk' : op.kind ≠ .surface := by rw [hk]; decide
  exact .ite (fun _ => h.setOp hc (.wants _ _ _ fun h' => absurd h' hk')) fun _ => h.setOp hc (.wants _ _ _ fun h' => absurd h' hk')

theorem Turned.mapReadBackFailed (h : Turned a b c x t) (hc : t.curTurn d = some op.turn) (hk : op.kind = .mapWrite) (w : Bool) :
    Turned a b c x (t.mapReadBackFailed d op w) := by
  have hk' : op.kind ≠ .surface := by rw [hk]; decide
  have k : Calm t (if w then t.tallyDrive d DriveTallies.raiseSeekChecks else t) :=
    .ite (fun _ => (Calm.refl t).tallyDrive d _) fun _ => .refl t
  have hc' := (k.curTurn d).trans hc
  refine .ite (fun _ => ?_) fun _ => (h.calm k).endMapWrite d false
  have h2 := (h.calm k).setOp hc' (op' := { op.wants 0 .write with attempt := op.attempt + 1 }) (.of_kind hk' rfl rfl rfl)
  exact .ite (fun _ => h2.recalFor d _) fun _ => h2

theorem Turned.mapReadBack (h : Turned a b c x t) (hc : t.curTurn d = some op.turn) (hk : op.kind = .mapWrite) (out : ReadOutcome) :
    Turned a b c x (t.mapReadBack d op out) := by
  have hk' : op.kind ≠ .surface := by rw [hk]; decide
  unfold State.mapReadBack
  split
  · refine .ite (fun _ => .ite (fun _ => ?_) fun _ => h.endMapWrite d true) fun _ => h.mapReadBackFailed hc hk _
    exact h.setOp hc (.wants _ _ _ fun h' => absurd h' hk')
  all_goals exact h.mapReadBackFailed hc hk _

theorem Turned.refuseMap (h : Turned a b c x t) (hc : (t.drive d).cur ≠ none) : Turned a b c x (t.refuseMap d) :=
  (h.clearOp d).enterMapLost (fun h' => by rw [State.geom_clearOp]; exact h.geom_of_cur hc h') (t.cur_clearOp d)

theorem Turned.checkMap (h : Turned a b c x t) (hc : (t.drive d).cur ≠ none) : Turned a b c x (t.checkMap d op) := by
  unfold State.checkMap
  split
  · next r _ _ =>
    have k : Calm (t.clearOp d) ((t.clearOp d).modDrive d fun x => x.loadRecord r) := (Calm.refl _).modDrive d _
    refine .ite (fun _ => ((h.clearOp d).calm k).enterReady (fun h' => ?_) ?_) fun _ => h.refuseMap hc
    · rw [k.geom, State.geom_clearOp]; exact h.geom_of_cur hc h'
    · exact State.cur_none_iff.mpr ((k.curTurn d).trans (State.cur_none_iff.mp (t.cur_clearOp d)))
  · exact h.refuseMap hc

theorem Turned.mapLoadAdvance (h : Turned a b c x t) (hc : t.curTurn d = some op.turn) : Turned a b c x (t.mapLoadAdvance d op) :=
  .ite (fun _ => h.setOp hc (.wants _ _ _ fun _ => .inl rfl)) fun _ => h.checkMap (State.cur_ne_none hc)

/-! ## The copy of a reassignment (R129 to R132) -/

theorem Turned.reassignWrite (h : Turned a b c x t) (hc : t.curTurn d = some op.turn) (hk : op.kind = .reassign) :
    Turned a b c x (t.reassignWrite d op) := by
  unfold State.reassignWrite
  split
  · exact h
  · refine Turned.seekTo (h.setOp hc ?_) d _
    exact .of_kind (by rw [hk]; decide) rfl rfl rfl

theorem Turned.reassignAdvance (h : Turned a b c x t) (hc : t.curTurn d = some op.turn) (hk : op.kind = .reassign) :
    Turned a b c x (t.reassignAdvance d op) :=
  .ite (fun _ => h.setOp hc (.wants _ _ _ fun _ => .inl rfl)) fun _ => h.reassignWrite hc hk

theorem Turned.reassignWritten (h : Turned a b c x t) (hc : t.curTurn d = some op.turn) (hk : op.kind = .reassign) :
    Turned a b c x (t.reassignWritten d op) := by
  have hk' : op.kind ≠ .surface := by rw [hk]; decide
  exact .ite (fun _ => h.setOp hc (.wants _ _ _ fun h' => absurd h' hk')) fun _ => h.setOp hc (.wants _ _ _ fun h' => absurd h' hk')

theorem Calm.setEngine (k : Calm s t) (r : ReassignEngine) (h1 : r.state = t.reassign.state := by rfl)
    (h2 : r.slot = t.reassign.slot := by rfl)
    (h3 : r.held.map WatchEntry.drive = t.reassign.held.map WatchEntry.drive := by rfl) : Calm s (t.setEngine r) :=
  k.trans ⟨fun _ => .refl _, .refl _, h1, h2, h3, rfl⟩

theorem Turned.reassignTrialFailed (h : Turned a b c none t) (hc : t.curTurn d = some op.turn) (hk : op.kind = .reassign)
    (he : op.ended = false) : Turned a b c none (t.reassignTrialFailed d op) := by
  unfold State.reassignTrialFailed
  have k : Calm t (t.modDrive d fun x => (x.killTrial op.home).mapChanged) :=
    (Calm.refl t).modDrive d _ ((Drive.Calm.killTrial _ _).trans (.mapChanged _))
  have hc1 := (k.curTurn d).trans hc
  dsimp only
  split
  · exact (h.calm k).reassignFail (State.copies_of hc1 hk he)
  · next pos _ =>
    have k2 := (k.modDrive d (fun x => x.nextTrial op.home pos) (.nextTrial _ _ _)).setEngine
      { ((t.modDrive d fun x => (x.killTrial op.home).mapChanged).modDrive d fun x => x.nextTrial op.home pos).reassign with
        tried := ((t.modDrive d fun x => (x.killTrial op.home).mapChanged).modDrive d fun x => x.nextTrial op.home pos).reassign.tried + 1 }
    exact (h.calm k2).reassignWrite ((k2.curTurn d).trans hc) hk

theorem Turned.reassignSeekCheck (h : Turned a b c none t) (hc : t.curTurn d = some op.turn) (hk : op.kind = .reassign)
    (he : op.ended = false) : Turned a b c none (t.reassignSeekCheck d op) := by
  unfold State.reassignSeekCheck
  have hk' : op.kind ≠ .surface := by rw [hk]; decide
  have k := ((Calm.refl t).tallyDrive d DriveTallies.raiseSeekChecks).setEngine
    { (t.tallyDrive d DriveTallies.raiseSeekChecks).reassign with
      seekChecks := (t.tallyDrive d DriveTallies.raiseSeekChecks).reassign.seekChecks + 1 }
  have hc1 := (k.curTurn d).trans hc
  refine .ite (fun _ => ?_) fun _ => (h.calm k).reassignFail (State.copies_of hc1 hk he)
  refine Turned.recalFor ((h.calm k).setOp hc1 ?_) d _
  split <;> exact .wants _ _ _ fun h' => absurd h' hk'

theorem Turned.reassignReadBack (h : Turned a b c none t) (hc : t.curTurn d = some op.turn) (hk : op.kind = .reassign)
    (he : op.ended = false) (out : ReadOutcome) : Turned a b c none (t.reassignReadBack d op out) := by
  have hk' : op.kind ≠ .surface := by rw [hk]; decide
  exact .ite (fun _ => h.reassignSeekCheck hc hk he) fun _ => .ite (fun _ =>
    .ite (fun _ => h.setOp hc (.wants _ _ _ fun h' => absurd h' hk')) fun _ => h.reassignDone (State.copies_of hc hk he)) fun _ =>
      h.reassignTrialFailed hc hk he

/-! ## SURFACE VERIFY (R139 to R147) -/

theorem Turned.endSurface (h : Turned a b c x t) (d : DriveId) (op : Op) (r : Result) (f : Option SectorAddr) :
    Turned a b c x (t.endSurface d op r f) :=
  (h.calm (((Calm.refl t).modOrder _ _).endOrder _ _)).clearOp d

theorem Turned.surfaceTrack (h : Turned a b c x t) (hc : t.curTurn d = some op.turn) (n : Nat) :
    Turned a b c x (t.surfaceTrack d op n) := by
  unfold State.surfaceTrack
  split
  · exact h
  · have k := (Calm.refl t).modVerify fun v => v.atTrack n t.destructive
    refine (h.calm k).moveToTrack _ ((k.curTurn d).trans hc) ⟨rfl, rfl, id, fun _ hp => .inr ?_⟩
    rw [k.destructive]
    by_contra hno
    simp [Op.wants, hno] at hp

theorem Turned.surfaceNext (h : Turned a b c x t) (hc : t.curTurn d = some op.turn) : Turned a b c x (t.surfaceNext d op) := by
  unfold State.surfaceNext
  split
  · exact h.clearOp d
  · exact .ite (fun _ => h.endSurface d op _ _) fun _ => h.surfaceTrack hc _

theorem Turned.trackVerified (h : Turned a b c x t) (hc : t.curTurn d = some op.turn) : Turned a b c x (t.trackVerified d op) :=
  (h.calm ((Calm.refl t).modVerify _)).surfaceNext hc

theorem Turned.shortfall (h : Turned a b c x t) (hc : t.curTurn d = some op.turn) (r : Result) :
    Turned a b c x (t.shortfall d op r) := by
  have k := ((Calm.refl t).modVerify fun v => { v with
    shortfall := some (v.shortfall.getD (r, ⟨op.home.cyl, op.home.head, t.verify.trackFirst.getD 0⟩)), trial := none }).shortfallReport d op.home
  exact (h.calm k).trackVerified ((k.curTurn d).trans hc)

theorem Turned.startTrial (h : Turned a b c x t) (hc : t.curTurn d = some op.turn) (hp : op.pass ≠ .read) :
    Turned a b c x (t.startTrial d op) := by
  unfold State.startTrial
  split
  · exact h.shortfall hc _
  · next pos _ =>
    have k := (Calm.refl t).modVerify fun v =>
      { v with trial := some pos, tried := v.tried + 1, phase := some .trialWrite, trackFails := 0 }
    exact (h.calm k).moveToTrack _ hc ⟨rfl, rfl, id, fun _ _ => .inl hp⟩

theorem Turned.judgeTrack (h : Turned a b c x t) (hc : t.curTurn d = some op.turn) (hp : op.pass ≠ .read) :
    Turned a b c x (t.judgeTrack d op) := by
  have h1 := h.calm ((Calm.refl t).modVerify fun v => { v with failed := addHolding v.failed t.verify.trackFails })
  exact .ite (fun _ => h1.trackVerified hc) fun _ => h1.startTrial hc hp

/-- Watch entries go that no REASSIGN is queued for. -/
theorem Turned.forget (h : Turned a b c x t) (w : List WatchSlot)
    (hw : c → ∀ i e, watchEntry t.watch i = some e → e.state = .candidate → watchEntry w i = some e ∨ (t.drive e.drive).pendReassign = false) :
    Turned a b c x { t with watch := w } := by
  refine ⟨h.spin, h.verify, fun h' => ?_⟩
  have e := h.engine h'
  refine ⟨e.geometry, fun d1 hp => ?_, e.current, e.surface⟩
  obtain ⟨q1, q2, q3, i, f, hslot, hf, hcand, hd⟩ := e.queued d1 hp
  refine ⟨q1, q2, q3, i, f, hslot, (hw h' i f hf hcand).resolve_right fun hno => ?_, hcand, hd⟩
  have hp' : (t.drive d1).pendReassign = true := hp
  rw [hd, hp'] at hno
  cases hno

theorem findWatch_entry {w : List WatchSlot} {home : Track} {i : Nat} (h : findWatch w d home = some i) :
    ∃ e, watchEntry w i = some e ∧ e.drive = d ∧ e.home = home := by
  obtain ⟨hlt, hp, -⟩ := List.findIdx?_eq_some_iff_getElem.mp h
  split at hp
  · next e he =>
    simp only [decide_eq_true_eq] at hp
    exact ⟨e, by simp [watchEntry, List.getElem?_eq_getElem hlt, he], hp⟩
  all_goals cases hp

theorem Turned.forgetWatch (h : Turned a b c x t) (home : Track) (hq : c → (t.drive d).pendReassign = false) :
    Turned a b c x (t.forgetWatch d home) := by
  unfold State.forgetWatch
  split
  · exact h
  · next i hi =>
    refine h.forget _ fun h' j e hj _ => ?_
    by_cases hji : j = i
    · subst hji
      obtain ⟨f, hf, hfd, -⟩ := findWatch_entry hi
      rw [hf] at hj
      cases hj
      exact .inr (by rw [hfd]; exact hq h')
    · exact .inl (by rw [watchEntry_set_ne hji]; exact hj)

theorem Turned.forgetDrive (h : Turned a b c x t) (hq : c → (t.drive d).pendReassign = false) :
    Turned a b c x (t.forgetDrive d) := by
  refine h.forget _ fun h' j e hj _ => ?_
  by_cases hd : e.drive = d
  · exact .inr (by rw [hd]; exact hq h')
  · refine .inl ?_
    have := watchEntry_eq hj
    simp [watchEntry, this, hd]

/-- R140: the drive of a SURFACE VERIFY that writes or reads back is FENCED, so no REASSIGN is queued for it. -/
theorem Turned.surface_unqueued (h : Turned a b c x t) (hc : t.curTurn d = some op.turn) (hk : op.kind = .surface) (hp : op.pass ≠ .read) :
    c → (t.drive d).pendReassign = false := fun h' => by
  obtain ⟨op0, hop0, hturn⟩ := Option.map_eq_some_iff.mp hc
  obtain ⟨k0, -, p0, -⟩ := Op.turn_fields hturn
  obtain ⟨-, hf⟩ := (h.engine h').surface d op0 hop0 (k0.trans hk) (.inl (p0 ▸ hp))
  cases hq : (t.drive d).pendReassign
  · rfl
  · exact absurd hf ((h.engine h').queued d hq).2.1

theorem Turned.trialPassed (h : Turned a b c x t) (hc : t.curTurn d = some op.turn) (hk : op.kind = .surface) (hp : op.pass ≠ .read)
    (n : Nat) : Turned a b c x (t.trialPassed d op n) := by
  have k : Calm t (t.modDrive d fun x => (x.spareByVerify op.home n).mapChanged) :=
    (Calm.refl t).modDrive d _ ((Drive.Calm.spareByVerify _ _ _).trans (.mapChanged _))
  have hc1 := (k.curTurn d).trans hc
  have h1 := (h.calm k).forgetWatch op.home ((h.calm k).surface_unqueued hc1 hk hp)
  have hc2 : ((t.modDrive d fun x => (x.spareByVerify op.home n).mapChanged).forgetWatch d op.home).curTurn d = some op.turn := by
    rw [← hc1]; unfold State.forgetWatch; split <;> rfl
  exact (h1.calm ((Calm.refl _).modVerify _)).trackVerified hc2

theorem Turned.trialFailed (h : Turned a b c x t) (hc : t.curTurn d = some op.turn) (hp : op.pass ≠ .read) (n : Nat) :
    Turned a b c x (t.trialFailed d op n) := by
  have k0 : Drive.Calm (t.drive d) { t.drive d with pool := (t.drive d).pool.set n .dead } := ⟨rfl, rfl, rfl, id, id, .inl, id⟩
  have k := ((Calm.refl t).modDrive d (fun x => ({ x with pool := x.pool.set n .dead } : Drive).mapChanged)
    (k0.trans (.mapChanged _))).modVerify fun v => { v with dead := addHolding v.dead 1, trial := none }
  have hc1 := (k.curTurn d).trans hc
  exact .ite (fun _ => (h.calm k).startTrial hc1 hp) fun _ => (h.calm k).shortfall hc1 _

theorem Turned.surfaceWritten (h : Turned a b c x t) (hc : t.curTurn d = some op.turn) (hp : op.pass ≠ .read) :
    Turned a b c x (t.surfaceWritten d op) :=
  .ite (fun _ => h.setOp hc (.wants _ _ _ fun _ => .inr hp)) fun _ =>
    (h.calm ((Calm.refl t).modVerify _)).setOp hc (.wants _ _ _ fun _ => .inr hp)

theorem Turned.surfaceSeekCheck (h : Turned a b c x t) (hc : t.curTurn d = some op.turn) (hp : op.pass ≠ .read) :
    Turned a b c x (t.surfaceSeekCheck d op) := by
  have k := ((Calm.refl t).tallyDrive d DriveTallies.raiseSeekChecks).modVerify fun v => { v with seekChecks := v.seekChecks + 1 }
  have h1 := h.calm k
  have hc1 := (k.curTurn d).trans hc
  exact .ite (fun _ => ((h1.calm ((Calm.refl _).modVerify _)).setOp hc1 (.wants _ _ _ fun _ => .inr hp)).recalFor d _) fun _ =>
    h1.endSurface d op _ _

theorem Turned.surfaceReadBack (h : Turned a b c x t) (hc : t.curTurn d = some op.turn) (hk : op.kind = .surface) (hp : op.pass ≠ .read)
    (out : ReadOutcome) : Turned a b c x (t.surfaceReadBack d op out) := by
  unfold State.surfaceReadBack
  refine .ite (fun _ => h.surfaceSeekCheck hc hp) fun _ => ?_
  have k : Calm t (if patternPasses d op out then t else t.modVerify fun v => v.countFail op.sector) :=
    .ite (fun _ => .refl t) fun _ => (Calm.refl t).modVerify _
  have h1 := h.calm k
  have hc1 := (k.curTurn d).trans hc
  refine .ite (fun _ => h1.setOp hc1 (.wants _ _ _ fun _ => .inr hp)) fun _ => ?_
  split
  · exact h1.judgeTrack hc1 hp
  · exact .ite (fun _ => h1.trialPassed hc1 hk hp _) fun _ => h1.trialFailed hc1 hp _

theorem Turned.surfaceAdvance (h : Turned a b c x t) (hc : t.curTurn d = some op.turn) : Turned a b c x (t.surfaceAdvance d op) :=
  .ite (fun _ => h.setOp hc (.wants _ _ _ fun _ => .inl rfl)) fun _ => h.trackVerified hc

/-! ## Completion of sectors and operations (R105 to R114) -/

theorem Turned.endHostOp (h : Turned a b c x t) (d : DriveId) (op : Op) (r : Result) : Turned a b c x (t.endHostOp d op r) :=
  (h.calm ((((Calm.refl t).operationResult op r).leaveWaitList [op.oid]).dropRequests [op.oid])).clearOp d

theorem Turned.hostAdvance (h : Turned a b c x t) (hc : t.curTurn d = some op.turn) : Turned a b c x (t.hostAdvance d op) :=
  .ite (fun _ => h.endHostOp d op _) fun _ => .ite (fun _ => h.setOp hc (.of_pass rfl rfl rfl rfl)) fun _ =>
    h.moveToTrack _ hc (.of_pass rfl rfl rfl rfl)

theorem Turned.advance (h : Turned a b c x t) (hc : t.curTurn d = some op.turn) : Turned a b c x (t.advance d op) := by
  unfold State.advance
  split
  case h_5 hk => exact h.mapLoadAdvance hc
  case h_6 hk => exact h.reassignAdvance hc hk
  case h_4 => exact h.surfaceAdvance hc
  case h_1 | h_2 | h_3 => exact h.hostAdvance hc
  all_goals exact h

theorem Turned.finish (h : Turned a b c x t) (hc : t.curTurn d = some op.turn) (r : Result) : Turned a b c x (t.finish d op r) := by
  unfold State.finish
  split
  case h_1 => exact h.refuseMap (State.cur_ne_none hc)
  case h_2 | h_3 => exact (h.calm (.ite (fun _ => (Calm.refl t).tallyDrive d _) fun _ => .refl t)).endHostOp d op r
  case h_4 => exact h.endSurface d op r _
  all_goals exact h.clearOp d

theorem Turned.reachGoal (h : Turned a b c x t) (d : DriveId) (g : Goal) : Turned a b c x (t.reachGoal d g) := by
  unfold State.reachGoal
  split
  · exact h.reachTransfer d
  all_goals split
  · next hop => exact h.advance (State.curTurn_of hop)
  · exact h
  · next hop => exact h.finish (State.curTurn_of hop) _
  · exact h

theorem Turned.toCentre (h : Turned a b c x t) (hc : t.curTurn d = some op.turn) (g : Goal) : Turned a b c x (t.toCentre d op g) :=
  have h1 := h.setOp_same hc (op' := op) rfl
  .ite (fun _ => h1.reachGoal d g) fun _ => h1.calm ((Calm.refl _).beginSeek d _ g)

/-! ## The retry ladder (R110 to R114) -/

theorem Turned.sectorGood (h : Turned a b c x t) (hc : t.curTurn d = some op.turn) (p : Payload) :
    Turned a b c x (t.sectorGood d op p) := by
  unfold State.sectorGood
  have k := (Calm.refl t).keepGood op p
  have ht : (if op.kind = .mapLoad then { op with got := op.got ++ [p] } else op).turn = op.turn := by split <;> rfl
  dsimp only
  split
  · refine ((h.calm k).setOp_same ((k.curTurn d).trans hc) ht).advance (by simp)
  · have k1 := k.countRecovered d op
    refine (h.calm k1).toCentre (((k1.curTurn d).trans hc).trans ?_) _
    exact congrArg some ht.symm

theorem Turned.sectorFailed (h : Turned a b c x t) (hc : t.curTurn d = some op.turn) (r : Result) :
    Turned a b c x (t.sectorFailed d op r) := by
  unfold State.sectorFailed
  have k : Calm t (if r = .dataCheck then t.countUnrecovered d op else t) :=
    .ite (fun _ => (Calm.refl t).countUnrecovered d op) fun _ => .refl t
  dsimp only
  split
  case h_1 =>
    have k1 := k.setPlace op.sector .lost
    exact (h.calm k1).toCentre ((k1.curTurn d).trans hc) _
  case h_2 =>
    have k1 := (Calm.ite (c := r = .incompleteSector) (fun _ => k.tallyDrive d DriveTallies.raiseIncomplete) fun _ => k).surfaceFailed op
    exact (h.calm k1).toCentre ((k1.curTurn d).trans hc) _
  case h_3 | h_4 => exact (h.calm (k.setFailing op)).toCentre (((k.setFailing op).curTurn d).trans hc) _
  case h_5 => exact (h.calm k).toCentre ((k.curTurn d).trans hc) _
  all_goals exact (h.calm k).clearOp d

theorem Turned.ladderNext (h : Turned a b c x t) (hc : t.curTurn d = some op.turn) : Turned a b c x (t.ladderNext d op) := by
  unfold State.ladderNext
  dsimp only
  split
  · exact h.setOp_same hc rfl
  · refine .ite (fun _ => h.sectorFailed hc _) fun _ => Turned.seekTo (h.setOp_same hc ?_) d _
    rfl
  · exact h

theorem Turned.seekCheck (h : Turned a b c x t) (hc : t.curTurn d = some op.turn) : Turned a b c x (t.seekCheck d op) := by
  unfold State.seekCheck
  have k := (Calm.refl t).tallyDrive d DriveTallies.raiseSeekChecks
  have hc1 := (k.curTurn d).trans hc
  refine .ite (fun _ => ?_) fun _ => Turned.recalFor ((h.calm k).setOp_same hc1 ?_) d _
  swap
  · rfl
  split
  case h_1 | h_2 => exact (h.calm (k.setFailing op)).endHostOp d op _
  case h_3 => exact (h.calm k).endSurface d op _ _
  case h_4 => exact (h.calm k).refuseMap (State.cur_ne_none hc1)
  all_goals exact (h.calm k).clearOp d

theorem Turned.ladderRead (h : Turned a b c none t) (hc : t.curTurn d = some op.turn) (he : op.ended = false) (out : ReadOutcome) :
    Turned a b c none (t.ladderRead d op out) := by
  unfold State.ladderRead
  split
  · exact h.sectorGood hc _
  · exact h.ladderNext hc
  · exact h.ladderNext hc
  · exact h.sectorFailed hc _
  · exact h.sectorFailed hc _
  · exact .ite (fun hk => h.reassignSeekCheck hc hk he) fun _ => h.seekCheck hc

theorem Turned.readOutcome (h : Turned a b c none t) (hc : t.curTurn d = some op.turn) (he : op.ended = false) (out : ReadOutcome) :
    Turned a b c none (t.readOutcome d op out) := by
  unfold State.readOutcome
  refine .ite (fun hp => ?_) fun _ => h.ladderRead hc he out
  have hp' : op.pass ≠ .read := by rw [hp]; decide
  split
  case h_1 hk => exact h.mapReadBack hc hk out
  case h_2 hk => exact h.reassignReadBack hc hk he out
  case h_3 hk => exact h.surfaceReadBack hc hk hp' out
  all_goals exact h

theorem Turned.lateOutcome (h : Turned a b c x t) (d : DriveId) (op : Op) (done : Bool) : Turned a b c x (t.lateOutcome d op done) :=
  (h.calm (.ite (fun _ => (Calm.refl t).modOrder _ _) fun _ => .refl t)).clearOp d

/-! ## The ends and the starts of sectors (R71 to R81) -/

theorem Turned.endRead (h : Turned a b c none t) (hc : t.curTurn d = some op.turn) (xf : Xfer) (out : ReadOutcome) :
    Turned a b c none (t.endRead d op xf out) := by
  unfold State.endRead
  have k : Calm t (if op.kind = .read then
      match out with
      | .good p => t.ringGood p
      | .mismatch _ | .incomplete | .lost | .dataCheck => t.ringBack
    else t) := by
    refine .ite (fun _ => ?_) fun _ => .refl t
    split
    · exact (Calm.refl t).ringGood _
    all_goals exact (Calm.refl t).ringBack
  have k1 := k.noteAttempt op
  refine Turned.calm ?_ ((Calm.refl _).afterTransfer d xf _)
  by_cases he : op.ended = true
  · simp only [he, if_true]; exact (h.calm k1).lateOutcome d op _
  · simp only [he, if_false, Bool.false_eq_true]
    exact (h.calm k1).readOutcome ((k1.curTurn d).trans hc) (by simpa using he) out

theorem Turned.writeWritten (h : Turned a b c x t) (hc : t.curTurn d = some op.turn) : Turned a b c x (t.writeWritten d op) := by
  unfold State.writeWritten
  dsimp only
  by_cases he : op.ended = true
  · simp only [he, if_true]
    split
    · exact (h.lateOutcome d op true).calm ((Calm.refl _).freeSlot _)
    · exact h.lateOutcome d op true
  · simp only [he, if_false, Bool.false_eq_true]
    have k := (Calm.refl t).modOrder op.oid fun o => { o with done := o.done + 1 }
    split
    · exact (h.calm (k.freeSlot _)).hostAdvance (((k.freeSlot _).curTurn d).trans hc)
    · exact (h.calm k).hostAdvance ((k.curTurn d).trans hc)

theorem Turned.writeOutcome (h : Turned a b c x t) (hc : t.curTurn d = some op.turn) : Turned a b c x (t.writeOutcome d op) := by
  unfold State.writeOutcome
  split
  case h_1 => exact h.writeWritten hc
  case h_2 hk => exact h.mapSectorWritten hc hk
  case h_3 hk => exact .ite (fun _ => h.clearOp d) fun _ => h.reassignWritten hc hk
  case h_4 => exact .ite (fun _ => h.clearOp d) fun _ => .ite (fun hp => h.surfaceWritten hc (by rw [hp]; decide)) fun _ => h
  all_goals exact h

theorem Turned.endWrite (h : Turned a b c x t) (hc : t.curTurn d = some op.turn) (xf : Xfer) (f : Frame) :
    Turned a b c x (t.endWrite d op xf f) :=
  have k := (Calm.refl t).layDown d op.phys xf.sector f
  ((h.calm k).writeOutcome ((k.curTurn d).trans hc)).calm ((Calm.refl _).afterTransfer d xf true)

theorem Turned.holderStart (h : Turned a b c x t) (d : DriveId) (op : Op) (xf : Xfer) (n : Nat) :
    Turned a b c x (t.holderStart d op xf n) := by
  unfold State.holderStart
  have h1 := h.calm ((Calm.refl t).abandonGrant op xf)
  refine .ite (fun _ => h.calm (Calm.refl t).rest) fun _ => .ite (fun _ => h.calm ((Calm.refl t).beginTransfer d op xf)) fun _ =>
    .ite (fun _ => ?_) fun _ => h1
  exact .ite (fun _ => (h1.clearOp d).calm ((Calm.refl _).freeSlots _)) fun _ => h1.clearOp d

theorem Turned.sectorStart (h : Turned a b c x t) (d : DriveId) (n : Nat) : Turned a b c x (t.sectorStart d n) := by
  unfold State.sectorStart
  split
  · exact h
  · refine .ite (fun _ => ?_) fun _ => h.calm ((Calm.refl t).seekerStart d _ n)
    split
    · exact h.holderStart d _ _ n
    · exact h

/-! ## Channel reports (R34, R39, R105, R115) -/

theorem Turned.onCylinderReport (h : Turned a b c x t) (d : DriveId) : Turned a b c x (t.onCylinderReport d) := by
  unfold State.onCylinderReport
  split
  · exact h
  · split
    · exact h.makeWaiting d _
    · exact h.reachGoal d _
    all_goals exact h

theorem Turned.homeFoundReport (h : Turned a b c x t) (d : DriveId) : Turned a b c x (t.homeFoundReport d) := by
  unfold State.homeFoundReport
  split
  · exact h
  · split
    · exact h.makeWaiting d _
    · exact h.seekTo d _
    · exact .ite (fun hs => (h.clearOp d).mapStep hs (t.cur_clearOp d)) fun _ => h.clearOp d
    all_goals exact h

/-- A drive with nothing current has nothing current when orders end together. -/
theorem State.cur_windDown_none (e : DriveId) (h : (t.drive d).cur = none) : ((t.windDown e).drive d).cur = none := by
  have clear : ∀ v : State, (v.drive d).cur = none → ((v.clearOp e).drive d).cur = none := fun v hv => by
    rw [State.drive_clearOp]; split
    · rfl
    · exact hv
  have h1 : ((t.modDrive e fun x => { x with cur := x.cur.map fun op => { op with ended := true }, request := false }).drive d).cur = none := by
    rw [State.drive_modDrive]; split
    · simp [h]
    · exact h
  unfold State.windDown
  split
  · dsimp only
    split
    · split
      · exact clear _ h1
      · exact h1
    · exact h1
  · exact clear t h

theorem State.cur_endTogether_none (l : List Nat) (r : Result) (soft : Bool) (h : (t.drive d).cur = none) :
    ((t.endTogether l r soft).drive d).cur = none := by
  have k : Calm t ((((l.foldl (fun s n => s.endOrder n r) t).leaveWaitList l).leaveQueues l).ringDiscard l |>.dropRequests l) :=
    (((((Calm.refl t).foldl _ (fun _ _ hu => hu.endOrder _ _) l).leaveWaitList l).leaveQueues l).ringDiscard l).dropRequests l
  have stop : ∀ (es : List DriveId) (v : State), (v.drive d).cur = none → (((es.foldl (fun s e =>
      match (s.drive e).cur with
      | some op =>
        if op.kind.hostOrdered ∧ op.oid ∈ l then
          if op.kind = .surface ∧ soft then s.modOp e fun op => { op with lastTrack := true } else s.windDown e
        else s
      | none => s) v)).drive d).cur = none := by
    intro es
    induction es with
    | nil => exact fun v hv => hv
    | cons e es ih =>
      intro v hv
      refine ih _ ?_
      beta_reduce
      split
      · split
        · split
          · rw [State.modOp, State.drive_modDrive]; split
            · simp [hv]
            · exact hv
          · exact State.cur_windDown_none e hv
        · exact hv
      · exact hv
  have h1 := stop allDrives _ (State.cur_none_iff.mpr ((k.curTurn d).trans (State.cur_none_iff.mp h)))
  exact State.cur_none_iff.mpr ((((Calm.refl _).freeSlots l).curTurn d).trans (State.cur_none_iff.mp h1))

theorem Turned.stopDrive (h : Turned a b c none t) (d : DriveId) (r : Result) (ms : MapState) (keep : Option Nat) :
    Turned a b c none (t.stopDrive d r ms keep) := by
  have k := ((Calm.refl t).cutOff d).cutMapWrite d ms
  exact ((((h.calm k).abortReassign d).clearOp_self).endTogether _ r false).calm
    ((Calm.refl _).modDrive d _ ⟨rfl, rfl, rfl, nofun, nofun, nofun, nofun⟩)

theorem State.cur_stopDrive (t : State) (d : DriveId) (r : Result) (ms : MapState) (keep : Option Nat) :
    ((t.stopDrive d r ms keep).drive d).cur = none := by
  unfold State.stopDrive
  dsimp only
  rw [State.drive_modDrive_self]
  exact State.cur_endTogether_none _ _ _ (State.cur_clearOp _ d)

theorem Turned.enterNotReady (h : Turned a b c none t) (d : DriveId) : Turned a b c none (t.enterNotReady d) := by
  have k := (Calm.refl (t.stopDrive d .notReady .unsaved none)).modChan d Channel.stop
  refine Turned.calm (Turned.setDriveState ((h.stopDrive d _ _ _).calm k) (by decide) (fun _ _ => by decide) (.inl ?_)
    fun _ h' => by cases h') ((Calm.refl _).setNotice d _)
  exact State.cur_none_iff.mpr ((k.curTurn d).trans (State.cur_none_iff.mp (t.cur_stopDrive d _ _ _)))

theorem Turned.channelUpdate (h : Turned a b c none t) (d : DriveId) (home : Bool) : Turned a b c none (t.channelUpdate d home) := by
  unfold State.channelUpdate
  have k := (Calm.refl t).modChan d fun ch => ch.update t.m home
  have h2 := h.calm (.ite (c := (t.drive d).chan.updateHard t.m = true) (fun _ => k.tallyDrive d DriveTallies.raiseHardArrivals) fun _ => k)
  dsimp only
  split
  · exact h2
  · exact h2.onCylinderReport d
  · exact h2.homeFoundReport d
  · exact h2.enterNotReady d

end Sys2Proof.Machine
end

section
/-! The laws of the turns through selection and the immediate actions (R8, R77, R93, R100 to R104, R127). -/

namespace Sys2Proof.Machine

-- One declaration after the other: in parallel the one compile of the whole text runs out of threads.
set_option Elab.async false

variable {a b c : Prop} {x y : Option DriveId} {s t u : State} {d : DriveId} {op : Op}

/-! ## What a selection takes (R100 to R104) -/

theorem State.mem_eligibleEntries {e : Port × Order} (h : e ∈ s.eligibleEntries d) : s.hostEligible d e.2 = true := by
  obtain ⟨oid, -, h⟩ := List.mem_filterMap.mp h
  split at h
  · split at h
    · next he => cases h; exact he
    · cases h
  · cases h

/-- A search that keeps its best or takes the item at hand finds an item of the list. -/
theorem foldl_search_mem {α : Type} {f : Option α → α → Option α} (hf : ∀ b i e, f b i = some e → e = i ∨ b = some e) {l : List α} {b : Option α} {e : α}
    (h : l.foldl f b = some e) : e ∈ l ∨ b = some e := by
  induction l generalizing b with
  | nil => exact .inr h
  | cons i l ih =>
    rcases ih h with h | h
    · exact .inl (List.mem_cons_of_mem _ h)
    · exact (hf _ _ _ h).imp (fun he => List.mem_cons.mpr (.inl he)) id

theorem State.nearest_mem {arm : Nat} {inward : Bool} {es : List (Port × Order)} {e : Port × Order}
    (h : s.nearest d arm inward es = some e) : e ∈ es := by
  refine (foldl_search_mem (fun b i e he => ?_) h).resolve_right nofun
  cases b <;> dsimp only at he <;> split_ifs at he <;> cases he <;> simp

/-- R102 to R104: the entry chosen is one of the eligible ones. -/
theorem State.chooseEntry_mem {es : List (Port × Order)} {ch : Choice} (h : s.chooseEntry d es = some ch) : ch.entry ∈ es := by
  unfold State.chooseEntry at h
  dsimp only at h
  split at h
  · obtain ⟨e, he, rfl⟩ := Option.map_eq_some_iff.mp h
    exact List.mem_of_mem_head? he
  · split at h
    · next e he => cases h; exact List.mem_of_find?_eq_some he
    · split at h
      · next e he => cases h; exact State.nearest_mem he
      · obtain ⟨e, he, rfl⟩ := Option.map_eq_some_iff.mp h
        exact State.nearest_mem he

/-- R100, R139: a host-ordered entry runs on a READY drive, but for a SURFACE VERIFY, which waits for the verify engine and runs on a
FENCED drive when it is destructive. -/
theorem State.hostEligible_iff {o : Order} (h : s.hostEligible d o = true) :
    (o.kind ≠ .surfaceVerify → (s.drive d).state = .ready) ∧
      (o.kind = .surfaceVerify → s.verify.job = none ∧ (o.destructive = true → (s.drive d).state = .fenced)) := by
  unfold State.hostEligible at h
  split at h <;> simp_all

/-- R100: the drive state that lets a RECALIBRATE, a MAP LOAD or a MAP WRITE be selected. -/
theorem Drive.nextInternal_cases {x : Drive} {k : OpKind} (h : x.nextInternal = some k) :
    (k = .recalibrate ∧ x.pendRecal = true) ∨ (k = .mapLoad ∧ x.pendLoad = true) ∨ (k = .mapWrite ∧ x.pendWrite = true) ∨
      (k = .reassign ∧ x.pendReassign = true) := by
  unfold Drive.nextInternal at h
  split at h
  · next hp => cases h; exact .inl ⟨rfl, (Bool.and_eq_true_iff.mp hp).1⟩
  · split at h
    · next hp => cases h; exact .inr (.inl ⟨rfl, (Bool.and_eq_true_iff.mp hp).1⟩)
    · split at h
      · next hp => cases h; exact .inr (.inr (.inl ⟨rfl, (Bool.and_eq_true_iff.mp hp).1⟩))
      · split at h
        · next hp => cases h; exact .inr (.inr (.inr ⟨rfl, (Bool.and_eq_true_iff.mp hp).1⟩))
        · cases h

theorem OrderKind.opKind_cases (k : OrderKind) : k.opKind ≠ .surface ∧ k.opKind ≠ .reassign := by cases k <;> decide

/-! ## Selection -/

theorem Turned.startInternal (h : Turned a b c none t) {k : OpKind} (hn : (t.drive d).cur = none)
    (hk : (t.drive d).nextInternal = some k) : Turned a b c none (t.startInternal d k) := by
  obtain ⟨rfl, hp⟩ | ⟨rfl, hp⟩ | ⟨rfl, hp⟩ | ⟨rfl, hp⟩ := Drive.nextInternal_cases hk
  · have hg : c → (t.drive d).geom ≠ none := fun h' hg => by
      rw [((h.engine h').geometry d hg).2.2.1] at hp; cases hp
    have k := (Calm.refl t).modDrive d (fun x => { x with pendRecal := false }) ⟨rfl, rfl, rfl, nofun, id, .inl, id⟩
    refine ((h.calm k).startOp ?_ (by simp [Op.internal]) (fun h' => ?_) fun _ hk => by cases hk).recalFor d _
    · exact State.cur_none_iff.mpr ((k.curTurn d).trans (State.cur_none_iff.mp hn))
    · rw [k.geom]; exact hg h'
  · have hg : c → (t.drive d).geom ≠ none := fun h' hg => by
      rw [((h.engine h').geometry d hg).2.2.2.1] at hp; cases hp
    have k := (Calm.refl t).modDrive d (fun x => { x with pendLoad := false }) ⟨rfl, rfl, rfl, id, nofun, .inl, id⟩
    exact (h.calm k).startMapLoad (State.cur_none_iff.mpr ((k.curTurn d).trans (State.cur_none_iff.mp hn)))
      fun h' => by rw [k.geom]; exact hg h'
  · have hg : c → (t.drive d).geom ≠ none := fun h' hg => by
      rw [((h.engine h').geometry d hg).2.2.2.2] at hp; cases hp
    have k := (Calm.refl t).modDrive d (fun x => { x with pendWrite := false }) ⟨rfl, rfl, rfl, id, id, nofun, id⟩
    exact (h.calm k).startMapWrite (State.cur_none_iff.mpr ((k.curTurn d).trans (State.cur_none_iff.mp hn)))
      fun h' => by rw [k.geom]; exact hg h'
  · exact h.startReassign hp hn

theorem Turned.startHost (h : Turned a b c x t) (p : Port) (o : Order) (hn : (t.drive d).cur = none)
    (hg : c → (t.drive d).geom ≠ none) : Turned a b c x (t.startHost d p o) := by
  obtain ⟨hs, hr⟩ := OrderKind.opKind_cases o.kind
  exact (h.startOp hn (by simpa [Op.internal] using hs) hg fun _ hk => absurd hk (by simpa [Op.internal] using hr)).seekTo d _

theorem Turned.takeEntry (h : Turned a b c x t) (es : List (Port × Order)) (ch : Choice) (hn : (t.drive d).cur = none)
    (he : t.hostEligible d ch.entry.2 = true) : Turned a b c x (t.takeEntry d es ch) := by
  unfold State.takeEntry
  obtain ⟨hready, hsurf⟩ := State.hostEligible_iff he
  have k := ((Calm.ite (c := ch.passes = true) (fun _ => (Calm.refl t).passOver es ch.entry.2.oid) fun _ => Calm.refl t).modDrive d
    fun x => { x with queue := x.queue.filter fun n => n ≠ ch.entry.2.oid, sweepIn := ch.sweepIn }).modOrder ch.entry.2.oid
      fun o => { o with state := .active }
  have hn1 := State.cur_none_iff.mpr ((k.curTurn d).trans (State.cur_none_iff.mp hn))
  refine .ite (fun hk => ?_) fun hk => (h.calm k).startHost _ _ hn1 fun h' => ?_
  · obtain ⟨hj, hd⟩ := hsurf hk
    exact (h.calm k).startSurface _ _ hn1 (k.job.trans hj) fun hdes => (k.state d).trans (hd hdes)
  · rw [k.geom]
    exact h.geom_of_state (by rw [hready hk]; decide) h'

theorem Turned.select (h : Turned a b c none s) (hs : s.select d = some t) : Turned a b c none t := by
  unfold State.select at hs
  split at hs
  · cases hs
  · next hn =>
    have hn' : (s.drive d).cur = none := by simpa using hn
    split at hs
    · next k hk => cases hs; exact h.startInternal hn' hk
    · obtain ⟨ch, hch, rfl⟩ := Option.map_eq_some_iff.mp hs
      exact h.takeEntry _ ch hn' (State.mem_eligibleEntries (State.chooseEntry_mem hch))

/-! ## The immediate actions -/

theorem Turned.actCandidate (h : Turned a b c none s) (hs : s.actCandidate = some t) : Turned a b c none t := by
  unfold State.actCandidate at hs
  split at hs
  · next hf =>
    obtain ⟨i, hi, rfl⟩ := Option.map_eq_some_iff.mp hs
    obtain ⟨e, hw, he⟩ := bestCandidate_mem hi
    exact h.takeCandidate hf hw he
  · cases hs

/-- R8: the spin-up turn is granted only while no drive has it. -/
theorem State.actSpin_free (h : s.actSpin = some t) :
    (∀ e, (s.drive e).state ≠ .spinningUp) ∧ ∃ d, (s.drive d).state = .waitingSpin ∧ t = s.enterSpinningUp d := by
  refine ⟨fun e he => ?_, State.actSpin_eq h⟩
  unfold State.actSpin at h
  rw [if_pos] at h
  · cases h
  · exact List.any_eq_true.mpr ⟨e, mem_allDrives e, by simpa using he⟩

theorem Turned.act (h : Turned a b c none s) (hs : s.act = some t) : Turned a b c none t := by
  have k := Calm.refl s
  rcases State.act_cases hs with hs | hs | hs | hs | hs | hs | hs | hs | hs | hs
  · obtain ⟨_, _, _, _, rfl⟩ := State.actBoundary_eq hs; exact h.calm k.rest
  · obtain ⟨p, _, rfl⟩ := State.actOffer_eq hs; exact h.calm (k.modPort p _)
  · obtain ⟨_, _, _, rfl⟩ | ⟨_, rfl⟩ := State.actSlots_eq hs
    · exact h.calm (k.giveSlot _ _ _)
    · exact h.calm k.rest
  · obtain ⟨_, rfl⟩ := State.actFence_eq hs; exact h.calm (k.endOrder _ _)
  · obtain ⟨_, rfl⟩ | ⟨_, _, _, rfl⟩ := State.actEnding_eq hs <;> exact h.calm k.rest
  · exact h.actCandidate hs
  · obtain ⟨_, hs⟩ := State.actSelect_eq hs; exact h.select hs
  · obtain ⟨_, d, rfl | ⟨_, _, ⟨_, rfl⟩ | rfl⟩⟩ := State.actGrant_eq hs
    · exact h.calm (k.modDrive d _)
    · exact h.calm (k.grant _ _)
    · exact h.calm ((k.modDrive d _).countMiss _ _)
  · obtain ⟨hfree, d, hd, rfl⟩ := State.actSpin_free hs
    exact h.enterSpinningUp hfree hd
  · obtain ⟨p, _, hs⟩ := State.actSend_eq hs
    cases hs <;> exact h.calm (k.modPort p _)

theorem Turned.settle (h : Turned a b c none s) (n : Nat) : Turned a b c none (settle n s) :=
  settle_rel (P := fun s t => Turned a b c none s → Turned a b c none t) (fun _ => id) (fun _ _ _ h1 h2 => h2 ∘ h1)
    (fun _ _ ha hs => hs.act ha) n s h

end Sys2Proof.Machine
end

section
/-! The laws of the turns through the commands. -/

namespace Sys2Proof.Machine

-- One declaration after the other: in parallel the one compile of the whole text runs out of threads.
set_option Elab.async false

variable {a b c : Prop} {x y : Option DriveId} {s t u : State} {d : DriveId} {op : Op} {k : OrderKind} {f : OrderFrame}

/-! ## The commands of the drives' lines and the timers -/

theorem Calm.cur_none (k : Calm s t) (h : (s.drive d).cur = none) : (t.drive d).cur = none :=
  State.cur_none_iff.mpr ((k.curTurn d).trans (State.cur_none_iff.mp h))

theorem Turned.qualified (h : Turned a b c x t) (hs : (t.drive d).state = .spinningUp) : Turned a b c x (t.qualified d) := by
  have hne : (t.drive d).state ≠ .fenced := by rw [hs]; decide
  refine .ite (fun hg => h.enterRecalibrating (fun _ hn => by rw [hn] at hg; cases hg) (.inr hne)) fun hg => ?_
  refine (h.setDriveState (by decide) (fun _ _ => by decide) (.inr (.inr rfl)) fun h' _ => ?_).calm ((Calm.refl _).endStateOrders d _ _)
  cases hp : (t.drive d).pendReassign
  · rfl
  · exact absurd ((h.engine h').queued d hp).1 hg

theorem Turned.qualify (h : Turned a b c x t) (hs : (t.drive d).state = .spinningUp) (n : Nat) : Turned a b c x (t.qualify d n) := by
  unfold State.qualify
  have k := (Calm.refl t).modDrive d fun x => { x with qual := if inTolerance (t.drive d).period n then (t.drive d).qual + 1 else 0 }
  exact .ite (fun _ => (h.calm k).qualified ((k.state d).trans hs)) fun _ => h.calm k

theorem Turned.indexPulse (h : Turned a b c x t) (d : DriveId) : Turned a b c x (t.indexPulse d) := by
  unfold State.indexPulse
  have k := Calm.refl t
  refine .ite (fun _ => h.calm (k.modDrive d _)) fun _ => Turned.sectorStart ?_ d 0
  have k1 := k.modDrive d fun x => { x with counter := 0, lastIndex := some t.clock }
  have k2 := Calm.ite (c := (t.drive d).state.armed = true)
    (fun _ => k1.modDrive d fun x => { x with watchFrom := t.clock, watchLimit := x.twoPeriods }) fun _ => k1
  split
  · exact .ite (fun hs => (h.calm k2).qualify ((k2.state d).trans hs) _) fun _ => h.calm k2
  · exact h.calm k2

theorem Turned.sectorPulse (h : Turned a b c x t) (d : DriveId) : Turned a b c x (t.sectorPulse d) :=
  .ite (fun _ => (h.calm ((Calm.refl t).modDrive d _)).sectorStart d _) fun _ => h

theorem State.transferOf_cur {xf : Xfer} (h : s.transferOf d = some (op, xf)) : (s.drive d).cur = some op := by
  unfold State.transferOf at h
  split at h
  · split at h
    · next hop _ => split at h <;> cases h; exact hop
    · cases h
  · cases h

theorem Turned.sectorReadEnd (h : Turned a b c none t) (d : DriveId) (seen : Option Frame) :
    Turned a b c none (t.sectorReadEnd d seen) := by
  unfold State.sectorReadEnd
  split
  · next ht => exact .ite (fun _ => h.endRead (State.curTurn_of (State.transferOf_cur ht)) _ _) fun _ => h
  · exact h

theorem Turned.sectorWriteEnd (h : Turned a b c none t) (d : DriveId) : Turned a b c none (t.sectorWriteEnd d) := by
  unfold State.sectorWriteEnd
  split
  · next ht =>
    split
    · exact h.endWrite (State.curTurn_of (State.transferOf_cur ht)) _ _
    · exact h
  · exact h

/-! ## Power and the string reset (R20, R21, R168) -/

/-- The laws hold while nothing is current and no internal operation is pending. -/
theorem Turned.of_idle (hs : a → t.spinLaw) (hj : t.verify.job = none) (hc : ∀ d, (t.drive d).cur = none)
    (hp : ∀ d, (t.drive d).pendRecal = false ∧ (t.drive d).pendLoad = false ∧ (t.drive d).pendWrite = false ∧
      (t.drive d).pendReassign = false)
    (hg : c → ∀ d, (t.drive d).geom = none → (t.drive d).state ∈ restStates) : Turned a b c x t := by
  refine ⟨hs, fun _ => ⟨fun j h => ?_, fun d op h => ?_⟩, fun h' => ⟨fun d h => ?_, fun d h => ?_, fun d op h => ?_, fun d op h => ?_⟩⟩
  · rw [hj] at h; cases h
  · rw [hc d] at h; cases h
  · obtain ⟨p1, p2, p3, -⟩ := hp d; exact ⟨hg h' d h, hc d, p1, p2, p3⟩
  · obtain ⟨-, -, -, p4⟩ := hp d; rw [p4] at h; cases h
  · rw [hc d] at h; cases h
  · rw [hc d] at h; cases h

theorem Drive.atPowerOn_idle (m sv : Bool) (seen : Option (Fin 16)) (old : Drive) :
    (Drive.atPowerOn m sv seen old).cur = none ∧ (Drive.atPowerOn m sv seen old).pendRecal = false ∧
      (Drive.atPowerOn m sv seen old).pendLoad = false ∧ (Drive.atPowerOn m sv seen old).pendWrite = false ∧
      (Drive.atPowerOn m sv seen old).pendReassign = false := by
  have h : ∀ s, (Drive.defaults s).cur = none ∧ (Drive.defaults s).pendRecal = false ∧ (Drive.defaults s).pendLoad = false ∧
      (Drive.defaults s).pendWrite = false ∧ (Drive.defaults s).pendReassign = false := fun s => by
    cases s <;> exact ⟨rfl, rfl, rfl, rfl, rfl⟩
  unfold Drive.atPowerOn
  dsimp only
  split
  · exact h _
  · exact h _

theorem State.drive_poweredOn (s : State) (plugs : Plugs) (poll : Poll) (d : DriveId) :
    (s.poweredOn plugs poll).drive d = Drive.atPowerOn plugs.mode8 (served plugs.mode8 d) (poll.get d) (s.drive d) := Oct.get_of _ _

theorem Drive.atPowerOn_state (m sv : Bool) (seen : Option (Fin 16)) (old : Drive) :
    (Drive.atPowerOn m sv seen old).state = if (if sv then seen else none).isSome then .waitingSpin else .absent := rfl

theorem Drive.atPowerOn_waits (m sv : Bool) (seen : Option (Fin 16)) (old : Drive) :
    (Drive.atPowerOn m sv seen old).state = .waitingSpin ∨ (Drive.atPowerOn m sv seen old).state = .absent := by
  by_cases h : (if sv then seen else none).isSome = true
  · exact .inl ((Drive.atPowerOn_state m sv seen old).trans (if_pos h))
  · exact .inr ((Drive.atPowerOn_state m sv seen old).trans (if_neg h))

/-- R21, R168: after a power-on every drive waits for its spin-up turn or is ABSENT. -/
theorem Turned.powerOn (s : State) (plugs : Plugs) (poll : Poll) : Turned a b c none (s.powerOn plugs poll) := by
  refine Turned.settle (Turned.of_idle (fun _ d e h => ?_) rfl (fun d => ?_) (fun d => ?_) fun _ d _ => ?_) _
  · rw [State.drive_poweredOn] at h
    rcases Drive.atPowerOn_waits plugs.mode8 (served plugs.mode8 d) (poll.get d) ((if s.powered then s.tearWrite else s).drive d) with h' | h' <;> rw [h'] at h <;> cases h
  · rw [State.drive_poweredOn]; exact (Drive.atPowerOn_idle _ _ _ _).1
  · rw [State.drive_poweredOn]; exact (Drive.atPowerOn_idle _ _ _ _).2
  · rw [State.drive_poweredOn]
    rcases Drive.atPowerOn_waits plugs.mode8 (served plugs.mode8 d) (poll.get d) ((if s.powered then s.tearWrite else s).drive d) with h' | h' <;> rw [h'] <;> decide

theorem Turned.cutString (h : Turned a b c none t) : Turned a b c none t.cutString :=
  (h.calm (Calm.refl t).tearWrite).foldl _ (fun _ e hv => ((hv.calm ((Calm.refl _).cutMapWrite e _)).abortReassign e).clearOp_self) _

/-- A drive that the poll judges takes a state without a turn, or RECALIBRATING where it was led on before (R20). -/
theorem Turned.applyPoll (h : Turned a b c x t) (hc : (t.drive d).cur = none) (seen : Option (Fin 16)) :
    Turned a b c x (t.applyPoll d seen) := by
  unfold State.applyPoll
  have k : Calm t (t.modDrive d fun x => x.polled seen) :=
    (Calm.refl t).modDrive d _ (by unfold Drive.polled; split <;> exact ⟨rfl, rfl, rfl, id, id, .inl, id⟩)
  have hc1 := k.cur_none hc
  have h1 := h.calm k
  have rest : ∀ st, st ≠ .spinningUp → st ≠ .fenced → st ∈ restStates →
      Turned a b c x ((t.modDrive d fun x => x.polled seen).setDriveState d st) := fun st h2 h3 h4 =>
    h1.setDriveState h2 (fun _ _ => h4) (.inl hc1) fun _ h5 => absurd h5 h3
  have recal : (t.drive d).state ∉ restStates → Turned a b c x ((t.modDrive d fun x => x.polled seen).enterRecalibrating d) :=
    fun hs => h1.enterRecalibrating (h1.geom_of_state (by rw [k.state]; exact hs)) (.inl hc1)
  have wait := rest .waitingSpin (by decide) (by decide) (by decide)
  dsimp only
  split
  · exact rest .absent (by decide) (by decide) (by decide)
  · split
    case h_1 | h_2 | h_3 => exact wait
    case h_4 hs | h_5 hs | h_6 hs | h_7 hs => exact .ite (fun _ => recal (by rw [hs]; decide)) fun _ => wait
    case h_8 | h_9 =>
      refine .ite (fun _ => h1.change _ rfl .inl (fun h' hg => ?_) (fun h' hq => (h1.engine h').queued d hq) (.inl hc1)) fun _ => wait
      obtain ⟨g1, g2, g3, g4, g5⟩ := (h1.engine h').geometry d hg
      exact ⟨hg, g1, by simpa using hg, g4, g5⟩
    case h_10 => exact .ite (fun _ => h1) fun _ => wait

theorem State.cur_applyPoll (s : State) (d e : DriveId) (seen : Option (Fin 16)) :
    ((s.applyPoll d seen).drive e).cur = (s.drive e).cur := by
  have hm : ∀ (t : State) (f : Drive → Drive), (∀ x, (f x).cur = x.cur) → ((t.modDrive d f).drive e).cur = (t.drive e).cur :=
    fun t f hf => by rw [State.drive_modDrive]; split <;> [exact hf _; rfl]
  have h0 := hm s (fun x => x.polled seen) fun x => by unfold Drive.polled; split <;> rfl
  have hr : ∀ t : State, ((t.enterRecalibrating d).drive e).cur = (t.drive e).cur := fun t => by
    rw [State.enterRecalibrating, hm]
    · exact t.cur_setDriveState d e _
    · exact fun _ => rfl
  unfold State.applyPoll
  dsimp only
  split
  · exact (State.cur_setDriveState _ _ _ _).trans h0
  · split
    case h_1 | h_2 | h_3 => exact (State.cur_setDriveState _ _ _ _).trans h0
    case h_4 | h_5 | h_6 | h_7 =>
      split
      · exact (hr _).trans h0
      · exact (State.cur_setDriveState _ _ _ _).trans h0
    case h_8 | h_9 =>
      split
      · rw [hm]
        · exact h0
        · exact fun _ => rfl
      · exact (State.cur_setDriveState _ _ _ _).trans h0
    case h_10 =>
      split
      · exact h0
      · exact (State.cur_setDriveState _ _ _ _).trans h0

theorem Turned.applyPolls (h : Turned a b c x t) (hc : ∀ d, (t.drive d).cur = none) (poll : Poll) : Turned a b c x (t.applyPolls poll) := by
  have key : ∀ (l : List DriveId) (v : State), Turned a b c x v → (∀ d, (v.drive d).cur = none) →
      Turned a b c x (l.foldl (fun s d => if served s.plugs.mode8 d then s.applyPoll d (poll.get d) else s) v) := by
    intro l
    induction l with
    | nil => exact fun v hv _ => hv
    | cons d l ih =>
      intro v hv hn
      refine ih _ (.ite (fun _ => hv.applyPoll (hn d) _) fun _ => hv) fun e => ?_
      beta_reduce
      split
      · exact (State.cur_applyPoll v d e _).trans (hn e)
      · exact hn e
  exact key _ t h hc

theorem Turned.stringReset (h : Turned a b c none t) (cause : StartCause) (own : Option Nat) (poll : Poll) :
    Turned a b c none (t.stringReset cause own poll) := by
  have h1 := h.cutString
  unfold State.stringReset
  dsimp only
  generalize t.cutString = v at h1 ⊢
  have hd : ∀ d, (v.drives.map Drive.atReset).get d = (v.drive d).atReset := fun d => Oct.get_map _ _ _
  refine Turned.applyPolls (Turned.of_idle (fun h' d e hs he => ?_) rfl (fun d => ?_) (fun d => ?_) fun h' d hg => ?_) (fun d => ?_) poll
  · rw [State.drive, hd] at hs he; exact h1.spin h' d e hs he
  · rw [State.drive, hd]; rfl
  · rw [State.drive, hd]; exact ⟨rfl, rfl, rfl, rfl⟩
  · rw [State.drive, hd] at hg ⊢; exact ((h1.engine h').geometry d hg).1
  · rw [State.drive, hd]; rfl

/-! ## Orders -/

/-- R150: an order that names a drive is accepted on one that is not ABSENT and whose state allows it. -/
theorem State.judge_drive {tag : Tag} (h : s.judge k f tag = none) (hk : k.namesDrive = true) :
    (s.drive ((s.accessOf f).phys.getD 0)).state ≠ .absent ∧ s.stateAllows ((s.accessOf f).phys.getD 0) k f = true := by
  unfold State.judge at h
  split at h
  · cases h
  split at h
  · cases h
  split at h
  · cases h
  unfold State.judgeDrive at h
  split at h
  · cases h
  next d hd =>
  rw [hd, Option.getD_some]
  split at h
  · cases h
  split at h
  · cases h
  next habs =>
  split at h
  · cases h
  split at h
  · cases h
  split at h
  · cases h
  split at h
  · cases h
  next hst => exact ⟨habs, by simpa using hst⟩

theorem Turned.receiveOrder (h : Turned a b c none s) {go : Nat → DriveId → State → State}
    (hgo : ∀ tag u, s.judge k f tag = none → (∀ e, u.drive e = s.drive e) → (∀ p, (u.port p).window = (s.port p).window) →
      Turned a b c none u → Turned a b c none (go s.nextOid ((s.accessOf f).phys.getD 0) u)) :
    Turned a b c none (s.receiveOrder k f go) := by
  unfold State.receiveOrder
  split
  · next tag _ _ =>
    split
    · exact h.calm (Calm.refl s).rest
    · next hj =>
      refine hgo tag _ hj (fun _ => rfl) (fun p => ?_) (h.calm (Calm.refl s).rest)
      by_cases hp : p = f.port
      · subst hp; rw [State.port_accept_self]
      · rw [State.port_accept_ne _ _ _ _ _ hp]
  · exact h.calm (Calm.refl s).rest

theorem Calm.reassignTrackOn (k : Calm s t) (home : Track) (n : Nat) (d : DriveId) : Calm s (reassignTrackOn home n d t) := by
  unfold Machine.reassignTrackOn
  refine .ite (fun _ => ?_) fun _ => ?_
  · refine k.setEngine _ rfl rfl ?_
    rw [Option.map_map]; rfl
  · split
    · split
      · exact k.overflowWatch.endOrder _ _
      · next i hi => exact k.candidate _ fun e he hc => absurd hc (slotForNew_free hi e he)
    · next i _ =>
      split
      · exact k
      · next e he =>
        have same : ∀ g, watchEntry t.watch i = some g → g.state = .candidate → e.drive = g.drive := fun g hg _ => by
          rw [he] at hg; cases hg; rfl
        split
        · exact k.candidate _ same
        · exact k.candidate _ same
        · exact k.setWatch (.setEntry he id rfl)

/-- R44, R166: a geometry is put on a drive with nothing current and, where it is FENCED or had none, no REASSIGN queued. -/
theorem Turned.putGeometry (h : Turned a b c x t) (g : Geometry) (hc : (t.drive d).cur = none)
    (hs : (t.drive d).state = .fenced ∨ (t.drive d).geom = none) : Turned a b c x (t.putGeometry d g) := by
  have hq : c → (t.drive d).pendReassign = false := fun h' => by
    cases hp : (t.drive d).pendReassign
    · rfl
    · obtain ⟨q1, q2, -⟩ := (h.engine h').queued d hp
      rcases hs with hs | hs
      · exact absurd hs q2
      · rw [hs] at q1; cases q1
  refine .ite (fun _ => ?_) fun _ => ?_
  · unfold State.newGeometry State.stopChannel
    dsimp only
    have k := (Calm.refl t).modChan d Channel.stop
    have hq1 : c → ((t.modChan d Channel.stop).drive d).pendReassign = false := fun h' =>
      Bool.eq_false_iff.mpr fun hp => by have := (k.drive d).reassign hp; rw [hq h'] at this; cases this
    have h2 := (h.calm k).change (d := d) (fun x =>
      { x with pendRecal := false, geom := some g, geomLater := false, policy := x.policy.within g.s }) rfl .inl (fun _ hn => by cases hn)
      (fun h' hp => by have h3 := hq1 h'; rw [show _ = true from hp] at h3; cases h3) (.inl (k.cur_none hc))
    refine .ite (fun _ => h2) fun _ => ?_
    have k2 : Calm ((t.modChan d Channel.stop).modDrive d fun x =>
      { x with pendRecal := false, geom := some g, geomLater := false, policy := x.policy.within g.s }) _ :=
      (Calm.refl _).modDrive d Drive.emptyMap
    refine (h2.calm k2).forgetDrive fun h' => Bool.eq_false_iff.mpr fun hp => ?_
    have h3 := (k2.drive d).reassign hp
    rw [State.drive_modDrive_self] at h3
    have h4 := hq1 h'
    rw [show _ = true from h3] at h4
    cases h4
  · exact h.change _ rfl .inl (fun _ hn => by cases hn)
      (fun h' hp => by have h3 := hq h'; rw [show _ = true from hp] at h3; cases h3) (.inl hc)

theorem Turned.storePut (h : Turned a b c x t) (w : Window) (tb : TableId) (body : List Byte)
    (hg : tb = .geometry → (t.drive (driveOf w.index)).cur = none ∧
      ((t.drive (driveOf w.index)).state = .fenced ∨ (t.drive (driveOf w.index)).geom = none)) :
    Turned a b c x (t.storePut w tb body).1 := by
  have k := Calm.refl t
  cases tb <;> unfold State.storePut <;> dsimp only
  case portAccess =>
    split
    · exact h
    · have drop : ∀ (p : Prop) [Decidable p] (x : Drive), Drive.Calm x (if p then { x with holder := none } else x) := fun p _ x => by
        split <;> exact ⟨rfl, rfl, rfl, id, id, .inl, id⟩
      exact h.calm (k.trans ⟨fun d => (congrArg (Drive.Calm _) (Oct.get_of _ _)).mpr (drop _ _), .refl _, rfl, rfl, rfl, rfl⟩)
  case geometry => exact h.putGeometry _ (hg rfl).1 (hg rfl).2
  case motionProfile => exact h.calm (k.modDrive _ _)
  case sparingPolicy => exact h.calm (k.modDrive _ _).expireAll
  case spareMap => exact h.calm (k.modDrive _ _ (.putSlot _ _ _))
  case alternatePool =>
    split
    · exact h
    · next st _ => exact h.calm (k.modDrive w.drive (fun x => x.putPool w.index st) (.putPool _ _ _))
  case watchList => exact h

/-- R166: a GEOMETRY PUT that is accepted finds nothing current, and the drive FENCED or its geometry unset. -/
theorem State.tablePut_geometry {tag : Tag} (h : s.judge .tablePut f tag = none) (ht : (s.port f.port).window.table = some .geometry) :
    (s.drive (driveOf (s.port f.port).window.index)).cur = none ∧
      ((s.drive (driveOf (s.port f.port).window.index)).state = .fenced ∨
        (s.drive (driveOf (s.port f.port).window.index)).geom = none) := by
  unfold State.judge at h
  split at h
  · cases h
  split at h
  · cases h
  split at h
  · cases h
  rw [if_neg (by decide)] at h
  simp only [State.judgeTable, State.tablePutRefusal, ht] at h
  split at h
  · cases h
  split at h
  · cases h
  simp only [State.putRefusal, State.geometryRefusal] at h
  split at h
  · cases h
  next ho =>
  simp only [State.geometryOpen, Bool.not_eq_true', Bool.not_eq_false, Bool.and_eq_true, Bool.or_eq_true, decide_eq_true_eq,
    Option.isNone_iff_eq_none] at ho
  exact ⟨ho.1.1.2, ho.1.1.1⟩

theorem Turned.putTable {tag : Tag} (h : Turned a b c none u) (hj : s.judge .tablePut f tag = none)
    (hd : ∀ e, u.drive e = s.drive e) (hw : ∀ p, (u.port p).window = (s.port p).window) (n : Nat) :
    Turned a b c none (putTable f n d u) := by
  unfold Machine.putTable
  refine Turned.calm ?_ (((Calm.refl _).modOrder _ _).endOrder _ _)
  unfold State.tablePut
  dsimp only
  split
  · exact h
  · next tb htb =>
    refine (h.storePut _ tb f.body ?_).calm (Calm.refl _).rest
    rintro rfl
    rw [hd, hw]
    exact State.tablePut_geometry hj (hw f.port ▸ htb)

/-! ## Drive-state orders (R15, R17, R18) -/

/-- A drive needs no excuse while no REASSIGN is under way on it. -/
theorem Turned.settled (h : Turned a b c (some d) t) (hn : ¬t.copies d) : Turned a b c none t :=
  ⟨h.spin, h.verify, fun h' => have e := h.engine h'
    ⟨e.geometry, e.queued, fun d1 op h1 h2 h3 _ => e.current d1 op h1 h2 h3 fun hx => by cases hx; exact hn ⟨op, h1, h2, h3⟩, e.surface⟩⟩

theorem Turned.windDown_self (h : Turned a b c (some d) t) : Turned a b c none (t.windDown d) := by
  unfold State.windDown
  refine .ite (fun _ => ?_) fun _ => h.clearOp_self
  have h1 := h.endsWithTransfer d
  have h2 := h1.settled <| by
    rintro ⟨op, hop, -, he⟩
    rw [State.drive_modDrive_self] at hop
    obtain ⟨op0, -, rfl⟩ := Option.map_eq_some_iff.mp hop
    cases he
  dsimp only
  split
  · exact .ite (fun _ => (h1.calm (Calm.refl _).release).clearOp_self) fun _ => h2.calm ((Calm.refl _).setPath _)
  · exact h2

theorem Turned.windDownCurrent (h : Turned a b c (some d) t) : Turned a b c none (t.windDownCurrent d) := by
  unfold State.windDownCurrent
  split
  · next op hop =>
    refine .ite (fun _ => h.windDown_self) fun hk => h.settled ?_
    rintro ⟨op', hop', hk', -⟩
    rw [hop] at hop'
    cases hop'
    simp [hk'] at hk
  · next hop =>
    refine h.settled ?_
    rintro ⟨op', hop', -⟩
    rw [hop] at hop'
    cases hop'

/-- R4, R7: a drive in another drive state, with its watchdog started at `now` where that state arms it. -/
def Drive.toState (st : DriveState) (now : Nat) (x : Drive) : Drive :=
  { x with
    state := st, watchFrom := if st.armed && !x.state.armed then now else x.watchFrom,
    watchLimit := if st.armed && !x.state.armed then x.twoPeriods else x.watchLimit }

theorem State.setDriveState_toState (s : State) (d : DriveId) (st : DriveState) :
    s.setDriveState d st = s.modDrive d (Drive.toState st s.clock) := s.setDriveState_eq d st

theorem Drive.sparingUndone_toState (x : Drive) (home : Track) (st : DriveState) (n : Nat) :
    (x.toState st n).sparingUndone home = (x.sparingUndone home).toState st n := by
  have he : (x.toState st n).entryFor home = x.entryFor home := rfl
  unfold Drive.sparingUndone
  rw [he]
  split
  · rfl
  · next e _ =>
    have hp : (x.toState st n).releaseTrack = fun k => (x.releaseTrack k).toState st n := by
      funext k
      unfold Drive.releaseTrack
      have hg : (x.toState st n).geom = x.geom := rfl
      have hpool : (x.toState st n).pool = x.pool := rfl
      rw [hg, hpool]
      split
      · rfl
      · split <;> rfl
    rw [hp]
    split
    · split <;> rfl
    · rfl

/-- R15: the abort of a reassignment and the change of the drive state come to the same in either order. -/
theorem State.abortReassign_setDriveState (t : State) (d : DriveId) (st : DriveState) :
    (t.setDriveState d st).abortReassign d = (t.abortReassign d).setDriveState d st := by
  rw [State.setDriveState_toState, State.setDriveState_toState]
  unfold State.abortReassign
  have hd : ∀ f, (t.modDrive d f).engineDrive = t.engineDrive := fun _ => rfl
  have hr : ∀ f, (t.modDrive d f).reassign = t.reassign := fun _ => rfl
  rw [hd, hr]
  split
  · split
    · next i e _ _ _ =>
      have h : (t.modDrive d (Drive.toState st t.clock)).modDrive d (fun x => x.sparingUndone e.home) =
          (t.modDrive d fun x => x.sparingUndone e.home).modDrive d (Drive.toState st t.clock) := by
        rw [State.modDrive_modDrive, State.modDrive_modDrive]
        exact congrArg (t.modDrive d) (funext fun x => x.sparingUndone_toState e.home st t.clock)
      exact congrArg (fun s : State => (s.setWatch i e).engineFree) h
    · have h : (t.modDrive d (Drive.toState st t.clock)).modDrive d (fun x => { x with pendReassign := false }) =
          (t.modDrive d fun x => { x with pendReassign := false }).modDrive d (Drive.toState st t.clock) := by
        rw [State.modDrive_modDrive, State.modDrive_modDrive]
        rfl
      exact congrArg State.engineFree h
  · rfl

theorem Turned.fenceDrive (h : Turned a b c none t) (n : Nat) (d : DriveId) : Turned a b c none (fenceDrive n d t) := by
  unfold Machine.fenceDrive
  rw [State.abortReassign_setDriveState]
  exact (((h.abortReassign d).setDriveState (by decide) (fun _ _ => by decide) (.inr (.inr rfl))
    fun h' _ => t.abortReassign_queued h.engine d h').endTogether _ _ _).windDownCurrent

theorem Turned.unfenceDrive (h : Turned a b c x t) (n : Nat) (hg : (t.drive d).geom ≠ none) (hc : (t.drive d).cur = none) :
    Turned a b c x (unfenceDrive n d t) := by
  have k := ((Calm.refl t).modDrive d fun x => { x with mapHeld := false }).modChan d Channel.stop
  exact (h.calm k).enterRecalibrating (fun _ => by rw [k.geom]; exact hg) (.inl (k.cur_none hc))

theorem Turned.resetDrive (h : Turned a b c none t) (n : Nat) (ha : (t.drive d).state ≠ .absent) :
    Turned a b c none (resetDrive n d t) := by
  have k := ((Calm.refl (t.stopDrive d .reset .dirty (some n))).modChan d Channel.stop).modDrive d fun x =>
    { x with mapHeld := false, sweepIn := true }
  have h1 := (h.stopDrive d .reset .dirty (some n)).calm k
  have hc := k.cur_none (t.cur_stopDrive d .reset .dirty (some n))
  have hgeom := (k.geom d).trans (((Lawful.refl t).stopDrive d .reset .dirty (some n)).drive d).geom
  have recal := fun hs : c → (t.drive d).geom ≠ none => h1.enterRecalibrating (fun h' => by rw [hgeom]; exact hs h') (.inl hc)
  unfold Machine.resetDrive
  dsimp only
  split
  case h_1 | h_2 | h_3 => exact h1.setDriveState (by decide) (fun _ _ => by decide) (.inl hc) fun _ h' => by cases h'
  case h_4 =>
    exact .ite (fun _ => h1.calm ((Calm.refl _).endOrder _ _)) fun hn => recal fun _ => by simpa using hn
  case h_5 hs => exact absurd hs ha
  case h_6 hs | h_7 hs | h_8 hs | h_9 hs | h_10 hs => exact recal (h.geom_of_state (by rw [hs]; decide))

theorem Turned.commitMapOf (h : Turned a b c x t) (n : Nat) (hg : (t.drive d).geom ≠ none) : Turned a b c x (commitMapOf n d t) :=
  h.place _ (fun _ => hg) rfl rfl rfl rfl

/-! ## Every command -/

theorem Turned.run {g : State → State} (hg : ∀ u, Turned a b c none u → Turned a b c none (g u)) (hr : s.run g = .next t)
    (h : Turned a b c none s) : Turned a b c none t := by
  unfold State.run at hr
  split at hr
  · cases hr; exact (hg s h).settle _
  · cases hr; exact h

/-- A calm command is one that changes nothing the laws speak of. -/
theorem Turned.runCalm {g : State → State} (hg : ∀ u, Calm u (g u)) (hr : s.run g = .next t) (h : Turned a b c none s) :
    Turned a b c none t := .run (fun u hu => hu.calm (hg u)) hr h

theorem Calm.receiveOrder (k : OrderKind) (f : OrderFrame) {go : Nat → DriveId → State → State} (hgo : ∀ n d u, Calm u (go n d u))
    (s : State) : Calm s (s.receiveOrder k f go) := by
  unfold State.receiveOrder
  split
  · split
    · exact (Calm.refl s).rest
    · exact Calm.trans (Calm.refl s).rest (hgo _ _ _)
  · exact (Calm.refl s).rest

theorem Calm.joinQueue (n : Nat) (d : DriveId) (u : State) : Calm u (joinQueue n d u) := (Calm.refl u).modDrive d _

theorem Calm.getTable (f : OrderFrame) (n : Nat) (d : DriveId) (u : State) : Calm u (getTable f n d u) := by
  unfold Machine.getTable
  split
  · exact (((Calm.refl u).modPort _ _).modOrder _ _).endOrder _ _
  · exact .refl u

theorem Calm.receiveData (f : DataFrame) (s : State) : Calm s (s.receiveData f) := by
  unfold State.receiveData
  split
  · split
    · exact (Calm.refl s).setWslot _ _
    · exact (Calm.refl s).rest
  · exact (Calm.refl s).rest

theorem Calm.takeFrame (p : Port) (s : State) : Calm s (s.takeFrame p) := by
  have k := Calm.refl s
  unfold State.takeFrame
  split
  · exact k
  · unfold State.frameEffect
    split
    · exact (k.modPort _ _).modPort _ _
    · exact (k.modPort _ _).ringTaken _ _
    all_goals exact k.modPort _ _

theorem Calm.receiveUnknown (f : UnknownFrame) (s : State) : Calm s (s.receiveUnknown f) := by
  unfold State.receiveUnknown
  split
  · exact (Calm.refl s).rest
  · split <;> exact (Calm.refl s).rest

theorem Turned.receiveCancel (h : Turned a b c x s) (f : CancelFrame) : Turned a b c x (s.receiveCancel f) := by
  have k : ∀ p, Calm s (s.protocolError p) := fun _ => (Calm.refl s).rest
  unfold State.receiveCancel
  split
  · split
    · exact .ite (fun _ => h) fun _ => .ite (fun _ => .ite (fun _ => h.endTogether _ _ _) fun _ => h) fun _ => h.calm (k _)
    · exact h.calm (k _)
  · exact h.calm (k _)

theorem Turned.receiveReset (h : Turned a b c x s) (f : ResetFrame) : Turned a b c x (s.receiveReset f) := by
  refine .ite (fun _ => ?_) fun _ => h.calm (Calm.refl s).rest
  refine (h.endTogether _ _ _).calm (((Calm.refl _).modPort _ _).mapDrives _ fun x => ?_)
  split <;> exact ⟨rfl, rfl, rfl, id, id, .inl, id⟩

theorem Turned.timeOut (h : Turned a b c x s) (p : Port) (n : Nat) : Turned a b c x (s.timeOut p n) :=
  (h.calm (Calm.refl s).rest).endTogether _ _ _

theorem Turned.deliveryExpiry (h : Turned a b c x s) (p : Port) : Turned a b c x (s.deliveryExpiry p) := by
  unfold State.deliveryExpiry
  split
  · exact .ite (fun _ => h.timeOut _ _) fun _ => h
  · exact h

theorem Turned.receiveUnfence (h : Turned a b c none s) (f : OrderFrame) :
    Turned a b c none (s.receiveOrder .unfence f Machine.unfenceDrive) :=
  h.receiveOrder fun _ _ hj hd _ hu => by
    obtain ⟨-, hst⟩ := State.judge_drive hj rfl
    simp only [State.stateAllows, State.idleForUnfence, Bool.and_eq_true, decide_eq_true_eq, Option.isNone_iff_eq_none,
      Option.isSome_iff_ne_none] at hst
    obtain ⟨⟨-, hg⟩, ⟨⟨⟨⟨⟨⟨hc, -⟩, -⟩, -⟩, -⟩, -⟩, -⟩⟩ := hst
    exact hu.unfenceDrive _ (by rw [hd]; exact hg) (by rw [hd]; exact hc)

theorem Turned.receiveDriveReset (h : Turned a b c none s) (f : OrderFrame) :
    Turned a b c none (s.receiveOrder .driveReset f Machine.resetDrive) :=
  h.receiveOrder fun _ _ hj hd _ hu => hu.resetDrive _ (by rw [hd]; exact (State.judge_drive hj rfl).1)

theorem Turned.receiveCommit (h : Turned a b c none s) (f : OrderFrame) :
    Turned a b c none (s.receiveOrder .commitMap f Machine.commitMapOf) :=
  h.receiveOrder fun _ _ hj hd _ hu => by
    obtain ⟨-, hst⟩ := State.judge_drive hj rfl
    simp only [State.stateAllows, Bool.and_eq_true, Option.isSome_iff_ne_none] at hst
    exact hu.commitMapOf _ (by rw [hd]; exact hst.2)

theorem Turned.exec {i : Instr} (h : Turned a b c none s) (he : exec i s = .next t) : Turned a b c none t := by
  cases i <;> simp only [Machine.exec] at he
  case powerOn plugs poll => cases he; exact .powerOn s plugs poll
  case powerFailure =>
    unfold execPowerFailure at he
    split at he <;> cases he
    · exact h.calm (Calm.refl s).tearWrite.rest
    · exact h
  case stringResetLine => exact .run (fun _ hu => hu.stringReset _ _ _) he h
  case indexPulse => exact .run (fun _ hu => hu.indexPulse _) he h
  case sectorPulse => exact .run (fun _ hu => hu.sectorPulse _) he h
  case spinUpLimitExpiry => exact .run (fun _ hu => .ite (fun _ => hu.enterNotReady _) fun _ => hu) he h
  case indexWatchdogExpiry => exact .run (fun _ hu => .ite (fun _ => hu.enterNotReady _) fun _ => hu) he h
  case positionerUpdate => exact .run (fun _ hu => .ite (fun _ => hu.channelUpdate _ _) fun _ => hu) he h
  case onCylinderReport => exact .run (fun _ hu => .ite (fun _ => hu.channelUpdate _ _) fun _ => hu) he h
  case recalibrationFailed => exact .run (fun _ hu => .ite (fun _ => hu.channelUpdate _ _) fun _ => hu) he h
  case sectorReadEnd => exact .run (fun _ hu => hu.sectorReadEnd _ _) he h
  case sectorWriteEnd => exact .run (fun _ hu => hu.sectorWriteEnd _) he h
  case watchWindowExpiry => exact .runCalm (fun u => (Calm.refl u).expireWatch _) he h
  case read | write | verify | seek | surfaceVerify => exact .runCalm (Calm.receiveOrder _ _ .joinQueue) he h
  case reserve => exact .runCalm (Calm.receiveOrder _ _ fun _ d u => ((Calm.refl u).modDrive d _).endOrder _ _) he h
  case release => exact .runCalm (Calm.receiveOrder _ _ fun _ d u => ((Calm.refl u).modDrive d _).endOrder _ _) he h
  case sense => exact .runCalm (Calm.receiveOrder _ _ fun _ _ u => ((Calm.refl u).modOrder _ _).endOrder _ _) he h
  case tableSelect => exact .runCalm (Calm.receiveOrder _ _ fun _ _ u => ((Calm.refl u).modPort _ _).endOrder _ _) he h
  case tablePut => exact .run (fun _ hu => hu.receiveOrder fun _ _ hj hd hw hv => hv.putTable hj hd hw _) he h
  case tableGet => exact .runCalm (Calm.receiveOrder _ _ (.getTable _)) he h
  case readTallies =>
    exact .runCalm (Calm.receiveOrder _ _ fun _ _ u =>
      ((((Calm.refl u).mapDrives fun x => { x with tally := DriveTallies.zero }).rest).modOrder _ _).endOrder _ _) he h
  case reassignTrack => exact .runCalm (Calm.receiveOrder _ _ fun _ _ u => (Calm.refl u).reassignTrackOn _ _ _) he h
  case fence => exact .run (fun _ hu => hu.receiveOrder fun _ _ _ _ _ hv => hv.fenceDrive _ _) he h
  case unfence => exact .run (fun _ hu => hu.receiveUnfence _) he h
  case driveReset => exact .run (fun _ hu => hu.receiveDriveReset _) he h
  case commitMap => exact .run (fun _ hu => hu.receiveCommit _) he h
  case stringReset => exact .run (fun _ hu => hu.receiveOrder fun _ _ _ _ _ hv => hv.stringReset _ _ _) he h
  case hostDataFrame => exact .runCalm (.receiveData _) he h
  case cancel => exact .run (fun _ hu => hu.receiveCancel _) he h
  case portReset => exact .run (fun _ hu => hu.receiveReset _) he h
  case frameTaken => exact .runCalm (.takeFrame _) he h
  case deliveryTimeout => exact .run (fun _ hu => hu.deliveryExpiry _) he h
  case dataRequestTimeout => exact .run (fun _ hu => .ite (fun _ => hu.timeOut _ _) fun _ => hu) he h
  case unknownFrameKind => exact .runCalm (.receiveUnknown _) he h

theorem Turned.step (h : Turned a b c none s) (hs : step s = .next t) : Turned a b c none t := by
  unfold Machine.step at hs
  split at hs
  · cases hs
    exact h.calm (.ite (fun _ => (Calm.refl s).rest) fun _ => .refl s)
  · exact Turned.exec (h.calm (Calm.refl s).rest) hs

/-- Settles O16: each law is kept by every update of the model, the engines' two together. -/
theorem turnsKept : Obligations.TurnsKept := by
  unfold Obligations.TurnsKept
  intro s t hs
  refine ⟨fun h => ?_, fun h => ?_, fun hv he => ?_⟩
  · exact (Turned.step (a := True) (b := False) (c := False) ⟨fun _ => h, fun h => h.elim False.elim False.elim, False.elim⟩ hs).spin trivial
  · exact (Turned.step (a := False) (b := True) (c := False) ⟨False.elim, fun _ => h, False.elim⟩ hs).verify (.inl trivial)
  · exact State.engineBut_none.mp ((Turned.step (a := False) (b := False) (c := True)
      ⟨False.elim, fun _ => hv, fun _ => State.engineBut_none.mpr he⟩ hs).engine trivial)

end Sys2Proof.Machine
end

section
/-! Rotation and power failure: what a sector start leaves of the drives, and what a cut transfer leaves of the media. -/

namespace Sys2Proof.Machine

-- One declaration after the other: in parallel the one compile of the whole text runs out of threads.
set_option Elab.async false

variable {s t u : State} {d e : DriveId}

/-! ## What a drive sequencer leaves of the drives -/

/-- Every drive is as it was but for what its sequencer changes when it works (`Drive.base`). -/
def BasesKept (s t : State) : Prop := ∀ d, (t.drive d).base = (s.drive d).base

theorem BasesKept.refl (s : State) : BasesKept s s := fun _ => rfl

theorem BasesKept.trans (h1 : BasesKept s t) (h2 : BasesKept t u) : BasesKept s u := fun d => (h2 d).trans (h1 d)

theorem BasesKept.rest (h : BasesKept s t) {u : State} (hu : u.drives = t.drives := by rfl) : BasesKept s u := fun d => by
  rw [State.drive, hu]; exact h d

theorem BasesKept.ite {c : Prop} [Decidable c] {a b : State} (ha : c → BasesKept s a) (hb : ¬c → BasesKept s b) :
    BasesKept s (if c then a else b) := by split <;> rename_i hc <;> [exact ha hc; exact hb hc]

theorem BasesKept.foldl {α : Type} (f : State → α → State) (hf : ∀ v i, BasesKept s v → BasesKept s (f v i)) (l : List α)
    (h : BasesKept s t) : BasesKept s (l.foldl f t) := by
  induction l generalizing t with
  | nil => exact h
  | cons i l ih => exact ih (hf _ _ h)

theorem BasesKept.modDrive (h : BasesKept s t) (d : DriveId) (f : Drive → Drive)
    (hf : (f (t.drive d)).base = (t.drive d).base := by rfl) : BasesKept s (t.modDrive d f) := fun e => by
  rw [State.drive_modDrive]
  split
  · next he => subst he; exact hf.trans (h e)
  · exact h e

theorem BasesKept.endOrder (h : BasesKept s t) (n : Nat) (r : Result) : BasesKept s (t.endOrder n r) := h.rest (State.drives_endOrder t n r)

theorem BasesKept.endOrders (h : BasesKept s t) (d : DriveId) (q : Order → Bool) (r : Result) : BasesKept s (t.endOrders d q r) :=
  h.foldl _ (fun _ _ hv => hv.endOrder _ _) _

theorem BasesKept.clearOp (h : BasesKept s t) (d : DriveId) : BasesKept s (t.clearOp d) := fun e => by
  rw [State.drive_clearOp]
  split <;> exact h e

theorem BasesKept.takePlace (h : BasesKept s t) (op : Op) : BasesKept s (t.takePlace op) := h.rest (State.drives_takePlace t op)

theorem State.drives_giveBack (s : State) (op : Op) : (s.giveBack op).drives = s.drives := by
  unfold State.giveBack
  split
  · unfold State.ringBack; split <;> rfl
  · unfold State.setSlotState; split <;> rfl
  all_goals rfl

theorem BasesKept.giveBack (h : BasesKept s t) (op : Op) : BasesKept s (t.giveBack op) := h.rest (t.drives_giveBack op)

theorem BasesKept.countMiss (h : BasesKept s t) (d : DriveId) (op : Op) : BasesKept s (t.countMiss d op) := by
  unfold State.countMiss
  split
  · exact h.modDrive d _
  · exact h.modDrive d _
  all_goals exact h

theorem State.drives_freeSlots (s : State) (l : List Nat) : (s.freeSlots l).drives = s.drives := by
  have hf : ∀ (v : State) (i : Fin 8), (v.freeSlot i).drives = v.drives := fun v i => by
    unfold State.freeSlot
    dsimp only
    split
    · rfl
    · split
      · rfl
      · split <;> rfl
  unfold State.freeSlots
  generalize ([0, 1, 2, 3, 4, 5, 6, 7] : List (Fin 8)) = is
  induction is generalizing s with
  | nil => rfl
  | cons i is ih =>
    rw [List.foldl_cons, ih]
    split
    · exact hf s i
    · rfl

theorem BasesKept.consider (h : BasesKept s t) (d : DriveId) (op : Op) : BasesKept s (t.consider d op) :=
  .ite (fun _ => .ite (fun _ => h.modDrive d _) fun _ => h.countMiss d op) fun _ => h

theorem BasesKept.planContinuation (h : BasesKept s t) (d : DriveId) (op : Op) : BasesKept s (t.planContinuation d op).1 := by
  unfold State.planContinuation
  dsimp only
  split
  · split
    · exact h
    · exact h.countMiss d op
  · exact h

theorem BasesKept.setPath (h : BasesKept s t) (p : DataPath) : BasesKept s { t with path := p } := h.rest

theorem BasesKept.beginTransfer (h : BasesKept s t) (d : DriveId) (op : Op) (x : Xfer) : BasesKept s (t.beginTransfer d op x) := by
  unfold State.beginTransfer
  dsimp only
  refine BasesKept.setPath (BasesKept.planContinuation ?_ d op) _
  exact .ite (fun _ => (h.takePlace op).setPath _) fun _ => h

theorem BasesKept.abandonGrant (h : BasesKept s t) (op : Op) (x : Xfer) : BasesKept s (t.abandonGrant op x) :=
  (BasesKept.ite (fun _ => h) fun _ => h.giveBack op).rest

/-- R75 to R81: the start of a sector moves nothing but the drive sequencer. -/
theorem BasesKept.sectorStart (h : BasesKept s t) (d : DriveId) (n : Nat) : BasesKept s (t.sectorStart d n) := by
  unfold State.sectorStart
  split
  · exact h
  · next op _ =>
    refine .ite (fun _ => ?_) fun _ => ?_
    · split
      · next x _ =>
        have h1 := h.abandonGrant op x
        refine .ite (fun _ => h.rest) fun _ => .ite (fun _ => h.beginTransfer d op x) fun _ => .ite (fun _ => ?_) fun _ => h1
        exact .ite (fun _ => (h1.clearOp d).rest (State.drives_freeSlots _ _)) fun _ => h1.clearOp d
      · exact h
    · exact .ite (fun _ => .ite (fun _ => (h.modDrive d _).modDrive d _) fun _ => h) fun _ => .ite (fun _ => h.consider d op) fun _ => h

/-! ## A transfer cut off (R71, log 6) -/

theorem State.transferOf_eq {op : Op} {x : Xfer} (h : s.transferOf d = some (op, x)) :
    s.path.holder = some d ∧ (s.drive d).cur = some op ∧ s.path.xfer = some x ∧ x.begun = true := by
  unfold State.transferOf at h
  split at h
  · next hd =>
    split at h
    · next hop hx =>
      split at h
      · next hb => cases h; exact ⟨hd, hop, hx, hb⟩
      · cases h
    · cases h
  · cases h

theorem State.transferOf_of {op : Op} {x : Xfer} (hd : s.path.holder = some d) (hop : (s.drive d).cur = some op)
    (hx : s.path.xfer = some x) (hb : x.begun = true) : s.transferOf d = some (op, x) := by
  simp [State.transferOf, hd, hop, hx, hb]

/-- The media after a cut: a sector write in transfer on the drive has left its sector torn. -/
theorem State.media_cutOff (s : State) (d : DriveId) : (s.cutOff d).media = match s.transferOf d with
    | some (op, x) => match x.frame with
      | some f => mediaPut s.media (mediaKey d op.phys x.sector) (tornFrame (Config.headerLaid s.cuts) f)
      | none => s.media
    | none => s.media := by
  unfold State.cutOff
  split
  · next hd =>
    split
    · next op x hop hx =>
      have hm : ∀ v : State, ((if x.chained then v else v.giveBack op).release).media = v.media := fun v =>
        ((Work.ite (fun _ => .refl v) fun _ => (Work.refl v).giveBack op).release).laid
      dsimp only
      rw [hm]
      by_cases hb : x.begun = true
      · rw [State.transferOf_of hd hop hx hb]
        dsimp only
        cases x.frame with
        | none => rfl
        | some f => simp only [hb, if_true]; rfl
      · have hn : s.transferOf d = none := by simp [State.transferOf, hd, hop, hx, hb]
        rw [hn]
        split
        · rw [if_neg hb]
        · rfl
    · next hno =>
      have hn : s.transferOf d = none := by
        cases h : s.transferOf d with
        | none => rfl
        | some y =>
          obtain ⟨-, hop, hx, -⟩ := State.transferOf_eq (op := y.1) (x := y.2) h
          exact absurd hx (hno _ _ hop)
      rw [hn]
      rfl
  · next hd =>
    have hn : s.transferOf d = none := by simp [State.transferOf, hd]
    rw [hn]

/-- R71: a command that leaves the media as a cut on drive `d` does leaves them torn there, whichever drives it asks for. -/
theorem Torn.of_media {P : DriveId → Prop} (hm : t.media = (s.cutOff d).media) (hd : P d)
    (ho : ∀ e op x, P e → s.transferOf e = some (op, x) → e = d) : Torn s t P := by
  rw [State.media_cutOff] at hm
  refine ⟨fun e op x f he h hf => ?_, fun e op x f he h hf k hk => ?_, fun h => ?_⟩
  · obtain rfl := ho e op x he h
    rw [hm, h]
    simp only [hf]
    exact ⟨_, mediaGet_put_self _ _ _⟩
  · obtain rfl := ho e op x he h
    rw [hm, h]
    simp only [hf]
    exact mediaGet_put_ne _ _ hk
  · rw [hm]
    cases hx : s.transferOf d with
    | none => rfl
    | some y => simp only [h d y.1 y.2 hd hx]

/-- R71: the cut of one drive's transfer. -/
theorem Torn.cutOff (s : State) (d : DriveId) : Torn s (s.cutOff d) (· = d) := .of_media rfl rfl fun _ _ _ h _ => h

/-- R71: the cut of the transfer under way in the string. -/
theorem Torn.tearWrite (s : State) : Torn s s.tearWrite fun _ => True := by
  unfold State.tearWrite
  split
  · next d hd =>
    refine .of_media rfl trivial fun e op x _ h => ?_
    rw [(State.transferOf_eq h).1] at hd
    cases hd
    rfl
  · next hd =>
    have hn : ∀ e, s.transferOf e = none := fun e => by simp [State.transferOf, hd]
    exact ⟨fun e op x f _ h => (by rw [hn] at h; cases h), fun e op x f _ h => (by rw [hn] at h; cases h), fun _ => rfl⟩

theorem Torn.media_eq {P : DriveId → Prop} (h : Torn s t P) (hm : u.media = t.media) : Torn s u P :=
  ⟨by rw [hm]; exact h.torn, by rw [hm]; exact h.others, by rw [hm]; exact h.whole⟩

/-- The transfers under way before a step that moves neither them nor the media. -/
theorem Torn.before {P : DriveId → Prop} (h : Torn t u P) (hx : ∀ e, t.transferOf e = s.transferOf e) (hm : t.media = s.media) :
    Torn s u P :=
  ⟨fun e op x f => by rw [← hx]; exact h.torn e op x f, fun e op x f => by rw [← hx, ← hm]; exact h.others e op x f,
   fun h' => (h.whole fun e op x he ht => h' e op x he (by rw [← hx]; exact ht)).trans hm⟩

/-- Settles O6: the power goes, after the transfer under way is cut off. -/
theorem powerFailureTearsWrite : Obligations.PowerFailureTearsWrite := by
  unfold Obligations.PowerFailureTearsWrite
  intro s hp
  have he : exec .powerFailure s = .next s.powerFail := by simp [exec, execPowerFailure, hp]
  exact ⟨s.powerFail, he, rfl, (exec_lawful rfl he).settings, (Torn.tearWrite s).media_eq rfl⟩

/-! ## Sector pulses (R5) -/

/-- An update of one drive's own fields touches that drive alone. -/
theorem State.untouched_modDrive (s : State) (d : DriveId) (f : Drive → Drive) (D : List DriveId) (P : List Port)
    (hf : Drive.Lawful s.m (s.drive d) (f (s.drive d)) ∧ (f (s.drive d)).present = (s.drive d).present ∧
      (f (s.drive d)).plugType = (s.drive d).plugType)
    (hd : d ∉ D → (f (s.drive d)).counter = (s.drive d).counter ∧ (f (s.drive d)).holder = (s.drive d).holder) :
    Untouched s (s.modDrive d f) D P := by
  obtain ⟨hl, hp, ht⟩ := hf
  refine ⟨rfl, rfl, ⟨rfl, rfl, fun _ => rfl, fun e => ?_, fun e => ?_, fun e => ?_⟩, fun e => ?_, fun e he => ?_,
    fun _ _ => ⟨⟨rfl, rfl, rfl, rfl⟩, fun _ => rfl⟩⟩ <;> rw [State.drive_modDrive] <;> split
  · next h => subst h; exact hl.geom
  · rfl
  · next h => subst h; exact hl.profile
  · rfl
  · next h => subst h; exact hl.policy
  · rfl
  · next h => subst h; exact ⟨hp, ht⟩
  · exact ⟨rfl, rfl⟩
  · next h => subst h; exact hd he
  · exact ⟨rfl, rfl⟩

/-- Settles O9: the counter rises while it stays below S, and the sector start that follows moves nothing else. -/
theorem sectorPulseCounts : Obligations.SectorPulseCounts := by
  unfold Obligations.SectorPulseCounts
  intro d s hp ha
  refine ⟨_, State.run_powered hp fun s => s.sectorPulse d, ?_⟩
  by_cases hc : (s.drive d).counter + 1 < (s.drive d).sectors
  · have he : s.sectorPulse d = (s.modDrive d fun x => { x with counter := x.counter + 1 }).sectorStart d ((s.drive d).counter + 1) := by
      unfold State.sectorPulse
      exact if_pos ⟨ha, hc⟩
    have w := ((Work.refl (s.modDrive d fun x => { x with counter := x.counter + 1 })).sectorStart d ((s.drive d).counter + 1)).settle settleFuel
    rw [← he] at w
    rw [if_pos hc]
    refine ⟨(w.bus d).counter.trans (by rw [State.drive_modDrive_self]), (w.bus d).holder.trans (by rw [State.drive_modDrive_self]), w.laid,
      (State.untouched_modDrive s d _ [d] [] ⟨⟨rfl, rfl, rfl, id, id⟩, rfl, rfl⟩ fun h => absurd List.mem_cons_self h).work w⟩
  · have he : s.sectorPulse d = s := by
      unfold State.sectorPulse
      exact if_neg fun h => hc h.2
    have w := (Work.refl s).settle settleFuel
    rw [if_neg hc, he]
    exact ⟨(w.bus d).counter, (w.bus d).holder, w.laid, w.untouched _ _⟩

end Sys2Proof.Machine
end

section
/-! Rotation, the failures that take a drive out, and the drive-state orders that lead it on. -/

namespace Sys2Proof.Machine

-- One declaration after the other: in parallel the one compile of the whole text runs out of threads.
set_option Elab.async false

variable {s t u : State} {d e : DriveId}

/-! ## Index pulses (R5, R6, R7, R9) -/

/-- R5: the drive as an index pulse records it, before the interval is judged. -/
def Drive.pulsed (now : Nat) (x : Drive) : Drive :=
  { x with
    counter := 0, lastIndex := some now, watchFrom := if x.state.armed then now else x.watchFrom,
    watchLimit := if x.state.armed then x.twoPeriods else x.watchLimit }

/-- R5, R7: the record of an index pulse, the watchdog started again where it is armed. -/
theorem State.pulsed_eq (s : State) (d : DriveId) : (if (s.drive d).state.armed = true then
    (s.modDrive d fun x => { x with counter := 0, lastIndex := some s.clock }).modDrive d
      fun x => { x with watchFrom := s.clock, watchLimit := x.twoPeriods }
    else s.modDrive d fun x => { x with counter := 0, lastIndex := some s.clock }) = s.modDrive d (Drive.pulsed s.clock) := by
  have key : ∀ f g : Drive → Drive, f (s.drive d) = g (s.drive d) → s.modDrive d f = s.modDrive d g := fun f g hfg =>
    congrArg (fun x => { s with drives := s.drives.set d x }) hfg
  split
  · next harm =>
    rw [State.modDrive_modDrive]
    refine key _ _ ?_
    simp only [Drive.pulsed, harm, if_true]
    rfl
  · next harm => exact key _ _ (by simp [Drive.pulsed, harm])

/-- R6, R9: an index pulse that measures an interval in SPINNING UP. -/
theorem State.indexPulse_spinning {last : Nat} (hs : (s.drive d).state = .spinningUp) (hl : (s.drive d).lastIndex = some last) :
    s.indexPulse d = ((s.modDrive d (Drive.pulsed s.clock)).qualify d (s.clock - last)).sectorStart d 0 := by
  unfold State.indexPulse
  rw [if_neg (by rw [hs]; decide)]
  dsimp only
  rw [s.pulsed_eq d]
  simp only [hl, if_pos hs]

/-- R5, R7: an index pulse that measures none. -/
theorem State.indexPulse_other (ha : (s.drive d).state ≠ .absent) (h : (s.drive d).state ≠ .spinningUp ∨ (s.drive d).lastIndex = none) :
    s.indexPulse d = (s.modDrive d (Drive.pulsed s.clock)).sectorStart d 0 := by
  unfold State.indexPulse
  rw [if_neg ha]
  dsimp only
  rw [s.pulsed_eq d]
  cases hl : (s.drive d).lastIndex with
  | none => rfl
  | some t => exact congrArg (fun v : State => v.sectorStart d 0) (if_neg (h.resolve_right (by rw [hl]; nofun)))

theorem Drive.pulsed_lawful (m now : Nat) (x : Drive) : Drive.Lawful m x (x.pulsed now) := ⟨rfl, rfl, rfl, id, id⟩

/-- What follows the record of an index pulse is the work of the drive sequencers. -/
theorem State.indexPulse_work (s : State) (d : DriveId) (ha : (s.drive d).state ≠ .absent) :
    Work (s.modDrive d (Drive.pulsed s.clock)) (s.indexPulse d) := by
  by_cases h : (s.drive d).state ≠ .spinningUp ∨ (s.drive d).lastIndex = none
  · rw [State.indexPulse_other ha h]
    exact (Work.refl _).sectorStart d 0
  · push Not at h
    obtain ⟨last, hl⟩ := Option.ne_none_iff_exists'.mp h.2
    rw [State.indexPulse_spinning h.1 hl]
    exact ((Work.refl _).qualify d _).sectorStart d 0

theorem State.drive_endStateOrders (s : State) (d e : DriveId) (k : List OrderKind) (r : Result) :
    ((s.endStateOrders d k r).drive e) = s.drive e := by
  have key : ∀ (l : List Nat) (v : State), (l.foldl (fun s oid => s.endOrder oid r) v).drives = v.drives := by
    intro l
    induction l with
    | nil => exact fun _ => rfl
    | cons n l ih => exact fun v => (ih _).trans (State.drives_endOrder v n r)
  exact State.drive_eq_of_drives (key _ s) e

/-- R6, R9: what the judgement of an interval leaves of the drive that measured it. -/
theorem State.qualify_drive (s : State) (d : DriveId) (n : Nat) :
    ((s.qualify d n).drive d).lastIndex = (s.drive d).lastIndex ∧
      ((s.qualify d n).drive d).state = (if 3 ≤ (if inTolerance (s.drive d).period n then (s.drive d).qual + 1 else 0) then
        (if (s.drive d).geom.isSome then .recalibrating else .fenced) else (s.drive d).state) ∧
      ((s.qualify d n).drive d).qual = if inTolerance (s.drive d).period n then (s.drive d).qual + 1 else 0 := by
  unfold State.qualify
  dsimp only
  generalize (if inTolerance (s.drive d).period n = true then (s.drive d).qual + 1 else 0) = q
  split
  · unfold State.qualified
    by_cases hg : (s.drive d).geom.isSome = true
    · rw [if_pos (by rw [State.drive_modDrive_self]; exact hg), if_pos hg, State.enterRecalibrating, State.drive_modDrive_self,
        State.setDriveState_eq, State.drive_modDrive_self, State.drive_modDrive_self]
      exact ⟨rfl, rfl, rfl⟩
    · rw [if_neg (by rw [State.drive_modDrive_self]; exact hg), if_neg hg, State.drive_endStateOrders, State.setDriveState_eq,
        State.drive_modDrive_self, State.drive_modDrive_self]
      exact ⟨rfl, rfl, rfl⟩
  · rw [State.drive_modDrive_self]
    exact ⟨rfl, rfl, rfl⟩

theorem Drive.fields_of_base {x y : Drive} (h : x.base = y.base) : x.lastIndex = y.lastIndex ∧ x.state = y.state ∧ x.qual = y.qual ∧
    x.watchFrom = y.watchFrom ∧ x.watchLimit = y.watchLimit :=
  ⟨(congrArg Drive.lastIndex h :), (congrArg Drive.state h :), (congrArg Drive.qual h :), (congrArg Drive.watchFrom h :),
    (congrArg Drive.watchLimit h :)⟩

/-- R5, R7: the drive after an index pulse that measures no interval. -/
theorem State.indexPulse_other_drive (ha : (s.drive d).state ≠ .absent)
    (h : (s.drive d).state ≠ .spinningUp ∨ (s.drive d).lastIndex = none) :
    ((s.indexPulse d).drive d).lastIndex = some s.clock ∧ ((s.indexPulse d).drive d).state = (s.drive d).state ∧
      ((s.drive d).state.armed = true →
        ((s.indexPulse d).drive d).watchFrom = s.clock ∧ ((s.indexPulse d).drive d).watchLimit = 2 * (s.drive d).period) := by
  obtain ⟨h1, h2, -, h4, h5⟩ :=
    Drive.fields_of_base ((BasesKept.refl (s.modDrive d (Drive.pulsed s.clock))).sectorStart d 0 d)
  rw [State.drive_modDrive_self] at h1 h2 h4 h5
  rw [State.indexPulse_other ha h]
  exact ⟨h1, h2, fun harm => ⟨h4.trans (if_pos harm), h5.trans (if_pos harm)⟩⟩

/-- R6, R9: the drive after an index pulse that measures an interval in SPINNING UP. -/
theorem State.indexPulse_spinning_drive {last : Nat} (hs : (s.drive d).state = .spinningUp) (hl : (s.drive d).lastIndex = some last) :
    ((s.indexPulse d).drive d).lastIndex = some s.clock ∧
      ((s.indexPulse d).drive d).state =
        (if 3 ≤ (if inTolerance (s.drive d).period (s.clock - last) then (s.drive d).qual + 1 else 0) then
          (if (s.drive d).geom.isSome then .recalibrating else .fenced) else .spinningUp) ∧
      ((s.indexPulse d).drive d).qual = if inTolerance (s.drive d).period (s.clock - last) then (s.drive d).qual + 1 else 0 := by
  obtain ⟨h1, h2, h3, -, -⟩ := Drive.fields_of_base
    ((BasesKept.refl ((s.modDrive d (Drive.pulsed s.clock)).qualify d (s.clock - last))).sectorStart d 0 d)
  obtain ⟨q1, q2, q3⟩ := (s.modDrive d (Drive.pulsed s.clock)).qualify_drive d (s.clock - last)
  rw [State.drive_modDrive_self] at q1 q2 q3
  rw [show ((s.drive d).pulsed s.clock).state = .spinningUp from hs] at q2
  rw [State.indexPulse_spinning hs hl]
  exact ⟨h1.trans q1, h2.trans q2, h3.trans q3⟩

theorem State.indexPulse_waits (ha : (s.drive d).state ≠ .absent) (hw : (s.drive d).state ≠ .waitingSpin) :
    ((s.indexPulse d).drive d).lastIndex = some s.clock ∧ ((s.indexPulse d).drive d).state ≠ .waitingSpin := by
  by_cases h : (s.drive d).state ≠ .spinningUp ∨ (s.drive d).lastIndex = none
  · obtain ⟨h1, h2, -⟩ := State.indexPulse_other_drive ha h
    exact ⟨h1, by rw [h2]; exact hw⟩
  · push Not at h
    obtain ⟨last, hl⟩ := Option.ne_none_iff_exists'.mp h.2
    obtain ⟨h1, h2, -⟩ := State.indexPulse_spinning_drive h.1 hl
    refine ⟨h1, ?_⟩
    rw [h2]
    split_ifs <;> decide

/-- The interval of an index pulse, as R6 words its tolerance. -/
theorem inTolerance_iff (period interval : Nat) :
    inTolerance period interval = true ↔ (interval : Int) - period ≤ period / 32 ∧ (period : Int) - interval ≤ period / 32 := by
  simp only [inTolerance, Bool.and_eq_true, decide_eq_true_eq]
  omega

/-- Settles O8, by the record of the pulse, the judgement of its interval, and the start of sector 0. -/
theorem indexPulseCounts : Obligations.IndexPulseCounts := by
  unfold Obligations.IndexPulseCounts
  refine ⟨fun d s hp ha => ?_, fun d s hp ha => ?_, fun d s last hp hs hl hle => ?_⟩
  · refine ⟨_, State.run_powered hp fun s => s.indexPulse d, ?_⟩
    have w := (s.indexPulse_work d ha).settle settleFuel
    have hself := State.drive_modDrive_self s d (Drive.pulsed s.clock)
    refine ⟨(w.bus d).counter.trans (by rw [hself]; rfl), fun hw => ?_, fun h => ?_, (w.bus d).holder.trans (by rw [hself]; rfl), w.laid,
      (State.untouched_modDrive s d _ [d] [] ⟨(s.drive d).pulsed_lawful s.m s.clock, rfl, rfl⟩ fun h => absurd List.mem_cons_self h).work w⟩
    · obtain ⟨hlast, hne⟩ := State.indexPulse_waits ha hw
      exact (settle_lastIndex hne).trans hlast
    · have hs : (s.drive d).state ≠ .spinningUp := by intro hs; rw [hs] at h; cases h
      obtain ⟨-, -, harm⟩ := State.indexPulse_other_drive ha (.inl hs)
      rw [settle_watchFrom, settle_watchLimit]
      exact harm h
  · refine ⟨_, State.run_powered hp fun s => s.indexPulse d, ?_⟩
    have he : s.indexPulse d = s.modDrive d fun x => { x with lastIndex := some s.clock } := if_pos ha
    have hself := State.drive_modDrive_self s d fun x => { x with lastIndex := some s.clock }
    have hne : ((s.modDrive d fun x => { x with lastIndex := some s.clock }).drive d).state ≠ .waitingSpin := by
      rw [hself]; exact fun h => by rw [show _ = _ from ha] at h; cases h
    rw [he]
    refine ⟨(settle_lastIndex hne).trans (by rw [hself]), (settle_state hne).trans (by rw [hself]; exact ha),
      (settle_counter _ _ _).trans (by rw [hself]), settle_media _ _, ?_, BusyWhole.settle _ fun e hd _ => ?_⟩
    · exact (State.untouched_modDrive s d _ [] [] ⟨⟨rfl, rfl, rfl, id, id⟩, rfl, rfl⟩ fun _ => ⟨rfl, rfl⟩).work ((Work.refl _).settle _)
    · rw [State.drive_modDrive_ne _ _ (by simpa using hd)]
  · refine ⟨_, State.run_powered hp fun s => s.indexPulse d, ?_⟩
    obtain ⟨-, hstate, hqual⟩ := State.indexPulse_spinning_drive hs hl
    obtain ⟨-, hne⟩ := State.indexPulse_waits (s := s) (d := d) (by rw [hs]; decide) (by rw [hs]; decide)
    have hsv := settle_service (n := settleFuel) hne
    have h1 : ((settle settleFuel (s.indexPulse d)).drive d).state = _ := (Drive.state_of_service hsv).trans hstate
    have h2 : ((settle settleFuel (s.indexPulse d)).drive d).qual = _ := (congrArg (fun x => x.2.2.1) hsv).trans hqual
    have hcast : ((s.clock - last : Nat) : Int) = (s.clock : Int) - last := by omega
    have htol := inTolerance_iff (s.drive d).period (s.clock - last)
    rw [hcast] at htol
    refine ⟨fun hout => ?_, fun hin1 hin2 => ?_⟩
    · have : inTolerance (s.drive d).period (s.clock - last) = false := by
        rw [Bool.eq_false_iff, Ne, htol]; omega
      rw [this] at h1 h2
      exact ⟨h1, h2⟩
    · have : inTolerance (s.drive d).period (s.clock - last) = true := htol.mpr ⟨hin1, hin2⟩
      simp only [this, if_true] at h1 h2
      refine ⟨fun hq => ⟨?_, h2⟩, fun hq => ?_⟩
      · rw [h1, if_neg (by omega)]
      · rw [h1, if_pos (by omega)]

end Sys2Proof.Machine
end

section
/-! The failures that take a drive out (R7, R9, R13, R39) and the drive-state orders that lead it on (R17, R18). -/

namespace Sys2Proof.Machine

-- One declaration after the other: in parallel the one compile of the whole text runs out of threads.
set_option Elab.async false

variable {s t u : State} {d e : DriveId}

/-! ## Transfers cut off: the rest of the state -/

theorem State.work_cutOff (s : State) (d : DriveId) : ∃ m n, Work { s with media := m, cuts := n } (s.cutOff d) := by
  unfold State.cutOff
  split
  · split
    · next op x _ _ =>
      have after : ∀ v : State, Work v (if x.chained then v else v.giveBack op).release := fun v =>
        (Work.ite (fun _ => .refl v) fun _ => (Work.refl v).giveBack op).release
      dsimp only
      cases x.frame with
      | none => exact ⟨s.media, s.cuts, after s⟩
      | some f =>
        by_cases hb : x.begun = true
        · simp only [hb, if_true]
          exact ⟨_, _, after (s.tear d op.phys x.sector f)⟩
        · simp only [hb]
          exact ⟨s.media, s.cuts, after s⟩
    · exact ⟨s.media, s.cuts, (Work.refl s).release⟩
  · exact ⟨s.media, s.cuts, .refl s⟩

/-- The media apart, nothing is touched by what only lays frames down. -/
theorem State.untouched_media (s : State) (m : List (Nat × Frame)) (n : Nat) (D : List DriveId) (P : List Port) :
    Untouched s { s with media := m, cuts := n } D P :=
  ⟨rfl, rfl, ⟨rfl, rfl, fun _ => rfl, fun _ => rfl, fun _ => rfl, fun _ => rfl⟩, fun _ => ⟨rfl, rfl⟩, fun _ _ => ⟨rfl, rfl⟩,
    fun _ _ => ⟨⟨rfl, rfl, rfl, rfl⟩, fun _ => rfl⟩⟩

theorem State.untouched_cutOff (s : State) (d : DriveId) (D : List DriveId) (P : List Port) : Untouched s (s.cutOff d) D P := by
  obtain ⟨m, n, w⟩ := s.work_cutOff d
  exact (s.untouched_media m n D P).work w

theorem State.work_stopDrive (s : State) (d : DriveId) (r : Result) (ms : MapState) (keep : Option Nat) :
    Work (s.cutOff d) (s.stopDrive d r ms keep) :=
  (((((Work.refl _).cutMapWrite d ms).abortReassign d).clearOp d).endTogether _ r false).modDrive d Drive.dropInternal

theorem State.work_enterNotReady (s : State) (d : DriveId) : Work (s.cutOff d) (s.enterNotReady d) :=
  (((s.work_stopDrive d .notReady .unsaved none).stopChannel d).setDriveState d .notReady).setNotice d noticeNotReady

/-! ## Entry to NOT READY (R13) -/

theorem State.drive_setDriveState_self (s : State) (d : DriveId) (st : DriveState) :
    (s.setDriveState d st).drive d = (s.drive d).toState st s.clock := by
  rw [State.setDriveState_toState, State.drive_modDrive_self]

theorem Channel.stop_phase (ch : Channel) : ch.stop.phase = .stopped := by
  unfold Channel.stop; split <;> [assumption; rfl]

theorem State.drive_enterNotReady (s : State) (d : DriveId) : ((s.enterNotReady d).drive d).state = .notReady ∧
    ((s.enterNotReady d).drive d).cur = none ∧ ((s.enterNotReady d).drive d).chan.phase = .stopped := by
  have hc := s.cur_stopDrive d .notReady .unsaved none
  unfold State.enterNotReady
  dsimp only
  generalize s.stopDrive d .notReady .unsaved none = v at hc ⊢
  have h : (((v.stopChannel d).setDriveState d .notReady).setNotice d noticeNotReady).drive d =
      Drive.toState .notReady (v.stopChannel d).clock { v.drive d with chan := (v.drive d).chan.stop } := by
    change ((v.stopChannel d).setDriveState d .notReady).drive d = _
    rw [State.drive_setDriveState_self, State.stopChannel, State.modChan, State.drive_modDrive_self]
  rw [h]
  exact ⟨rfl, hc, Channel.stop_phase _⟩

theorem State.enterNotReady_ended {p : Port} {g : Tag} {o : Order} (h : s.numberLaw) (ho : (s.port p).slots.get g = some o)
    (hd : o.drive = some d) (hl : o.live = true) : Ended (s.enterNotReady d) p g o.oid .notReady := by
  have h1 := State.stopDrive_ended h .notReady .unsaved ho hd hl (keep := none) nofun
  unfold State.enterNotReady
  dsimp only
  generalize s.stopDrive d .notReady .unsaved none = v at h1 ⊢
  have k : MarksKept v ((v.stopChannel d).setDriveState d .notReady) := .of_ports rfl
  exact (h1.marks k).marks (.mapPorts _ _ fun _ => rfl)

/-- R13: what is left after a drive has gone to NOT READY, through changes that leave orders and transfers alone. -/
theorem State.takenOut (w : Work s u) (hp : u.ports = s.ports) (hx : ∀ e, u.transferOf e = s.transferOf e) (n : Nat) :
    TakenOut s (settle n (u.enterNotReady d)) d ∧ Torn s (settle n (u.enterNotReady d)) (· = d) ∧
      Untouched s (settle n (u.enterNotReady d)) [] [] := by
  obtain ⟨hst, hcur, hph⟩ := u.drive_enterNotReady d
  have hno : ((u.enterNotReady d).drive d).takesNoWork = true := by simp [Drive.takesNoWork, hst, DriveState.dormant]
  have hk := settle_busy n _ d hno
  have hcur' : ((settle n (u.enterNotReady d)).drive d).cur = _ := (congrArg Drive.cur hk :)
  have hst' : ((settle n (u.enterNotReady d)).drive d).state = _ := (congrArg Drive.state hk :)
  have hch' : ((settle n (u.enterNotReady d)).drive d).chan = _ := (congrArg Drive.chan hk :)
  have w2 := (u.work_enterNotReady d).settle n
  refine ⟨⟨hst'.trans hst, hcur'.trans hcur, (congrArg Channel.phase hch').trans hph, fun hn p g o ho hd hl => ?_⟩, ?_, ?_⟩
  · exact (State.enterNotReady_ended (w.number hn) (by rw [State.port, hp]; exact ho) hd hl).settle n
  · exact ((Torn.cutOff u d).media_eq w2.laid).before hx w.laid
  · have h1 : Untouched s u [] [] := w.untouched _ _
    have h2 : Untouched u (settle n (u.enterNotReady d)) [] [] := (u.untouched_cutOff d [] []).work w2
    exact ⟨h2.powered.trans h1.powered, h2.startCause.trans h1.startCause, h1.settings.trans h2.settings,
      fun d => ⟨(h2.bus d).1.trans (h1.bus d).1, (h2.bus d).2.trans (h1.bus d).2⟩,
      fun d hd => ⟨(h2.drive d hd).1.trans (h1.drive d hd).1, (h2.drive d hd).2.trans (h1.drive d hd).2⟩,
      fun p hp => ⟨(h1.port p hp).1.trans (h2.port p hp).1, (h1.port p hp).2.trans (h2.port p hp).2⟩⟩

/-- R39: the update that reaches the recalibration limit takes the drive out. -/
theorem State.channelUpdate_limit (h : s.limitNext d = true) :
    s.channelUpdate d false = (s.modChan d fun ch => ch.update s.m false).enterNotReady d := by
  simp only [State.limitNext, Bool.and_eq_true, decide_eq_true_eq] at h
  have hr : (s.drive d).chan.updateReport false = .recalFailed := by
    simp [Channel.updateReport, h.1, h.2]
  have hh : (s.drive d).chan.updateHard s.m = false := by simp [Channel.updateHard, h.1]
  unfold State.channelUpdate
  dsimp only
  rw [hr, hh]
  rfl

/-- Settles O10: each of the three is an entry to NOT READY. -/
theorem failureTakesDriveOut : Obligations.FailureTakesDriveOut := by
  unfold Obligations.FailureTakesDriveOut
  refine fun d s hp => ⟨fun h => ?_, fun h => ?_, fun h => ?_⟩
  · refine ⟨_, State.run_powered hp fun s => if s.spinDue d then s.enterNotReady d else s, ?_⟩
    rw [if_pos h]
    exact State.takenOut (.refl s) rfl (fun _ => rfl) _
  · refine ⟨_, State.run_powered hp fun s => if s.watchdogDue d then s.enterNotReady d else s, ?_⟩
    rw [if_pos h]
    exact State.takenOut (.refl s) rfl (fun _ => rfl) _
  · refine ⟨_, State.run_powered hp fun s => if s.limitNext d then s.channelUpdate d false else s, ?_⟩
    rw [if_pos h, State.channelUpdate_limit h]
    refine State.takenOut ((Work.refl s).modChan d _ fun _ hc => Channel.law_update false hc) rfl (fun e => ?_) _
    unfold State.transferOf
    have hc : ((s.modChan d fun ch => ch.update s.m false).drive e).cur = (s.drive e).cur := by
      rw [State.modChan, State.drive_modDrive]; split <;> rfl
    rw [hc]
    rfl

end Sys2Proof.Machine
end

section
/-! UNFENCE and DRIVE RESET (R17, R18): what they leave of the drive, the orders and the media. -/

namespace Sys2Proof.Machine

-- One declaration after the other: in parallel the one compile of the whole text runs out of threads.
set_option Elab.async false

variable {s t u : State} {d e : DriveId} {k : OrderKind} {f : OrderFrame} {tag : Tag}

/-! ## What the ends of orders and operations leave of the drives -/

theorem BasesKept.leaveQueues (h : BasesKept s t) (l : List Nat) : BasesKept s (t.leaveQueues l) := fun e => by
  have hd : (t.leaveQueues l).drive e = { t.drive e with queue := (t.drive e).queue.filter fun o => o ∉ l } := Oct.get_map _ _ _
  rw [hd]
  exact h e

theorem BasesKept.modOp (h : BasesKept s t) (d : DriveId) (g : Op → Op) : BasesKept s (t.modOp d g) := h.modDrive d _

theorem BasesKept.windDown (h : BasesKept s t) (d : DriveId) : BasesKept s (t.windDown d) := by
  unfold State.windDown
  refine .ite (fun _ => ?_) fun _ => h.clearOp d
  have h1 : BasesKept s (t.modDrive d fun x => { x with cur := x.cur.map fun op => { op with ended := true }, request := false }) :=
    h.modDrive d _
  dsimp only
  split
  · exact .ite (fun _ => (h1.rest).clearOp d) fun _ => h1.setPath _
  · exact h1

theorem BasesKept.stopOps (h : BasesKept s t) (l : List Nat) (soft : Bool) : BasesKept s (t.stopOps l soft) := by
  refine h.foldl _ (fun v e hv => ?_) _
  split
  · exact .ite (fun _ => .ite (fun _ => hv.modOp e _) fun _ => hv.windDown e) fun _ => hv
  · exact hv

theorem BasesKept.leaveWaitList (h : BasesKept s t) (l : List Nat) : BasesKept s (t.leaveWaitList l) := h.rest

theorem BasesKept.ringDiscard (h : BasesKept s t) (l : List Nat) : BasesKept s (t.ringDiscard l) := h.rest

theorem BasesKept.dropRequests (h : BasesKept s t) (l : List Nat) : BasesKept s (t.dropRequests l) := h.rest

theorem BasesKept.freeSlots (h : BasesKept s t) (l : List Nat) : BasesKept s (t.freeSlots l) := h.rest (t.drives_freeSlots l)

theorem BasesKept.endTogether (h : BasesKept s t) (l : List Nat) (r : Result) (soft : Bool) : BasesKept s (t.endTogether l r soft) := by
  have h1 : BasesKept s (l.foldl (fun s n => s.endOrder n r) t) := h.foldl _ (fun _ _ hv => hv.endOrder _ _) l
  unfold State.endTogether
  dsimp only
  generalize l.foldl (fun s n => s.endOrder n r) t = v at h1 ⊢
  exact (((((h1.leaveWaitList l).leaveQueues l).ringDiscard l).dropRequests l).stopOps l soft).freeSlots l

theorem Drive.base_sparingUndone (x : Drive) (home : Track) : (x.sparingUndone home).base = x.base := by
  have hr : ∀ k, (x.releaseTrack k).base = x.base := fun k => by
    unfold Drive.releaseTrack
    split
    · rfl
    · split <;> rfl
  unfold Drive.sparingUndone
  split
  · rfl
  · split
    · split <;> exact hr _
    · rfl

theorem BasesKept.abortReassign (h : BasesKept s t) (d : DriveId) : BasesKept s (t.abortReassign d) := by
  unfold State.abortReassign
  refine .ite (fun _ => ?_) fun _ => h
  split
  · next e _ _ _ => exact (h.modDrive d (fun x => x.sparingUndone e.home) (Drive.base_sparingUndone _ _)).rest
  · exact (h.modDrive d fun x => { x with pendReassign := false }).rest

theorem BasesKept.cutMapWrite (h : BasesKept s t) (d : DriveId) (st : MapState) : BasesKept s (t.cutMapWrite d st) := by
  unfold State.cutMapWrite
  split
  · exact .ite (fun _ => h.modDrive d _) fun _ => h
  · exact h

theorem State.drives_cutOff (s : State) (d : DriveId) : (s.cutOff d).drives = s.drives := by
  unfold State.cutOff
  split
  · split
    · next op x _ _ =>
      have after : ∀ v : State, (if x.chained then v else v.giveBack op).release.drives = v.drives := fun v => by
        split
        · rfl
        · exact v.drives_giveBack op
      dsimp only
      rw [after]
      split
      · split <;> rfl
      · rfl
    · rfl
  · rfl

theorem BasesKept.stopDrive (h : BasesKept s t) (d : DriveId) (r : Result) (ms : MapState) (keep : Option Nat) :
    BasesKept s (t.stopDrive d r ms keep) :=
  (((((h.rest (t.drives_cutOff d)).cutMapWrite d ms).abortReassign d).clearOp d).endTogether _ r false).modDrive d _

/-! ## The orders that stand (R99) -/

/-- Orders that end together leave the others standing. -/
theorem Standing.endTogether_ne {p : Port} {g : Tag} {n : Nat} {l : List Nat} (ho : Standing s p g n) (hn : n ∉ l) (r : Result)
    (soft : Bool) : Standing (s.endTogether l r soft) p g n := by
  have key : ∀ (l : List Nat) (v : State), n ∉ l → Standing v p g n → Standing (l.foldl (fun s n => s.endOrder n r) v) p g n := by
    intro l
    induction l with
    | nil => exact fun _ _ h => h
    | cons m l ih =>
      intro v hl h
      exact ih _ (fun hm => hl (List.mem_cons_of_mem _ hm)) (h.endOrder_ne (fun hm => hl (by rw [hm]; exact List.mem_cons_self)) r)
  exact (key l s hn ho).marks (.afterEnd _ l soft)

/-- R18: the order that is kept stands through the end of the others. -/
theorem Standing.stopDrive {p : Port} {g : Tag} {n : Nat} (ho : Standing s p g n) (d : DriveId) (r : Result) (ms : MapState) :
    Standing (s.stopDrive d r ms (some n)) p g n := by
  have h1 : MarksKept s ((((s.cutOff d).cutMapWrite d ms).abortReassign d).clearOp d) :=
    .trans (.cutOff s d) (.trans (.cutMapWrite _ d ms) (.trans (.abortReassign _ d) (.clearOp _ d)))
  have h2 := (ho.marks h1).endTogether_ne (l := ((s.ordersOf d fun _ => true) ++ s.curOids d).filter fun m => some n ≠ some m)
    (by simp) r false
  have h3 : ∀ v : State, MarksKept v (v.modDrive d Drive.dropInternal) := fun v => .of_ports rfl
  exact h2.marks (h3 _)

/-! ## An accepted order that names a drive -/

/-- The drive of an accepted order is the one its logical drive names. -/
theorem Accepted.run (h : Accepted s k f tag) (hd : (s.accessOf f).phys = some d) (hk : k.namesDrive = true)
    (go : Nat → DriveId → State → State) :
    s.run (fun s => s.receiveOrder k f go) = .next (settle settleFuel (go s.nextOid d (s.accept k f tag (some d)))) := by
  rw [State.run_powered h.power, h.receive, hd, if_pos hk]
  rfl

theorem State.standing_accept (s : State) (k : OrderKind) (f : OrderFrame) (tag : Tag) (d : Option DriveId) :
    Standing (s.accept k f tag d) f.port tag s.nextOid := by
  refine ⟨_, s.slot_accept k f tag d, rfl, ?_⟩
  unfold newOrder Order.live
  dsimp only
  split <;> rfl

/-! ## UNFENCE (R17) -/

theorem State.drive_enterRecalibrating (s : State) (d : DriveId) :
    ((s.enterRecalibrating d).drive d).state = .recalibrating ∧ ((s.enterRecalibrating d).drive d).mapHeld = (s.drive d).mapHeld := by
  unfold State.enterRecalibrating
  rw [State.drive_modDrive_self, State.drive_setDriveState_self]
  exact ⟨rfl, rfl⟩

theorem State.drive_enterRecalibrating_ne (s : State) (h : e ≠ d) : (s.enterRecalibrating d).drive e = s.drive e := by
  rw [State.enterRecalibrating, State.drive_modDrive_ne _ _ h, State.setDriveState_eq, State.drive_modDrive_ne _ _ h]

theorem drive_unfenceDrive (u : State) (n : Nat) (d : DriveId) :
    ((unfenceDrive n d u).drive d).state = .recalibrating ∧ ((unfenceDrive n d u).drive d).mapHeld = false := by
  obtain ⟨h1, h2⟩ := State.drive_enterRecalibrating ((u.modDrive d fun x => { x with mapHeld := false }).stopChannel d) d
  refine ⟨h1, h2.trans ?_⟩
  rw [State.stopChannel, State.modChan, State.drive_modDrive_self, State.drive_modDrive_self]

theorem drive_unfenceDrive_ne (u : State) (n : Nat) (h : e ≠ d) : (unfenceDrive n d u).drive e = u.drive e := by
  rw [unfenceDrive, State.drive_enterRecalibrating_ne _ h, State.stopChannel, State.modChan, State.drive_modDrive_ne _ _ h,
    State.drive_modDrive_ne _ _ h]

/-- Settles O57: the drive enters RECALIBRATING, where it stays through what follows at once. -/
theorem unfenceRecalibrates : Obligations.UnfenceRecalibrates := by
  unfold Obligations.UnfenceRecalibrates
  intro f tag d s h hd
  have hexec := h.run hd rfl unfenceDrive
  have hunt := s.untouched_accept .unfence f tag (some d)
  have hport := s.portKept_accept .unfence f tag (some d)
  have htaken : ∀ v, Work (s.accept .unfence f tag (some d)) v → ∃ o, Taken s v .unfence f tag (some d) o := fun v => Work.taken
  have hdrive : ∀ e, (s.accept .unfence f tag (some d)).drive e = s.drive e := fun _ => rfl
  have hmedia : (s.accept .unfence f tag (some d)).media = s.media := rfl
  generalize s.accept .unfence f tag (some d) = u at *
  have w := (unfenceDrive_work s.nextOid d u).settle settleFuel
  obtain ⟨o, ho⟩ := htaken _ w
  obtain ⟨hst, hmap⟩ := drive_unfenceDrive u s.nextOid d
  have hne : ((unfenceDrive s.nextOid d u).drive d).state ≠ .waitingSpin := by rw [hst]; decide
  refine ⟨_, o, hexec, ho, (settle_state hne).trans hst, (settle_mapHeld hne).trans hmap, hport.trans (w.portKept _),
    w.laid.trans hmedia, hunt.work w, BusyWhole.settle _ fun e he _ => ?_⟩
  rw [drive_unfenceDrive_ne _ _ (by simpa using he), hdrive]

/-! ## DRIVE RESET (R18) -/

/-- R18: the drive with its work ended and its channel stopped, before its new state. -/
def State.halted (s : State) (d : DriveId) (n : Nat) : State :=
  ((s.stopDrive d .reset .dirty (some n)).stopChannel d).modDrive d fun x => { x with mapHeld := false, sweepIn := true }

theorem State.work_halted (s : State) (d : DriveId) (n : Nat) : Work (s.cutOff d) (s.halted d n) :=
  ((s.work_stopDrive d .reset .dirty (some n)).stopChannel d).modDrive d _

theorem State.marks_halted (s : State) (d : DriveId) (n : Nat) : MarksKept (s.stopDrive d .reset .dirty (some n)) (s.halted d n) := by
  unfold State.halted
  generalize s.stopDrive d .reset .dirty (some n) = v
  exact .of_ports rfl

theorem State.state_halted (s : State) (d : DriveId) (n : Nat) : ((s.halted d n).drive d).state = (s.drive d).state := by
  have h := (BasesKept.refl s).stopDrive d .reset .dirty (some n) d
  unfold State.halted State.stopChannel State.modChan
  rw [State.drive_modDrive_self, State.drive_modDrive_self]
  exact (congrArg Drive.state h :)

/-- R18, R19: where a DRIVE RESET leads the drive, by its state at acceptance. -/
theorem resetDrive_eq (u : State) (n : Nat) (d : DriveId) : resetDrive n d u =
    if (u.drive d).state = .notReady ∨ (u.drive d).state = .waitingSpin ∨ (u.drive d).state = .spinningUp then
      (u.halted d n).setDriveState d .waitingSpin
    else if (u.drive d).state = .fenced ∧ (u.drive d).geom = none then (u.halted d n).endOrder n .fenced
    else (u.halted d n).enterRecalibrating d := by
  have hh : ((u.stopDrive d .reset .dirty (some n)).stopChannel d).modDrive d (fun x => { x with mapHeld := false, sweepIn := true }) =
      u.halted d n := rfl
  unfold resetDrive
  dsimp only
  rw [hh]
  generalize u.halted d n = v
  cases hs : (u.drive d).state
  case fenced => by_cases hg : (u.drive d).geom = none <;> simp [hg]
  all_goals simp

/-- What follows the stop of the drive is the work of the drive sequencers, and keeps every result. -/
theorem State.resetDrive_after (u : State) (n : Nat) (d : DriveId) :
    Work (u.halted d n) (resetDrive n d u) ∧ ResultsKept (u.halted d n) (resetDrive n d u) := by
  rw [resetDrive_eq]
  generalize u.halted d n = v
  split
  · exact ⟨(Work.refl _).setDriveState d _, .of_ports rfl⟩
  · split
    · exact ⟨(Work.refl _).endOrder _ _, .endOrder _ _ _⟩
    · exact ⟨(Work.refl _).enterRecalibrating d, .of_ports rfl⟩

/-- A drive that waits for the spin-up turn waits on or takes it in what follows at once. -/
theorem settle_waits (n : Nat) (s : State) (d : DriveId) (h : (s.drive d).state = .waitingSpin ∨ (s.drive d).state = .spinningUp) :
    ((settle n s).drive d).state = .waitingSpin ∨ ((settle n s).drive d).state = .spinningUp := by
  refine settle_rel (P := fun a b => ((a.drive d).state = .waitingSpin ∨ (a.drive d).state = .spinningUp) →
    ((b.drive d).state = .waitingSpin ∨ (b.drive d).state = .spinningUp)) (fun _ => id) (fun _ _ _ h1 h2 => h2 ∘ h1) (fun a b hab ha => ?_) n s h
  have same : (b.drive d).state = (a.drive d).state → (b.drive d).state = .waitingSpin ∨ (b.drive d).state = .spinningUp :=
    fun he => by rw [he]; exact ha
  have keep : ∀ (e : DriveId) (g : Drive → Drive), b.drives = (a.modDrive e g).drives → (∀ x, (g x).state = x.state) →
      (b.drive d).state = (a.drive d).state := fun e g hb hg => by
    rw [State.drive_eq_of_drives hb, State.drive_modDrive]; split <;> [exact hg _; rfl]
  rcases State.act_drives hab with h | ⟨e, h⟩ | ⟨e, h⟩ | ⟨e, g, h⟩ | ⟨e, hw, rfl⟩
  · exact same (congrArg Drive.state (State.drive_eq_of_drives h d))
  · exact same (keep e _ h fun _ => rfl)
  · exact same (Drive.state_of_service (State.service_of_base (State.base_select h) d))
  · exact same (keep e _ h fun _ => rfl)
  · by_cases hde : d = e
    · subst hde
      rw [State.enterSpinningUp, State.drive_modDrive_self, State.drive_setDriveState_self]
      exact .inr rfl
    · rw [State.enterSpinningUp, State.drive_modDrive_ne _ _ hde, State.setDriveState_eq, State.drive_modDrive_ne _ _ hde]
      exact ha

/-- The media apart, an acceptance that cuts a transfer off leaves what its rule asks for. -/
theorem Taken.of_media {m : List (Nat × Frame)} {n : Nat} {dr : Option DriveId} {o : Order}
    (h : Taken { s with media := m, cuts := n } t k f tag dr o) : Taken s t k f tag dr o :=
  ⟨h.slot, h.oid, h.next, h.names, h.start, h.fields, h.reply, h.others⟩

/-- Settles O58: the drive is stopped, its orders end RESET, and its state at acceptance says where it goes. -/
theorem driveResetLeads : Obligations.DriveResetLeads := by
  unfold Obligations.DriveResetLeads
  intro f tag d s h hn hd
  have hnl := State.numberLaw_accept (k := .driveReset) (some d) h.free hn
  have hstand := s.standing_accept .driveReset f tag (some d)
  have hdrive : (s.accept .driveReset f tag (some d)).drive d = s.drive d := rfl
  have hmedia : (s.accept .driveReset f tag (some d)).media = s.media := rfl
  have hxf : ∀ e, (s.accept .driveReset f tag (some d)).transferOf e = s.transferOf e := fun _ => rfl
  have hunt := s.untouched_accept .driveReset f tag (some d)
  have hport := s.portKept_accept .driveReset f tag (some d)
  have hold : ∀ p g r, (s.port p).slots.get g = some r →
      ((s.accept .driveReset f tag (some d)).port p).slots.get g = some r := fun p g r => State.slot_accept_old s _ f tag _ h.free
  obtain ⟨m, c, wc⟩ := (s.accept .driveReset f tag (some d)).work_cutOff d
  have htaken : ∀ v, Work { s.accept .driveReset f tag (some d) with media := m, cuts := c } v →
      ∃ o, Taken s v .driveReset f tag (some d) o := fun v w =>
    (Work.taken (s := { s with media := m, cuts := c }) w).imp fun _ => Taken.of_media
  have hu : Untouched (s.accept .driveReset f tag (some d))
      { s.accept .driveReset f tag (some d) with media := m, cuts := c } [] [f.port] := State.untouched_media _ m c _ _
  have hexec := h.run hd rfl resetDrive
  generalize s.accept .driveReset f tag (some d) = u at *
  have hw0 := u.work_halted d s.nextOid
  obtain ⟨hw1, hr1⟩ := u.resetDrive_after s.nextOid d
  have w := ((wc.trans hw0).trans hw1).settle settleFuel
  obtain ⟨o, ho⟩ := htaken _ w
  have hst := u.state_halted d s.nextOid
  have heq := resetDrive_eq u s.nextOid d
  rw [hdrive] at hst heq
  have wait : ((s.drive d).state = .notReady ∨ (s.drive d).state = .waitingSpin ∨ (s.drive d).state = .spinningUp) →
      ((settle settleFuel (resetDrive s.nextOid d u)).drive d).state = .waitingSpin ∨
        ((settle settleFuel (resetDrive s.nextOid d u)).drive d).state = .spinningUp := fun hs => by
    refine settle_waits _ _ _ (.inl ?_)
    rw [heq, if_pos hs, State.drive_setDriveState_self]
    rfl
  have recal : ¬((s.drive d).state = .notReady ∨ (s.drive d).state = .waitingSpin ∨ (s.drive d).state = .spinningUp) →
      ¬((s.drive d).state = .fenced ∧ (s.drive d).geom = none) →
      ((settle settleFuel (resetDrive s.nextOid d u)).drive d).state = .recalibrating := fun h1 h2 => by
    have hs : ((resetDrive s.nextOid d u).drive d).state = .recalibrating := by
      rw [heq, if_neg h1, if_neg h2]; exact (State.drive_enterRecalibrating _ d).1
    exact (settle_state (by rw [hs]; decide)).trans hs
  refine ⟨_, o, hexec, ho, wait, fun hs hg => ?_, fun hs hg => ?_, fun hs => ?_, fun p g r hr hrd hl => ?_, ?_, ?_, ?_⟩
  · have hs1 : resetDrive s.nextOid d u = (u.halted d s.nextOid).endOrder s.nextOid .fenced := by
      rw [heq, if_neg (by rw [hs]; decide), if_pos ⟨hs, hg⟩]
    have hdr : ((resetDrive s.nextOid d u).drive d).state = .fenced := by
      rw [hs1, State.drive_eq_of_drives (State.drives_endOrder _ _ _), hst, hs]
    refine ⟨(settle_state (by rw [hdr]; decide)).trans hdr, ?_⟩
    have hend := (((hstand.stopDrive d .reset .dirty).marks (u.marks_halted d s.nextOid)).endOrder
      ((Lawful.refl u).cutOff d |>.work hw0 |>.number hnl) .fenced)
    rw [← hs1] at hend
    obtain ⟨o', ho', -, hres⟩ := hend.settle settleFuel
    rw [ho.slot] at ho'
    cases ho'
    exact hres
  · refine recal (by rw [hs]; decide) fun hno => ?_
    rw [hno.2] at hg
    cases hg
  · refine recal (fun hno => ?_) fun hno => ?_
    · rcases hs with hs | hs | hs | hs | hs <;> rw [hs] at hno <;> exact absurd hno (by decide)
    · rcases hs with hs | hs | hs | hs | hs <;> rw [hs] at hno <;> exact absurd hno.1 (by decide)
  · have hne : some s.nextOid ≠ some r.oid := fun he => by
      have h1 := (hn.range p g r hr).2
      rw [← Option.some.inj he] at h1
      exact lt_irrefl _ h1
    have hend := State.stopDrive_ended hnl .reset .dirty (hold p g r hr) hrd hl hne
    exact ((hend.marks (u.marks_halted d s.nextOid)).kept hw1 hr1).settle _
  · exact ((Torn.cutOff u d).media_eq (((hw0.trans hw1).settle settleFuel).laid)).before hxf hmedia
  · have w' := w.portKept f.port
    exact hport.trans ⟨w'.window, w'.refusals, w'.timeouts, w'.protocolErrors⟩
  · have h2 := hu.work w
    exact ⟨h2.powered.trans hunt.powered, h2.startCause.trans hunt.startCause, hunt.settings.trans h2.settings,
      fun d => ⟨(h2.bus d).1.trans (hunt.bus d).1, (h2.bus d).2.trans (hunt.bus d).2⟩,
      fun d hd => ⟨(h2.drive d hd).1.trans (hunt.drive d hd).1, (h2.drive d hd).2.trans (hunt.drive d hd).2⟩,
      fun p hp => ⟨(hunt.port p hp).1.trans (h2.port p hp).1, (hunt.port p hp).2.trans (h2.port p hp).2⟩⟩

end Sys2Proof.Machine
end

section
/-! Pending notices and the transmitter (R11, R13, R14, R60, R125, R128, R133, R134, R159 to R161). -/

namespace Sys2Proof.Machine

-- One declaration after the other: in parallel the one compile of the whole text runs out of threads.
set_option Elab.async false

variable {s t u : State} {d : DriveId}

/-! ## What leaves the pending sets as they are -/

/-- Every port keeps its pending sets and its access entry. -/
def NoticesKept (s t : State) : Prop := ∀ p, (t.port p).notices = (s.port p).notices ∧ (t.port p).access = (s.port p).access

theorem NoticesKept.refl (s : State) : NoticesKept s s := fun _ => ⟨rfl, rfl⟩

theorem NoticesKept.rest (h : NoticesKept s t) {u : State} (hu : u.ports = t.ports := by rfl) : NoticesKept s u := fun p => by
  rw [State.port, hu]; exact h p

theorem NoticesKept.ite {c : Prop} [Decidable c] {a b : State} (ha : c → NoticesKept s a) (hb : ¬c → NoticesKept s b) :
    NoticesKept s (if c then a else b) := by split <;> rename_i hc <;> [exact ha hc; exact hb hc]

theorem NoticesKept.foldl {α : Type} (f : State → α → State) (hf : ∀ v i, NoticesKept s v → NoticesKept s (f v i)) (l : List α)
    (h : NoticesKept s t) : NoticesKept s (l.foldl f t) := by
  induction l generalizing t with
  | nil => exact h
  | cons i l ih => exact ih (hf _ _ h)

theorem NoticesKept.mapPorts (h : NoticesKept s t) (f : PortCtl → PortCtl)
    (hf : ∀ c, (f c).notices = c.notices ∧ (f c).access = c.access := by exact fun _ => ⟨rfl, rfl⟩) :
    NoticesKept s { t with ports := t.ports.map f } := fun p => by
  have hp : ({ t with ports := t.ports.map f } : State).port p = f (t.port p) := Quad.get_map _ _ _
  rw [hp]
  exact ⟨(hf _).1.trans (h p).1, (hf _).2.trans (h p).2⟩

theorem NoticesKept.modOrder (h : NoticesKept s t) (n : Nat) (f : Order → Order) : NoticesKept s (t.modOrder n f) := h.mapPorts _

theorem NoticesKept.endOrder (h : NoticesKept s t) (n : Nat) (r : Result) : NoticesKept s (t.endOrder n r) :=
  .ite (fun _ => (h.modOrder n _).rest) fun _ => h

theorem NoticesKept.endOrders (h : NoticesKept s t) (d : DriveId) (q : Order → Bool) (r : Result) : NoticesKept s (t.endOrders d q r) :=
  h.foldl _ (fun _ _ hv => hv.endOrder _ _) _

theorem NoticesKept.modDrive (h : NoticesKept s t) (d : DriveId) (f : Drive → Drive) : NoticesKept s (t.modDrive d f) := h.rest

theorem NoticesKept.setDriveState (h : NoticesKept s t) (d : DriveId) (st : DriveState) : NoticesKept s (t.setDriveState d st) := h.rest

theorem NoticesKept.clearOp (h : NoticesKept s t) (d : DriveId) : NoticesKept s (t.clearOp d) := by
  unfold State.clearOp
  refine NoticesKept.modDrive ?_ d _
  split
  · exact .ite (fun _ => (h.modOrder _ _).rest) fun _ => h
  · exact h

theorem NoticesKept.windDown (h : NoticesKept s t) (d : DriveId) : NoticesKept s (t.windDown d) := by
  unfold State.windDown
  refine .ite (fun _ => ?_) fun _ => h.clearOp d
  have h1 : NoticesKept s (t.modDrive d fun x => { x with cur := x.cur.map fun op => { op with ended := true }, request := false }) :=
    h.modDrive d _
  dsimp only
  split
  · exact .ite (fun _ => h1.rest.clearOp d) fun _ => h1.rest
  · exact h1

theorem NoticesKept.stopOps (h : NoticesKept s t) (l : List Nat) (soft : Bool) : NoticesKept s (t.stopOps l soft) := by
  refine h.foldl _ (fun v e hv => ?_) _
  split
  · exact .ite (fun _ => .ite (fun _ => hv.modDrive e _) fun _ => hv.windDown e) fun _ => hv
  · exact hv

theorem NoticesKept.giveSlot (h : NoticesKept s t) (i : Fin 8) (p : Port) (o : Order) : NoticesKept s (t.giveSlot i p o) := fun q => by
  by_cases hq : q = p
  · subst hq
    rw [State.giveSlot, State.port_modPort_self]
    exact h q
  · rw [State.giveSlot, State.port_modPort_ne _ _ hq]
    exact h q

theorem NoticesKept.freeSlot (h : NoticesKept s t) (i : Fin 8) : NoticesKept s (t.freeSlot i) := by
  unfold State.freeSlot
  have h1 : NoticesKept s (t.setWslot i WriteSlot.free) := h.rest
  dsimp only
  split
  · exact h1
  · next rest _ =>
    have h2 : NoticesKept s { t.setWslot i WriteSlot.free with waitList := rest } := h.rest
    split
    · exact h2
    · exact .ite (fun _ => (h2.giveSlot _ _ _).rest) fun _ => h2.giveSlot _ _ _

theorem NoticesKept.freeSlots (h : NoticesKept s t) (l : List Nat) : NoticesKept s (t.freeSlots l) :=
  h.foldl _ (fun _ _ hv => .ite (fun _ => hv.freeSlot _) fun _ => hv) _

theorem NoticesKept.endTogether (h : NoticesKept s t) (l : List Nat) (r : Result) (soft : Bool) :
    NoticesKept s (t.endTogether l r soft) := by
  have h1 : NoticesKept s (l.foldl (fun s n => s.endOrder n r) t) := h.foldl _ (fun _ _ hv => hv.endOrder _ _) l
  unfold State.endTogether
  dsimp only
  generalize l.foldl (fun s n => s.endOrder n r) t = v at h1 ⊢
  have h2 : NoticesKept s (((v.leaveWaitList l).leaveQueues l).ringDiscard l) := h1.rest
  exact (NoticesKept.stopOps (h2.mapPorts _) l soft).freeSlots l

theorem NoticesKept.cutOff (h : NoticesKept s t) (d : DriveId) : NoticesKept s (t.cutOff d) := by
  have hg : ∀ (v : State) (op : Op), (v.giveBack op).ports = v.ports := fun v op => by
    unfold State.giveBack
    split
    · unfold State.ringBack; split <;> rfl
    · unfold State.setSlotState; split <;> rfl
    all_goals rfl
  unfold State.cutOff
  refine .ite (fun _ => ?_) fun _ => h
  split
  · next op x _ _ =>
    have h1 : NoticesKept s (match x.frame with
        | some f => if x.begun then t.tear d op.phys x.sector f else t
        | none => t) := by
      split
      · exact .ite (fun _ => h.rest) fun _ => h
      · exact h
    dsimp only
    exact NoticesKept.rest (NoticesKept.ite (fun _ => h1) fun _ => h1.rest (hg _ _))
  · exact h.rest

theorem NoticesKept.cutMapWrite (h : NoticesKept s t) (d : DriveId) (st : MapState) : NoticesKept s (t.cutMapWrite d st) := by
  unfold State.cutMapWrite
  split
  · exact .ite (fun _ => h.modDrive d _) fun _ => h
  · exact h

theorem NoticesKept.abortReassign (h : NoticesKept s t) (d : DriveId) : NoticesKept s (t.abortReassign d) := by
  unfold State.abortReassign
  refine .ite (fun _ => ?_) fun _ => h
  split <;> exact h.rest

theorem NoticesKept.stopDrive (h : NoticesKept s t) (d : DriveId) (r : Result) (ms : MapState) (keep : Option Nat) :
    NoticesKept s (t.stopDrive d r ms keep) :=
  (((((h.cutOff d).cutMapWrite d ms).abortReassign d).clearOp d).endTogether _ r false).modDrive d _

/-! ## The events that set a notice (R160) -/

/-- A notice set among changes that leave the pending sets alone. -/
theorem NoticesKept.noticed {kind : Byte} (h : NoticesKept s t) (k : NoticesKept (t.setNotice d kind) u) : Noticed s u d kind := fun p n => by
  rw [(k p).1, State.port_setNotice]
  simp only [PortCtl.addNotice, Oct.get_of, Access.names, (h p).1, (h p).2, Bool.and_eq_true, decide_eq_true_eq]

theorem State.enterReady_noticed (s : State) (d : DriveId) : Noticed s (s.enterReady d) d noticeReady :=
  (((NoticesKept.refl s).setDriveState d .ready).modDrive d _).noticed ((NoticesKept.refl _).endOrders d _ _)

theorem State.enterNotReady_noticed (s : State) (d : DriveId) : Noticed s (s.enterNotReady d) d noticeNotReady :=
  (NoticesKept.setDriveState (((NoticesKept.refl s).stopDrive d .notReady .unsaved none).modDrive d _) d .notReady).noticed (.refl _)

theorem State.enterMapLost_noticed (s : State) (d : DriveId) : Noticed s (s.enterMapLost d) d noticeMapLost :=
  ((((NoticesKept.refl s).setDriveState d .mapLost).modDrive d _).modDrive d _).noticed ((NoticesKept.refl _).endTogether _ _ _)

/-- R60: a MAP WRITE that is refused outside WRITING MAP leaves the drive in its state. -/
theorem State.endMapWrite_noticed (h : (s.drive d).state ≠ .writingMap) : Noticed s (s.endMapWrite d false) d noticeMapLost := by
  have h1 : NoticesKept s ((s.clearOp d).modDrive d fun x => { x with mapState := x.mapState.afterWrite false }) :=
    ((NoticesKept.refl s).clearOp d).modDrive d _
  have h2 : BasesKept s ((s.clearOp d).modDrive d fun x => { x with mapState := x.mapState.afterWrite false }) :=
    ((BasesKept.refl s).clearOp d).modDrive d (fun x => { x with mapState := x.mapState.afterWrite false })
  have h3 : BasesKept s (((s.clearOp d).modDrive d fun x => { x with mapState := x.mapState.afterWrite false }).setNotice d noticeMapLost) :=
    h2.rest
  have hb := h3.endOrders d (fun o => o.kind = .commitMap && o.bound) .dataCheck
  have hst := (congrArg Drive.state (hb d) :)
  unfold State.endMapWrite
  dsimp only
  rw [if_neg Bool.false_ne_true, if_neg Bool.false_ne_true, if_neg]
  · exact h1.noticed ((NoticesKept.refl _).endOrders d _ _)
  · rintro (h2 | ⟨-, h2⟩)
    · exact h (hst.symm.trans h2)
    · cases h2

theorem State.reassignStuck_noticed (s : State) (d : DriveId) (i : Nat) (e : WatchEntry) :
    Noticed s (s.reassignStuck d i e) d noticeReassignFailed :=
  NoticesKept.noticed (t := (s.setWatch i { e with state := .stuck }).tallyDrive d DriveTallies.raiseReassignFailures)
    (NoticesKept.refl s).rest (NoticesKept.rest ((NoticesKept.refl _).endOrders d _ _))

theorem State.reassignDone_noticed (hs : s.reassign.slot.isSome = true) (hh : s.reassign.held.isSome = true) :
    Noticed s (s.reassignDone d) d noticeReassigned := by
  obtain ⟨i, hi⟩ := Option.isSome_iff_exists.mp hs
  obtain ⟨e, he⟩ := Option.isSome_iff_exists.mp hh
  unfold State.reassignDone
  rw [hi, he]
  exact NoticesKept.noticed (t := ((s.modDrive d fun x => (x.sparingDone e.home (if e.cause = some .ordered then .ordered else .auto)).mapChanged).setSlot i
    .empty).tallyDrive d DriveTallies.raiseReassignments) (NoticesKept.refl s).rest
      (NoticesKept.clearOp (NoticesKept.rest ((NoticesKept.refl _).endOrders d _ _)) d)

theorem State.reassignFail_noticed (hs : s.reassign.slot.isSome = true) (hh : s.reassign.held.isSome = true) :
    Noticed s (s.reassignFail d) d noticeReassignFailed := by
  obtain ⟨i, hi⟩ := Option.isSome_iff_exists.mp hs
  obtain ⟨e, he⟩ := Option.isSome_iff_exists.mp hh
  unfold State.reassignFail
  rw [hi, he]
  exact NoticesKept.noticed (t := ((s.modDrive d fun x => (x.sparingUndone e.home).mapChanged).setWatch i
    { e with state := .stuck }).tallyDrive d DriveTallies.raiseReassignFailures) (NoticesKept.refl s).rest
      (NoticesKept.clearOp (NoticesKept.rest ((NoticesKept.refl _).endOrders d _ _)) d)

/-! ## The transmitter (R159, R161) -/

/-- R161: the lowest logical drive with an open kind. -/
theorem PortCtl.nextNotice_of {c : PortCtl} {n : Fin 8} (hlow : ∀ m, m < n → c.notices.get m &&& ~~~c.access.mask = 0)
    (hn : c.notices.get n &&& ~~~c.access.mask ≠ 0) : c.nextNotice = some (n, c.notices.get n &&& ~~~c.access.mask) := by
  have hl : ∀ n : Fin 8, allDrives = allDrives.take n.val ++ n :: allDrives.drop (n.val + 1) := by decide
  have hlt : ∀ n m : Fin 8, m ∈ allDrives.take n.val → m < n := by decide
  unfold PortCtl.nextNotice
  rw [List.findSome?_eq_some_iff]
  refine ⟨allDrives.take n.val, n, allDrives.drop (n.val + 1), hl n, if_neg hn, fun m hm => ?_⟩
  simp [hlow m (hlt n m hm)]

theorem PortCtl.nextNotice_none {c : PortCtl} (h : ∀ n, c.notices.get n &&& ~~~c.access.mask = 0) : c.nextNotice = none := by
  unfold PortCtl.nextNotice
  rw [List.findSome?_eq_none_iff]
  exact fun n _ => by simp [h n]

theorem State.modPort_congr {p : Port} {f g : PortCtl → PortCtl} (h : f (s.port p) = g (s.port p)) : s.modPort p f = s.modPort p g :=
  congrArg (fun c => { s with ports := s.ports.set p c }) h

/-- The kinds a NOTICE leaves pending are the masked ones. -/
theorem masked_kept (a m : Byte) : a &&& ~~~(a &&& ~~~m) = a &&& m := by
  ext i hi
  simp only [BitVec.getElem_and, BitVec.getElem_not]
  cases a[i] <;> cases m[i] <;> rfl

/-- R159: a transmitter that sends starts nothing. -/
theorem State.startFrame_sending {p : Port} (h : (s.port p).sending.isSome = true) : s.startFrame p = none := by
  unfold State.startFrame
  exact if_pos h

/-- Settles O44: each event sets its notice among changes that leave the pending sets alone, and a free transmitter takes the head of its
first source. -/
theorem noticesAndTransmitter : Obligations.NoticesAndTransmitter := by
  unfold Obligations.NoticesAndTransmitter
  refine ⟨fun s d => ⟨s.enterReady_noticed d, s.enterNotReady_noticed d, s.enterMapLost_noticed d, State.endMapWrite_noticed,
    fun i e c => (NoticesKept.refl s).rest.noticed (.refl _), s.reassignStuck_noticed d, fun hs hh =>
      ⟨State.reassignDone_noticed hs hh, State.reassignFail_noticed hs hh⟩⟩, fun s p => ⟨State.startFrame_sending, fun hs => ?_⟩⟩
  have free : ¬(s.port p).sending.isSome = true := by rw [hs]; nofun
  refine ⟨fun f rest hr => ?_, fun hr f rest he => ?_, fun hr he f rest hq => ?_, fun hr he hq => ⟨fun x hx => ?_, fun hx => ⟨fun n hlow hn => ?_,
    fun hn => ?_⟩⟩⟩ <;> unfold State.startFrame <;> dsimp only <;> rw [if_neg free]
  · rw [hr]
  · rw [hr, he]
  · rw [hr, he, hq]
  · rw [hr, he, hq, hx]
    exact ⟨_, rfl, fun q hq => by rw [hq]; rfl⟩
  · rw [hr, he, hq, hx, PortCtl.nextNotice_of hlow hn]
    exact congrArg some (State.modPort_congr (by dsimp only; rw [masked_kept]))
  · rw [hr, he, hq, hx, PortCtl.nextNotice_none hn]

end Sys2Proof.Machine
end

section
/-! The home sensor ends a recalibration (R10, R39, R105, R114, R115). -/

namespace Sys2Proof.Machine

-- One declaration after the other: in parallel the one compile of the whole text runs out of threads.
set_option Elab.async false

variable {s t u : State} {d : DriveId} {x y : Drive} {op : Op}

/-! ## A channel at home -/

/-- R39: the channel as the home sensor leaves it, or under way from there; no further RECALIBRATE waits. -/
structure Drive.AtHome (x : Drive) : Prop where
  pos : x.chan.pos = 0
  known : x.chan.known = true
  inward : x.chan.inward = true
  phase : x.chan.phase = .idle ∨ x.chan.phase.inFlight = true
  recal : x.pendRecal = false
  room : ∃ g, x.geom = some g ∧ 0 < g.maxPos

theorem Drive.AtHome.of (h : x.AtHome) (hc : y.chan = x.chan) (hp : x.pendRecal = false → y.pendRecal = false) (hg : y.geom = x.geom) : y.AtHome := by
  obtain ⟨h1, h2, h3, h4, h5, h6⟩ := h
  exact ⟨hc ▸ h1, hc ▸ h2, hc ▸ h3, hc ▸ h4, hp h5, hg ▸ h6⟩

/-- R105 step 5: reaching the transfer moves nothing. -/
theorem State.drive_reachTransfer (s : State) (d : DriveId) : ((s.reachTransfer d).drive d).chan = (s.drive d).chan ∧
    ((s.reachTransfer d).drive d).pendRecal = (s.drive d).pendRecal ∧ ((s.reachTransfer d).drive d).geom = (s.drive d).geom ∧
    ((s.reachTransfer d).drive d).tally = (s.drive d).tally := by
  unfold State.reachTransfer
  split
  · exact ⟨rfl, rfl, rfl, rfl⟩
  · dsimp only
    split
    · rw [State.drive_endOrder, State.drive_clearOp, if_pos rfl, State.drive_modDrive_self]
      exact ⟨rfl, rfl, rfl, rfl⟩
    · rw [State.drive_modDrive_self]
      exact ⟨rfl, rfl, rfl, rfl⟩

/-- R29: a seek from home goes inward, and the fine position is as it was until the first update. -/
theorem Drive.AtHome.seekTo (h : (s.drive d).AtHome) (n : Nat) : ((s.seekTo d n).drive d).AtHome := by
  unfold State.seekTo
  dsimp only
  split
  · exact h.of (by simp) (by simp) (by simp)
  · next hf =>
    have hi : (s.drive d).chan.phase = .idle := h.phase.resolve_right hf
    rw [if_pos (by simp [Channel.onCylinder, hi, h.known])]
    split
    · obtain ⟨hc, hp, hg, -⟩ := (s.modChan d fun ch => { ch with target := n }).drive_reachTransfer d
      rw [State.modChan, State.drive_modDrive_self] at hc hp hg
      have h0 : ({ s.drive d with chan := { (s.drive d).chan with target := n } } : Drive).AtHome :=
        ⟨h.pos, h.known, h.inward, h.phase, h.recal, h.room⟩
      exact h0.of hc hp.trans hg
    · next hn =>
      obtain ⟨g, hg, hroom⟩ := h.room
      have hlt : (s.drive d).chan.pos < (s.drive d).targetIn n := by
        rw [h.pos] at hn ⊢
        simp only [Drive.targetIn, hg, Option.map_some, Option.getD_some]
        omega
      simp only [State.beginSeek, State.drive_modOp, State.drive_tallyDrive, State.drive_modDrive_self]
      exact ⟨h.pos, h.known, decide_eq_true hlt, .inr rfl, h.recal, h.room⟩

/-! ## Selection and the immediate actions from home -/

theorem Drive.AtHome.startInternal (h : (s.drive d).AtHome) {k : OpKind} (hk : (s.drive d).nextInternal = some k) :
    ((s.startInternal d k).drive d).AtHome := by
  obtain ⟨-, hp⟩ | ⟨rfl, -⟩ | ⟨rfl, -⟩ | ⟨rfl, -⟩ := Drive.nextInternal_cases hk
  · rw [h.recal] at hp; cases hp
  · unfold State.startInternal State.startMapLoad
    dsimp only
    split
    · exact h.of (by simp) (by simp) (by simp)
    · exact Drive.AtHome.seekTo (h.of (by simp) (by simp) (by simp)) _
  · unfold State.startInternal State.startMapWrite
    dsimp only
    split
    · exact h.of (by simp) (by simp) (by simp)
    · exact Drive.AtHome.seekTo (h.of (by simp) (by simp) (by simp)) _
  · unfold State.startInternal State.startReassign
    dsimp only
    split
    · split
      · exact h.of (by simp) (by simp) (by simp)
      · split
        · refine h.of ?_ ?_ ?_ <;> simp [State.reassignStuck, State.endWaiting, State.countReassignFailure]
        · refine Drive.AtHome.seekTo ?_ _
          simp only [State.drive_setOp, State.drive_setEngine, State.drive_setSlot, State.drive_modDrive_self]
          generalize hx : ({ s.drive d with pendReassign := false } : Drive) = x
          have h0 : x.AtHome := hx ▸ h.of rfl id rfl
          exact h0.of (Drive.chan_beginSparing _ _ _)
            (fun hp => Bool.eq_false_of_not_eq_true fun ht => by rw [(Drive.Calm.beginSparing x _ _).recal ht] at hp; cases hp)
            (Drive.Calm.beginSparing x _ _).geom
    · exact h.of (by simp) (by simp) (by simp)

theorem Drive.AtHome.takeEntry (h : (s.drive d).AtHome) (es : List (Port × Order)) (c : Choice) :
    ((s.takeEntry d es c).drive d).AtHome := by
  have hp : ∀ b : Bool, (if b then s.passOver es c.entry.2.oid else s).drive d = s.drive d := by
    intro b; cases b <;> simp
  unfold State.takeEntry
  dsimp only
  split
  · unfold State.startSurface
    split
    · exact h.of (by simp [hp]) (by simp [hp]) (by simp [hp])
    · exact Drive.AtHome.seekTo (h.of (by simp [hp]) (by simp [hp]) (by simp [hp])) _
  · exact Drive.AtHome.seekTo (h.of (by simp [hp]) (by simp [hp]) (by simp [hp])) _

theorem Drive.AtHome.select (h : (s.drive d).AtHome) (hs : s.select d = some t) : (t.drive d).AtHome := by
  unfold State.select at hs
  split at hs
  · cases hs
  · split at hs
    · next k hk => cases hs; exact h.startInternal hk
    · obtain ⟨c, -, rfl⟩ := Option.map_eq_some_iff.mp hs
      exact h.takeEntry _ c

theorem Drive.AtHome.act (h : (s.drive d).AtHome) (hs : s.act = some t) : (t.drive d).AtHome := by
  rcases State.act_drives hs with hs | ⟨e, hs⟩ | ⟨e, hs⟩ | ⟨e, f, hs⟩ | ⟨e, -, rfl⟩
  · rwa [State.drive_eq_of_drives hs]
  · rw [State.drive_eq_of_drives hs, State.drive_modDrive]
    split <;> [exact h.of rfl id rfl; exact h]
  · by_cases hde : d = e
    · subst hde; exact h.select hs
    · rwa [State.drive_of_others (State.others_select hs) hde]
  · rw [State.drive_eq_of_drives hs, State.drive_modDrive]
    split <;> [exact h.of rfl id rfl; exact h]
  · unfold State.enterSpinningUp
    rw [State.setDriveState_toState, State.modDrive_modDrive, State.drive_modDrive]
    split <;> [exact h.of rfl id rfl; exact h]

theorem Drive.AtHome.settle (h : (s.drive d).AtHome) (n : Nat) : ((settle n s).drive d).AtHome :=
  settle_rel (P := fun s t => (s.drive d).AtHome → (t.drive d).AtHome) (fun _ => id) (fun _ _ _ h1 h2 => h2 ∘ h1)
    (fun _ _ ha hs => hs.act ha) n s h

/-! ## A drive at work keeps its count of seeks -/

theorem State.seeks_modDrive (s : State) (d e : DriveId) (f : Drive → Drive) (hf : ∀ x, (f x).tally.seeks = x.tally.seeks) :
    ((s.modDrive e f).drive d).tally.seeks = (s.drive d).tally.seeks := by
  rw [State.drive_modDrive]
  split <;> [exact hf _; rfl]

/-- R45: of the immediate actions only a selection starts a seek. -/
theorem State.act_seeks (ha : s.act = some t) (h : (s.drive d).takesNoWork = true) :
    (t.drive d).tally.seeks = (s.drive d).tally.seeks := by
  have of : ∀ {u v : State}, u.drives = v.drives → (u.drive d).tally.seeks = (v.drive d).tally.seeks := fun hu => by
    rw [State.drive_eq_of_drives hu]
  rcases State.act_cases ha with ha | ha | ha | ha | ha | ha | ha | ha | ha | ha
  · obtain ⟨_, _, _, _, rfl⟩ := State.actBoundary_eq ha; rfl
  · obtain ⟨_, _, rfl⟩ := State.actOffer_eq ha; rfl
  · obtain ⟨_, _, _, rfl⟩ | ⟨_, rfl⟩ := State.actSlots_eq ha <;> rfl
  · obtain ⟨_, rfl⟩ := State.actFence_eq ha; exact of (State.drives_endOrder _ _ _)
  · obtain ⟨_, rfl⟩ | ⟨_, _, _, rfl⟩ := State.actEnding_eq ha <;> rfl
  · obtain ⟨_, _, rfl⟩ := State.actCandidate_eq ha
    obtain hd | ⟨e, hd⟩ := State.drives_takeCandidate s _
    · exact of hd
    · exact (of hd).trans (s.seeks_modDrive d e _ fun _ => rfl)
  · obtain ⟨e, hs⟩ := State.actSelect_eq ha
    have hde : d ≠ e := by
      rintro rfl
      rw [State.select_none h] at hs
      cases hs
    rw [State.drive_of_others (State.others_select hs) hde]
  · obtain ⟨_, e, rfl | ⟨op, _, ⟨_, rfl⟩ | rfl⟩⟩ := State.actGrant_eq ha
    · exact s.seeks_modDrive d e _ fun _ => rfl
    · exact (of (State.drives_takePlace _ _)).trans (s.seeks_modDrive d e (fun x => { x with request := false }) fun _ => rfl)
    · have h1 := s.seeks_modDrive d e (fun x => { x with request := false }) fun _ => rfl
      unfold State.countMiss
      split
      · exact (State.seeks_modDrive _ d e (fun x => { x with tally := x.tally.raiseRingMisses }) fun _ => rfl).trans h1
      · exact (State.seeks_modDrive _ d e (fun x => { x with tally := x.tally.raiseSlotMisses }) fun _ => rfl).trans h1
      all_goals exact h1
  · obtain ⟨e, _, rfl⟩ := State.actSpin_eq ha
    unfold State.enterSpinningUp
    rw [State.setDriveState_toState, State.modDrive_modDrive]
    refine s.seeks_modDrive d e _ ?_
    exact fun _ => rfl
  · obtain ⟨_, _, ha⟩ := State.actSend_eq ha
    cases ha <;> rfl

theorem settle_seeks (n : Nat) (h : (s.drive d).takesNoWork = true) :
    ((settle n s).drive d).tally.seeks = (s.drive d).tally.seeks :=
  (settle_rel (P := fun s t => (s.drive d).takesNoWork = true →
    (t.drive d).takesNoWork = true ∧ (t.drive d).tally.seeks = (s.drive d).tally.seeks) (fun _ h => ⟨h, rfl⟩)
    (fun _ _ _ h1 h2 h => ⟨(h2 (h1 h).1).1, (h2 (h1 h).1).2.trans (h1 h).2⟩)
    (fun _ _ ha h => ⟨(Drive.takesNoWork_of_kept (BusyKept.act ha d h)).trans h, State.act_seeks ha h⟩) n s h).2

/-! ## The home-found report (R39) -/

/-- R39: the channel at the home sensor. -/
def Channel.homed (ch : Channel) : Channel :=
  { ch with recalCount := ch.recalCount + 1, pos := 0, vel := 0, inward := true, known := true, phase := .idle }

theorem Channel.law_homed {m : Nat} {ch : Channel} (h : ch.law m) : ch.homed.law m := ⟨h.profile, h.staged, Nat.zero_le _, fun _ => rfl⟩

/-- R39: the update that sees the home sensor reports it. -/
theorem State.channelUpdate_home (h : (s.drive d).chan.phase = .recal) :
    s.channelUpdate d true = (s.modChan d Channel.homed).homeFoundReport d := by
  have hr : (s.drive d).chan.updateReport true = .homeFound := by simp [Channel.updateReport, h]
  have hh : (s.drive d).chan.updateHard s.m = false := by simp [Channel.updateHard, h]
  have hc : s.modChan d (fun ch => ch.update s.m true) = s.modChan d Channel.homed := by
    refine congrArg (fun x => { s with drives := s.drives.set d x }) ?_
    have hu : (s.drive d).chan.update s.m true = (s.drive d).chan.homed := by
      simp only [Channel.update, h]
      rfl
    exact congrArg (fun c => { s.drive d with chan := c }) hu
  unfold State.channelUpdate
  dsimp only
  rw [hr, hh, hc]
  rfl

/-- R22: the update of a served address's channel with the home sensor seen, and what it leaves alone. -/
theorem State.exec_home (hp : s.powered = true) (hv : served s.plugs.mode8 d = true) (h : (s.drive d).chan.phase = .recal) :
    ∃ t, exec (.positionerUpdate d true) s = .next t ∧ t = settle settleFuel ((s.modChan d Channel.homed).homeFoundReport d) ∧
      Untouched s t [] [] ∧ t.media = s.media := by
  have he : s.positionerUpdate d true = (s.modChan d Channel.homed).homeFoundReport d := by
    rw [State.positionerUpdate, if_pos hv, State.channelUpdate_home h]
  have w : Work s (settle settleFuel ((s.modChan d Channel.homed).homeFoundReport d)) :=
    (((Work.refl s).modChan d _ fun _ => Channel.law_homed).homeFoundReport d).settle _
  exact ⟨_, (State.run_powered hp fun s => s.positionerUpdate d true).trans (by rw [he]), rfl, w.untouched _ _, w.laid⟩

/-- R105, R114: the seek a recalibration was made for starts from position 0. -/
theorem State.seekTo_homed (n : Nat) : (s.modChan d Channel.homed).seekTo d n =
    if n = 0 then ((s.modChan d Channel.homed).modChan d fun ch => { ch with target := n }).reachTransfer d
    else (s.modChan d Channel.homed).beginSeek d n .transfer := by
  have hc : ((s.modChan d Channel.homed).drive d).chan = (s.drive d).chan.homed := by rw [State.modChan, State.drive_modDrive_self]
  unfold State.seekTo
  dsimp only
  rw [hc, if_neg (by simp [Channel.homed, Phase.inFlight, Phase.seeking]), if_pos (by simp [Channel.homed, Channel.onCylinder])]
  exact if_congr (eq_comm (a := 0)) rfl rfl

/-- R39, R10: in RECALIBRATING the end of the RECALIBRATE is followed by the map step. -/
theorem State.mapStep_state (s : State) (d : DriveId) : ((s.mapStep d).drive d).state =
    if (s.drive d).mapState = .dirty then .writingMap else if (s.drive d).mapHeld then .ready else .loadingMap := by
  unfold State.mapStep
  split
  · rw [State.drive_modDrive_self, State.drive_setDriveState_self]; rfl
  · split
    · unfold State.enterReady
      dsimp only
      rw [State.drive_endStateOrders, State.drive_setNotice, State.drive_modDrive_self, State.drive_setDriveState_self]; rfl
    · rw [State.drive_modDrive_self, State.drive_setDriveState_self]; rfl

theorem Drive.AtHome.mapStep (h : (s.drive d).AtHome) : ((s.mapStep d).drive d).AtHome := by
  unfold State.mapStep
  split
  · rw [State.drive_modDrive_self, State.drive_setDriveState_self]
    exact h.of rfl id rfl
  · split
    · unfold State.enterReady
      dsimp only
      rw [State.drive_endStateOrders, State.drive_setNotice, State.drive_modDrive_self, State.drive_setDriveState_self]
      exact h.of rfl id rfl
    · rw [State.drive_modDrive_self, State.drive_setDriveState_self]
      exact h.of rfl id rfl

theorem State.homeFoundReport_next {n : Nat} (hc : (s.drive d).cur = some op) (hs : op.stage = .moving (.recal (some n))) :
    s.homeFoundReport d = s.seekTo d n := by
  unfold State.homeFoundReport
  simp only [hc, hs]

theorem State.homeFoundReport_done (hc : (s.drive d).cur = some op) (hs : op.stage = .moving (.recal none))
    (hst : (s.drive d).state = .recalibrating) : s.homeFoundReport d = (s.clearOp d).mapStep d := by
  unfold State.homeFoundReport
  simp only [hc, hs]
  rw [if_pos]
  rwa [State.drive_clearOp, if_pos rfl]

/-- A drive with a current operation keeps its operation, its channel, its head and its seeks through the immediate actions. -/
theorem settle_current (n : Nat) (hc : (s.drive d).cur = some op) (hs : (s.drive d).state ≠ .waitingSpin) :
    ((settle n s).drive d).chan = (s.drive d).chan ∧ ((settle n s).drive d).headSel = (s.drive d).headSel ∧
      ((settle n s).drive d).cur = some op ∧ ((settle n s).drive d).tally.seeks = (s.drive d).tally.seeks := by
  have hno : (s.drive d).takesNoWork = true := by simp [Drive.takesNoWork, hc, hs]
  have hk := settle_busy n s d hno
  exact ⟨(congrArg Drive.chan hk :), (congrArg Drive.headSel hk :), (congrArg Drive.cur hk :).trans hc, settle_seeks n hno⟩

/-- Settles O14: the home-found report makes the map step, or asks for the seek from position 0. -/
theorem homeFoundGoesOn : Obligations.HomeFoundGoesOn := by
  unfold Obligations.HomeFoundGoesOn
  intro d op s hp hv hph hcur
  obtain ⟨t, hx, rfl, hu, hm⟩ := State.exec_home (d := d) hp hv hph
  have hdr : (s.modChan d Channel.homed).drive d = { s.drive d with chan := (s.drive d).chan.homed } := by
    rw [State.modChan, State.drive_modDrive_self]
  have hwc : ((s.modChan d Channel.homed).drive d).cur = some op := by rw [hdr]; exact hcur
  have hwst : ((s.modChan d Channel.homed).drive d).state = (s.drive d).state := by rw [hdr]
  refine ⟨fun hst hs => ⟨_, hx, hu, hm, ?_⟩, fun target hs hst => ⟨_, hx, hu, hm, fun h0 hk => ?_, fun g hg h0 hmax => ?_⟩⟩
  · rw [State.homeFoundReport_done hwc hs (hwst.trans hst)]
    have hd : ((s.modChan d Channel.homed).clearOp d).drive d =
        { s.drive d with chan := (s.drive d).chan.homed, cur := none, request := false } := by
      rw [State.drive_clearOp, if_pos rfl, hdr]
    have hms := ((s.modChan d Channel.homed).clearOp d).mapStep_state d
    rw [hd] at hms
    refine ⟨(settle_state ?_).trans hms, fun hrec hgeo => ?_⟩
    · rw [hms]
      split_ifs <;> decide
    · obtain ⟨g, hg, hcons⟩ := hgeo
      have h0 : (((s.modChan d Channel.homed).clearOp d).drive d).AtHome := by
        rw [hd]
        refine ⟨rfl, rfl, rfl, .inl rfl, hrec, g, hg, ?_⟩
        simp only [Geometry.consistent, Bool.and_eq_true, decide_eq_true_eq] at hcons
        simp only [Geometry.maxPos]
        omega
      have h1 := h0.mapStep.settle settleFuel
      exact ⟨h1.pos, h1.known, h1.inward⟩
  · rw [State.homeFoundReport_next hwc hs, State.seekTo_homed, if_pos h0, h0]
    have hd : (((s.modChan d Channel.homed).modChan d fun ch => { ch with target := 0 }).reachTransfer d).drive d =
        { s.drive d with chan := { (s.drive d).chan.homed with target := 0 }, headSel := op.phys.head, cur := some { op with stage := .transfer } } := by
      unfold State.reachTransfer
      rw [State.modChan, State.drive_modDrive_self, hdr]
      simp only [hcur, if_neg hk, State.drive_modDrive_self, hdr]
    generalize ((s.modChan d Channel.homed).modChan d fun ch => { ch with target := 0 }).reachTransfer d = v at hd
    obtain ⟨h1, h2, h3, h4⟩ := settle_current (d := d) (s := v) settleFuel (by rw [hd]) (by rw [hd]; exact hst)
    exact ⟨h1.trans (by rw [hd]; rfl), h2.trans (by rw [hd]), h3, h4.trans (by rw [hd])⟩
  · rw [State.homeFoundReport_next hwc hs, State.seekTo_homed, if_neg (by omega)]
    have ht : ((s.modChan d Channel.homed).drive d).targetIn target = target := by
      rw [hdr]
      simp [Drive.targetIn, hg, hmax]
    have hd : ((s.modChan d Channel.homed).beginSeek d target .transfer).drive d =
        { s.drive d with
          chan := (s.drive d).chan.homed.startSeek target, tally := (s.drive d).tally.raiseSeeks,
          cur := some { op with stage := .moving (.seek target .transfer) } } := by
      simp only [State.beginSeek, State.drive_modOp, State.drive_tallyDrive, State.drive_modDrive_self, ht]
      simp only [hdr, hcur, Option.map_some]
    generalize (s.modChan d Channel.homed).beginSeek d target .transfer = v at hd
    obtain ⟨h1, -, h3, h4⟩ := settle_current (d := d) (s := v) settleFuel (by rw [hd]) (by rw [hd]; exact hst)
    refine ⟨h1.trans ?_, h3, h4.trans (by rw [hd]; rfl)⟩
    rw [hd]
    have hin : decide ((s.drive d).chan.homed.pos < target) = true := decide_eq_true h0
    simp only [Channel.startSeek, Channel.adopt, hin]
    rfl

end Sys2Proof.Machine
end

section
/-! POWER_ON (R1 to R4, R8, R21, R22, R77, R84, R92, R126, R139, R149, R158, R162, R168, R169). -/

namespace Sys2Proof.Machine

-- One declaration after the other: in parallel the one compile of the whole text runs out of threads.
set_option Elab.async false

variable {s t u : State} {d : DriveId} {x y : Drive}

/-! ## A controller with nothing to do -/

/-- A drive sequencer with nothing to do (R98). -/
structure Drive.Idle (x : Drive) : Prop where
  cur : x.cur = none
  queue : x.queue = []
  recal : x.pendRecal = false
  load : x.pendLoad = false
  write : x.pendWrite = false
  reassign : x.pendReassign = false
  request : x.request = false

/-- A port controller with nothing to do (R149, R159). -/
structure PortCtl.Idle (c : PortCtl) : Prop where
  slots : c.slots = Quad.all none
  replies : c.replies = []
  endings : c.endings = []
  dataReqs : c.dataReqs = []
  sending : c.sending = none
  offered : c.offered = none
  notices : c.notices = Oct.all 0

/-- A controller in which only the spin-up turn is left to grant. -/
structure State.Quiet (s : State) : Prop where
  drive : ∀ d, (s.drive d).Idle
  port : ∀ p, (s.port p).Idle
  path : s.path = DataPath.initial
  ring : s.ring = Ring.initial
  watch : s.watch = List.replicate 16 .empty
  closing : s.closing = []

theorem State.Quiet.orderList (h : s.Quiet) : s.orderList = [] := by
  unfold State.orderList
  rw [List.flatMap_eq_nil_iff]
  intro p _
  rw [(h.port p).slots]
  rfl

theorem State.Quiet.offer (h : s.Quiet) (p : Port) : s.ring.offer p = none := by
  rw [h.ring]
  rfl

theorem State.Quiet.select (h : s.Quiet) (d : DriveId) : s.select d = none := by
  have hd := h.drive d
  have hi : (s.drive d).nextInternal = none := by simp [Drive.nextInternal, hd.recal, hd.load, hd.write, hd.reassign]
  have he : s.eligibleEntries d = [] := by simp [State.eligibleEntries, hd.queue]
  unfold State.select
  rw [if_neg (by simp [hd.cur]), hi]
  dsimp only
  rw [he]
  simp [State.chooseEntry, State.nearest]

theorem State.Quiet.startFrame (h : s.Quiet) (p : Port) : s.startFrame p = none := by
  have hp := h.port p
  unfold State.startFrame
  dsimp only
  rw [if_neg (by simp [hp.sending]), hp.replies, hp.endings, hp.dataReqs, h.offer p,
    PortCtl.nextNotice_none fun n => by rw [hp.notices, Oct.get_all]; exact BitVec.zero_and]

theorem State.Quiet.bestCandidate (h : s.Quiet) : s.bestCandidate = none := by
  unfold State.bestCandidate
  rw [h.watch]
  rfl

/-- R8: of the immediate actions only the spin-up turn is enabled. -/
theorem State.Quiet.act (h : s.Quiet) : s.act = s.actSpin := by
  have h1 : s.actBoundary = none := by rw [State.actBoundary, h.ring]; rfl
  have h2 : s.actOffer = none := by
    unfold State.actOffer
    rw [List.find?_eq_none.mpr]
    intro p _
    simp [PortCtl.offers, (h.port p).offered, h.offer p]
  have h3 : s.actSlots = none := by
    unfold State.actSlots
    rw [List.findSome?_eq_none_iff.mpr]
    intro d _
    simp [State.newlyWanting, (h.drive d).cur]
  have h4 : s.actFence = none := by rw [State.actFence, h.orderList]; rfl
  have h5 : s.actEnding = none := by rw [State.actEnding, h.closing]; rfl
  have h6 : s.actCandidate = none := by
    unfold State.actCandidate
    rw [h.bestCandidate]
    split <;> rfl
  have h7 : s.actSelect = none := List.findSome?_eq_none_iff.mpr fun d _ => h.select d
  have h8 : s.actGrant = none := by
    have hn : s.nextGrantee = none := List.find?_eq_none.mpr fun d _ => by simp [(h.drive d).request]
    rw [State.actGrant, hn]
    split <;> rfl
  have h10 : s.actSend = none := List.findSome?_eq_none_iff.mpr fun p _ => h.startFrame p
  unfold State.act
  rw [h1, h2, h3, h4, h5, h6, h7, h8, h10]
  cases s.actSpin <;> rfl

/-- R6, R8, R9: a drive as it goes to SPINNING UP. -/
def Drive.spun (now : Nat) (x : Drive) : Drive :=
  { (x.toState .spinningUp now).emptyMap with lastIndex := none, qual := 0, spinFrom := now, mapHeld := false }

theorem State.enterSpinningUp_eq (s : State) (d : DriveId) : s.enterSpinningUp d = s.modDrive d (Drive.spun s.clock) := by
  unfold State.enterSpinningUp
  rw [State.setDriveState_toState, State.modDrive_modDrive]
  rfl

theorem State.Quiet.enterSpinningUp (h : s.Quiet) (d : DriveId) : (s.enterSpinningUp d).Quiet := by
  rw [State.enterSpinningUp_eq]
  refine ⟨fun e => ?_, h.port, h.path, h.ring, h.watch, h.closing⟩
  rw [State.drive_modDrive]
  split
  · obtain ⟨h1, h2, h3, h4, h5, h6, h7⟩ := h.drive e
    exact ⟨h1, h2, h3, h4, h5, h6, h7⟩
  · exact h.drive e

theorem find_allDrives {p : DriveId → Bool} (h : p d = true) (hlow : ∀ e, e < d → p e = false) : allDrives.find? p = some d := by
  have hl : ∀ n : DriveId, allDrives = allDrives.take n.val ++ n :: allDrives.drop (n.val + 1) := by decide
  have hlt : ∀ n m : DriveId, m ∈ allDrives.take n.val → m < n := by decide
  rw [List.find?_eq_some_iff_append]
  exact ⟨h, _, _, hl d, fun e he => by simp [hlow e (hlt d e he)]⟩

/-- R8: with a turn under way, or nobody to take it, a quiet controller does nothing. -/
theorem State.Quiet.settle_still (h : s.Quiet)
    (hs : (∃ e, (s.drive e).state = .spinningUp) ∨ ∀ e, (s.drive e).state ≠ .waitingSpin) (n : Nat) : settle n s = s := by
  have ha : s.act = none := by
    rw [h.act]
    unfold State.actSpin
    split
    · rfl
    · next hany =>
      rcases hs with ⟨e, he⟩ | hw
      · exact absurd (List.any_eq_true.mpr ⟨e, mem_allDrives e, by simpa using he⟩) hany
      · rw [List.find?_eq_none.mpr fun e _ => by simpa using hw e]
        rfl
  cases n with
  | zero => rfl
  | succ n => rw [settle, ha]

/-- R8: the lowest WAITING SPIN drive takes the free spin-up turn. -/
theorem State.Quiet.settle_spin (h : s.Quiet) (hfree : ∀ e, (s.drive e).state ≠ .spinningUp) (hd : (s.drive d).state = .waitingSpin)
    (hlow : ∀ e, e < d → (s.drive e).state ≠ .waitingSpin) (n : Nat) : settle (n + 1) s = s.enterSpinningUp d := by
  have ha : s.act = some (s.enterSpinningUp d) := by
    rw [h.act]
    unfold State.actSpin
    rw [if_neg (by simpa using fun e _ => hfree e), find_allDrives (p := fun d => (s.drive d).state = .waitingSpin) (d := d) (by simpa using hd)
      fun e he => by simpa using hlow e he]
    rfl
  rw [settle, ha]
  refine (h.enterSpinningUp d).settle_still (.inl ⟨d, ?_⟩) n
  rw [State.enterSpinningUp_eq, State.drive_modDrive_self]
  rfl

/-! ## The state rebuilt -/

theorem Drive.atPowerOn_idle' (m sv : Bool) (seen : Option (Fin 16)) (old : Drive) : (Drive.atPowerOn m sv seen old).Idle := by
  obtain ⟨h1, h2, h3, h4, h5⟩ := Drive.atPowerOn_idle m sv seen old
  refine ⟨h1, ?_, h2, h3, h4, h5, ?_⟩ <;> unfold Drive.atPowerOn <;> cases m <;> cases (if sv = true then seen else none) <;> rfl

theorem State.poweredOn_quiet (s : State) (plugs : Plugs) (poll : Poll) : (s.poweredOn plugs poll).Quiet := by
  refine ⟨fun d => ?_, fun p => ?_, rfl, rfl, rfl, rfl⟩
  · rw [State.drive_poweredOn]
    exact Drive.atPowerOn_idle' _ _ _ _
  · have hp : (s.poweredOn plugs poll).port p = PortCtl.initial (p = plugs.maintenance) := Quad.get_of _ _
    rw [hp]
    exact ⟨rfl, rfl, rfl, rfl, rfl, rfl, rfl⟩

/-- R21, R168, R162: the parts of a drive a power-on rebuilds alike, whether a drive is found or not. -/
structure Drive.Rebuilt (mode8 : Bool) (old x : Drive) : Prop where
  holder : x.holder = none
  counter : x.counter = 0
  tally : x.tally = DriveTallies.zero
  spare : x.spare = []
  clean : x.mapState = .clean
  held : x.mapHeld = false
  pool : x.pool = x.freshPool
  cur : x.cur = none
  queue : x.queue = []
  sweep : x.sweepIn = true
  chan : x.chan = Channel.initial x.profile
  policy : x.policy = if mode8 = true ∧ old.policyLater = true then
    { old.policy with verifyThreshold := min (max old.policy.verifyThreshold 1) ((x.geom.map Geometry.s).getD 32) } else Policy.initial

theorem Drive.atPowerOn_rebuilt (m sv : Bool) (seen : Option (Fin 16)) (old : Drive) : Drive.Rebuilt m old (Drive.atPowerOn m sv seen old) := by
  have hd : ∀ q, (Drive.defaults q).policy = Policy.initial ∧ (Drive.defaults q).holder = none ∧ (Drive.defaults q).counter = 0 ∧
      (Drive.defaults q).tally = DriveTallies.zero ∧ (Drive.defaults q).spare = [] ∧ (Drive.defaults q).mapState = .clean ∧
      (Drive.defaults q).mapHeld = false ∧ (Drive.defaults q).cur = none ∧ (Drive.defaults q).queue = [] ∧
      (Drive.defaults q).sweepIn = true := fun q => by cases q <;> exact ⟨rfl, rfl, rfl, rfl, rfl, rfl, rfl, rfl, rfl, rfl⟩
  unfold Drive.atPowerOn
  dsimp only
  obtain ⟨h1, h2, h3, h4, h5, h6, h7, h8, h9, h10⟩ := hd (if sv = true then seen else none)
  generalize Drive.defaults (if sv = true then seen else none) = x at *
  cases m with
  | false => exact ⟨h2, h3, h4, h5, h6, h7, rfl, h8, h9, h10, rfl, h1⟩
  | true =>
    refine ⟨h2, h3, h4, h5, h6, h7, rfl, h8, h9, h10, rfl, ?_⟩
    simp only [if_true, Drive.withLater, true_and]
    split
    · rfl
    · exact h1

theorem Drive.Rebuilt.spun {m : Bool} (h : Drive.Rebuilt m y x) (now : Nat) : Drive.Rebuilt m y (x.spun now) := by
  obtain ⟨h1, h2, h3, -, -, -, -, h8, h9, h10, h11, h12⟩ := h
  exact ⟨h1, h2, h3, rfl, rfl, rfl, rfl, h8, h9, h10, h11, h12⟩

/-- R3, R162, R168: the type, geometry and profile of a drive found. -/
theorem Drive.atPowerOn_found (m : Bool) (n : Fin 16) (old : Drive) : (Drive.atPowerOn m true (some n) old).plugType = n.val ∧
    (Drive.atPowerOn m true (some n) old).geom = (if m = true ∧ old.geomLater = true then old.geom else builtinGeometry n.val) ∧
    (Drive.atPowerOn m true (some n) old).profile = (if m = true ∧ old.profileLater = true then old.profile else builtinProfile n.val) := by
  cases m with
  | false => exact ⟨rfl, rfl, rfl⟩
  | true => exact ⟨rfl, by simp [Drive.atPowerOn, Drive.withLater, Drive.defaults], by simp [Drive.atPowerOn, Drive.withLater, Drive.defaults]⟩

/-- R2, R4: the poll finds a drive at a served address. -/
def pollFinds (plugs : Plugs) (poll : Poll) (d : DriveId) : Prop := served plugs.mode8 d = true ∧ (poll.get d).isSome = true

theorem State.poweredOn_state (s : State) (plugs : Plugs) (poll : Poll) (d : DriveId) :
    (pollFinds plugs poll d → ((s.poweredOn plugs poll).drive d).state = .waitingSpin) ∧
      (¬pollFinds plugs poll d → ((s.poweredOn plugs poll).drive d).state = .absent) := by
  rw [State.drive_poweredOn, Drive.atPowerOn_state, pollFinds]
  refine ⟨fun ⟨h1, h2⟩ => by rw [if_pos h1, if_pos h2], fun h => if_neg fun hs => ?_⟩
  split at hs
  · next h1 => exact h ⟨h1, hs⟩
  · cases hs

/-- R8: what the immediate actions make of the state rebuilt: the lowest drive found has the spin-up turn. -/
theorem State.poweredOn_settle (s : State) (plugs : Plugs) (poll : Poll) :
    (settle settleFuel (s.poweredOn plugs poll) = s.poweredOn plugs poll ∧ ∀ d, ¬pollFinds plugs poll d) ∨
      ∃ d, settle settleFuel (s.poweredOn plugs poll) = (s.poweredOn plugs poll).modDrive d (Drive.spun 0) ∧
        pollFinds plugs poll d ∧ ∀ e, e < d → ¬pollFinds plugs poll e := by
  have hq := s.poweredOn_quiet plugs poll
  have hst := s.poweredOn_state plugs poll
  by_cases hf : ∃ d, pollFinds plugs poll d
  · obtain ⟨d, hd, hmin⟩ := wellFounded_lt.has_min {d : DriveId | pollFinds plugs poll d} hf
    have hlow : ∀ e, e < d → ¬pollFinds plugs poll e := fun e he h => hmin e h he
    refine .inr ⟨d, ?_, hd, hlow⟩
    refine (hq.settle_spin (n := 1999) (fun e he => ?_) ((hst d).1 hd) fun e he h => ?_).trans (State.enterSpinningUp_eq _ _)
    · by_cases h : pollFinds plugs poll e
      · rw [(hst e).1 h] at he; cases he
      · rw [(hst e).2 h] at he; cases he
    · rw [(hst e).2 (hlow e he)] at h; cases h
  · push Not at hf
    exact .inl ⟨hq.settle_still (.inr fun e he => by rw [(hst e).2 (hf e)] at he; cases he) _, hf⟩

theorem BasesKept.tearWrite (s : State) : BasesKept s s.tearWrite := by
  unfold State.tearWrite
  split
  · exact (BasesKept.refl s).rest (s.drives_cutOff _)
  · exact .refl s

/-- R8, R168: the drives after a power-on are the ones rebuilt, but for the one that has the turn. -/
theorem State.poweredOn_drives (s : State) (plugs : Plugs) (poll : Poll) :
    ∃ ds, settle settleFuel (s.poweredOn plugs poll) = { s.poweredOn plugs poll with drives := ds } ∧
      (∀ d, ds.get d = (s.poweredOn plugs poll).drive d ∨ ds.get d = ((s.poweredOn plugs poll).drive d).spun 0) ∧
      ∀ d, (¬pollFinds plugs poll d → (ds.get d).state = .absent) ∧
        (pollFinds plugs poll d → (∀ e, e < d → ¬pollFinds plugs poll e) → (ds.get d).state = .spinningUp) ∧
        (pollFinds plugs poll d → (∃ e, e < d ∧ pollFinds plugs poll e) → (ds.get d).state = .waitingSpin) := by
  have hst := s.poweredOn_state plugs poll
  rcases s.poweredOn_settle plugs poll with ⟨hs, hno⟩ | ⟨f, hs, hf, hlow⟩
  · exact ⟨_, hs, fun d => .inl rfl, fun d => ⟨(hst d).2, fun h => absurd h (hno d), fun h => absurd h (hno d)⟩⟩
  · have hg : ∀ d, ((s.poweredOn plugs poll).modDrive f (Drive.spun 0)).drives.get d =
        if d = f then ((s.poweredOn plugs poll).drive d).spun 0 else (s.poweredOn plugs poll).drive d := fun d =>
      State.drive_modDrive _ _ _ _
    refine ⟨((s.poweredOn plugs poll).modDrive f (Drive.spun 0)).drives, hs, fun d => ?_, fun d => ?_⟩
    · rw [hg]
      split <;> [exact .inr rfl; exact .inl rfl]
    · rw [hg]
      split
      · next hd =>
        subst hd
        exact ⟨fun h => absurd hf h, fun _ _ => rfl, fun _ ⟨e, he, hfe⟩ => absurd hfe (hlow e he)⟩
      · next hd =>
        refine ⟨(hst d).2, fun h hl => ?_, fun h _ => (hst d).1 h⟩
        rcases lt_trichotomy d f with h1 | h1 | h1
        · exact absurd h (hlow d h1)
        · exact absurd h1 hd
        · exact absurd hf (hl f h1)

theorem Drive.atPowerOn_present (m sv : Bool) (seen : Option (Fin 16)) (old : Drive) :
    (Drive.atPowerOn m sv seen old).present = decide (sv = true ∧ seen.isSome = true) := by
  have h : (Drive.atPowerOn m sv seen old).present = (if sv = true then seen else none).isSome := rfl
  rw [h]
  cases sv <;> simp

/-- What a power-on keeps of the entries a drive address held. -/
theorem Drive.settings_of_base (h : x.base = y.base) : x.policyLater = y.policyLater ∧ x.policy = y.policy ∧
    x.geomLater = y.geomLater ∧ x.geom = y.geom ∧ x.profileLater = y.profileLater ∧ x.profile = y.profile :=
  ⟨(congrArg Drive.policyLater h :), (congrArg Drive.policy h :), (congrArg Drive.geomLater h :), (congrArg Drive.geom h :),
    (congrArg Drive.profileLater h :), (congrArg Drive.profile h :)⟩

/-- Settles O5: the state rebuilt is quiet but for the spin-up turn. -/
theorem powerOnRebuilds : Obligations.PowerOnRebuilds := by
  unfold Obligations.PowerOnRebuilds
  intro plugs poll s
  refine ⟨_, rfl, ?_⟩
  have hm : (s.powered = false → (if s.powered then s.tearWrite else s).media = s.media) ∧
      (s.powered = true → ∀ t : State, t.media = (if s.powered then s.tearWrite else s).media → Torn s t fun _ => True) :=
    ⟨fun h => by rw [h]; rfl, fun h t ht => (Torn.tearWrite s).media_eq (by rw [ht, h]; rfl)⟩
  have hb : BasesKept s (if s.powered then s.tearWrite else s) := .ite (fun _ => .tearWrite s) fun _ => .refl s
  unfold State.powerOn
  generalize (if s.powered then s.tearWrite else s) = w at hm hb ⊢
  obtain ⟨ds, hs, hds, hst⟩ := w.poweredOn_drives plugs poll
  rw [hs]
  refine ⟨rfl, rfl, rfl, rfl, rfl, rfl, hm.1, fun h => hm.2 h _ rfl, rfl, rfl, rfl, fun i => ?_, rfl, rfl, fun p => ?_, fun d => ?_,
    fun d n hv hn => ?_, hst⟩
  · exact congrArg WriteSlot.state (Oct.get_all _ i)
  · have hp : ({ w.poweredOn plugs poll with drives := ds } : State).port p = PortCtl.initial (p = plugs.maintenance) := Quad.get_of _ _
    rw [hp]
    exact ⟨rfl, rfl, fun g => Quad.get_all _ g, rfl, rfl, rfl, rfl⟩
  · have hr : Drive.Rebuilt plugs.mode8 (w.drive d) (ds.get d) := by
      have h0 := Drive.atPowerOn_rebuilt plugs.mode8 (served plugs.mode8 d) (poll.get d) (w.drive d)
      rw [← State.drive_poweredOn] at h0
      rcases hds d with h | h <;> rw [h] <;> [exact h0; exact h0.spun 0]
    have hpres : (ds.get d).present = decide (served plugs.mode8 d = true ∧ (poll.get d).isSome = true) := by
      have h0 : (ds.get d).present = ((w.poweredOn plugs poll).drive d).present := by
        rcases hds d with h | h <;> rw [h]
        rfl
      rw [h0, State.drive_poweredOn, Drive.atPowerOn_present]
    obtain ⟨hpl, hpo, -⟩ := Drive.settings_of_base (hb d)
    obtain ⟨h1, h2, h3, h4, h5, h6, h7, h8, h9, h10, h11, h12⟩ := hr
    exact ⟨h1, h2, hpres, h3, h4, h5, h6, h7, h8, h9, h10, h11, by rw [← hpl, ← hpo]; exact h12⟩
  · have h0 : (ds.get d).plugType = ((w.poweredOn plugs poll).drive d).plugType ∧ (ds.get d).geom = ((w.poweredOn plugs poll).drive d).geom ∧
        (ds.get d).profile = ((w.poweredOn plugs poll).drive d).profile := by
      rcases hds d with h | h <;> rw [h] <;> exact ⟨rfl, rfl, rfl⟩
    have hf := Drive.atPowerOn_found plugs.mode8 n (w.drive d)
    rw [State.drive_poweredOn, hv, hn] at h0
    obtain ⟨-, -, hgl, hg, hpl, hp⟩ := Drive.settings_of_base (hb d)
    rw [← hgl, ← hg, ← hpl, ← hp]
    exact ⟨h0.1.trans hf.1, h0.2.1.trans hf.2.1, h0.2.2.trans hf.2.2⟩

end Sys2Proof.Machine
end

section
/-! The string reset (R2, R20, R71, R120, R154, R158, R162, R170). -/

namespace Sys2Proof.Machine

-- One declaration after the other: in parallel the one compile of the whole text runs out of threads.
set_option Elab.async false

variable {s t u : State} {d : DriveId}

/-! ## The poll (R2, R20) -/

/-- Only the drives differ. -/
def OnlyDrives (s t : State) : Prop := ∃ ds, t = { s with drives := ds }

theorem OnlyDrives.refl (s : State) : OnlyDrives s s := ⟨s.drives, rfl⟩

theorem OnlyDrives.modDrive (h : OnlyDrives s t) (d : DriveId) (f : Drive → Drive) : OnlyDrives s (t.modDrive d f) := by
  obtain ⟨ds, rfl⟩ := h
  exact ⟨_, rfl⟩

theorem OnlyDrives.setDriveState (h : OnlyDrives s t) (d : DriveId) (st : DriveState) : OnlyDrives s (t.setDriveState d st) :=
  h.modDrive d _

theorem OnlyDrives.ite {c : Prop} [Decidable c] {a b : State} (ha : OnlyDrives s a) (hb : OnlyDrives s b) :
    OnlyDrives s (if c then a else b) := by split <;> assumption

theorem OnlyDrives.applyPoll (h : OnlyDrives s t) (d : DriveId) (seen : Option (Fin 16)) : OnlyDrives s (t.applyPoll d seen) := by
  have h1 := h.modDrive d fun x => x.polled seen
  unfold State.applyPoll
  dsimp only
  split
  · exact h1.setDriveState d _
  · split
    case h_1 | h_2 | h_3 => exact h1.setDriveState d _
    case h_4 | h_5 | h_6 | h_7 => exact .ite ((h1.setDriveState d _).modDrive d _) (h1.setDriveState d _)
    case h_8 | h_9 => exact .ite (h1.modDrive d _) (h1.setDriveState d _)
    case h_10 => exact .ite h1 (h1.setDriveState d _)

/-- The poll at one address leaves the other drives alone. -/
theorem State.drive_applyPoll_ne (s : State) {d e : DriveId} (seen : Option (Fin 16)) (h : e ≠ d) :
    (s.applyPoll d seen).drive e = s.drive e := by
  have h1 : (s.modDrive d fun x => x.polled seen).drive e = s.drive e := State.drive_modDrive_ne _ _ h
  have h2 : ∀ st, ((s.modDrive d fun x => x.polled seen).setDriveState d st).drive e = s.drive e := fun st => by
    rw [State.setDriveState_toState, State.drive_modDrive_ne _ _ h, h1]
  have h3 : ((s.modDrive d fun x => x.polled seen).enterRecalibrating d).drive e = s.drive e := by
    rw [State.enterRecalibrating, State.drive_modDrive_ne _ _ h, h2]
  have h4 : ∀ f, ((s.modDrive d fun x => x.polled seen).modDrive d f).drive e = s.drive e := fun f => by
    rw [State.drive_modDrive_ne _ _ h, h1]
  unfold State.applyPoll
  dsimp only
  split
  · exact h2 _
  · split
    case h_1 | h_2 | h_3 => exact h2 _
    case h_4 | h_5 | h_6 | h_7 => split <;> [exact h3; exact h2 _]
    case h_8 | h_9 => split <;> [exact h4 _; exact h2 _]
    case h_10 => split <;> [exact h1; exact h2 _]

/-- R20: how a drive found again goes on. -/
def DriveState.repolled (same : Bool) : DriveState → DriveState
  | .absent | .waitingSpin | .spinningUp => .waitingSpin
  | .recalibrating | .loadingMap | .writingMap | .ready => if same then .recalibrating else .waitingSpin
  | .mapLost => if same then .mapLost else .waitingSpin
  | .fenced => if same then .fenced else .waitingSpin
  | .notReady => if same then .notReady else .waitingSpin

/-- R2, R20: the record of a drive found, in a state. -/
structure Drive.FoundAs (n : Fin 16) (st : DriveState) (x y : Drive) : Prop where
  holder : y.holder = x.holder
  present : y.present = true
  type : y.plugType = n.val
  state : y.state = st

/-- R2, R20: the poll finds a drive at the address. -/
theorem State.applyPoll_found (s : State) (d : DriveId) (n : Fin 16) :
    Drive.FoundAs n ((s.drive d).state.repolled (n.val = (s.drive d).plugType)) (s.drive d) ((s.applyPoll d (some n)).drive d) := by
  have h1 : (s.modDrive d fun x => x.polled (some n)).drive d = (s.drive d).polled (some n) := State.drive_modDrive_self _ _ _
  have h2 : ∀ st, Drive.FoundAs n st (s.drive d) (((s.modDrive d fun x => x.polled (some n)).setDriveState d st).drive d) := fun st => by
    rw [State.drive_setDriveState_self, h1]
    exact ⟨rfl, rfl, rfl, rfl⟩
  have h3 : Drive.FoundAs n .recalibrating (s.drive d) (((s.modDrive d fun x => x.polled (some n)).enterRecalibrating d).drive d) := by
    obtain ⟨a1, a2, a3, a4⟩ := h2 .recalibrating
    rw [State.enterRecalibrating, State.drive_modDrive_self]
    exact ⟨a1, a2, a3, a4⟩
  have h0 : Drive.FoundAs n (s.drive d).state (s.drive d) ((s.modDrive d fun x => x.polled (some n)).drive d) := by
    rw [h1]
    exact ⟨rfl, rfl, rfl, rfl⟩
  have h4 : Drive.FoundAs n (s.drive d).state (s.drive d)
      (((s.modDrive d fun x => x.polled (some n)).modDrive d fun x => { x with pendRecal := x.geom.isSome }).drive d) := by
    obtain ⟨a1, a2, a3, a4⟩ := h0
    rw [State.drive_modDrive_self]
    exact ⟨a1, a2, a3, a4⟩
  have pick : ∀ (st : DriveState) (a : State), Drive.FoundAs n st (s.drive d) (a.drive d) →
      Drive.FoundAs n (if decide (n.val = (s.drive d).plugType) then st else .waitingSpin) (s.drive d)
        ((if n.val = (s.drive d).plugType then a else (s.modDrive d fun x => x.polled (some n)).setDriveState d .waitingSpin).drive d) := fun st a ha => by
    by_cases h : n.val = (s.drive d).plugType
    · rw [if_pos h, if_pos (decide_eq_true h)]; exact ha
    · rw [if_neg h, if_neg (by simpa using h)]; exact h2 _
  unfold State.applyPoll
  dsimp only
  split <;> rename_i hst
  case h_1 | h_2 | h_3 => rw [hst]; exact h2 _
  case h_4 | h_5 | h_6 | h_7 => rw [hst]; exact pick _ _ h3
  case h_8 | h_9 => rw [hst] at h4 ⊢; exact pick _ _ h4
  case h_10 => rw [hst] at h0 ⊢; exact pick _ _ h0

/-- R2, R20: the poll finds nothing at the address. -/
theorem State.applyPoll_none (s : State) (d : DriveId) : ((s.applyPoll d none).drive d).holder = (s.drive d).holder ∧
    ((s.applyPoll d none).drive d).present = false ∧ ((s.applyPoll d none).drive d).state = .absent := by
  have h : (s.applyPoll d none).drive d = ((s.drive d).polled none).toState .absent s.clock :=
    (State.drive_setDriveState_self _ _ _).trans (by rw [State.drive_modDrive_self]; rfl)
  rw [h]
  exact ⟨rfl, rfl, rfl⟩

theorem OnlyDrives.pollList (l : List DriveId) (poll : Poll) (h : OnlyDrives s t) :
    OnlyDrives s (l.foldl (fun s d => if served s.plugs.mode8 d then s.applyPoll d (poll.get d) else s) t) := by
  induction l generalizing t with
  | nil => exact h
  | cons e l ih => exact ih (.ite (h.applyPoll e _) h)

/-- R20: the poll of the served addresses takes each for itself. -/
theorem State.drive_applyPolls (s : State) (poll : Poll) (d : DriveId) : ∃ v : State, v.drive d = s.drive d ∧
    (s.applyPolls poll).drive d = (if served s.plugs.mode8 d then v.applyPoll d (poll.get d) else v).drive d := by
  have skip : ∀ (l : List DriveId) (v : State), d ∉ l →
      (l.foldl (fun s d => if served s.plugs.mode8 d then s.applyPoll d (poll.get d) else s) v).drive d = v.drive d := fun l => by
    induction l with
    | nil => exact fun _ _ => rfl
    | cons e l ih =>
      intro v h
      have hne : d ≠ e := fun he => h (he ▸ List.mem_cons_self)
      refine (ih _ fun hm => h (List.mem_cons_of_mem _ hm)).trans ?_
      beta_reduce
      split
      · exact v.drive_applyPoll_ne _ hne
      · rfl
  have hl : ∀ n : DriveId, allDrives = allDrives.take n.val ++ n :: allDrives.drop (n.val + 1) ∧ n ∉ allDrives.take n.val ∧
      n ∉ allDrives.drop (n.val + 1) := by decide
  obtain ⟨hl, hbefore, hafter⟩ := hl d
  refine ⟨_, skip (allDrives.take d.val) s hbefore, ?_⟩
  unfold State.applyPolls
  rw [hl, List.foldl_append, List.foldl_cons, skip _ _ hafter]
  obtain ⟨ds, hv⟩ := OnlyDrives.pollList (allDrives.take d.val) poll (.refl s)
  rw [← hl, hv]

theorem OnlyDrives.applyPolls (s : State) (poll : Poll) : OnlyDrives s (s.applyPolls poll) :=
  .pollList allDrives poll (.refl s)

/-! ## The orders and their ENDINGs (R99, R158) -/

theorem Order.atReset_of {own : Option Nat} {o : Order} (h : o.state ≠ .ending) :
    (o.atReset own).oid = o.oid ∧ (o.atReset own).tag = o.tag ∧
      (o.atReset own).result = some (o.result.getD (if own = some o.oid then .complete else .reset)) := by
  unfold Order.atReset
  rw [if_neg h]
  exact ⟨rfl, rfl, rfl⟩

/-- R158: an order not in state ENDING has its result, and its ENDING is queued. -/
theorem PortCtl.atReset_order {own : Option Nat} {c : PortCtl} {g : Tag} {o : Order} (ho : c.slots.get g = some o) (h : o.state ≠ .ending) :
    (c.atReset own).slots.get g = some (o.atReset own) ∧ (o.atReset own).endingFrame ∈ (c.atReset own).toSend := by
  refine ⟨by simp [PortCtl.atReset, ho], ?_⟩
  have hm : some o ∈ c.slots.toList := by
    rw [← ho]
    fin_cases g <;> simp [Quad.toList, Quad.get]
  have hin : o ∈ (c.slots.toList.filterMap id).filter fun o => o.state ≠ .ending :=
    List.mem_filter.mpr ⟨List.mem_filterMap.mpr ⟨some o, hm, rfl⟩, by simpa using h⟩
  have he : (o.atReset own).endingFrame ∈ c.resetEndings own := by
    refine List.mem_map.mpr ⟨o, ?_, rfl⟩
    by_cases hw : own = some o.oid
    · exact List.mem_append_right _ (List.mem_filter.mpr ⟨hin, by simpa using hw⟩)
    · exact List.mem_append_left _ (List.mem_filter.mpr ⟨hin, by simpa using hw⟩)
  exact List.mem_append_right _ (List.mem_append_right _ he)

/-! ## What is cut off (R20, R135) -/

theorem BasesKept.cutString (s : State) : BasesKept s s.cutString :=
  (BasesKept.tearWrite s).foldl _ (fun _ e h => ((h.cutMapWrite e _).abortReassign e).clearOp e) _

theorem MarksKept.cutString (s : State) : MarksKept s s.cutString := by
  have h : MarksKept s s.tearWrite := by
    unfold State.tearWrite
    split
    · exact .cutOff s _
    · exact .refl s
  exact h.trans (.foldl _ (fun v e => (MarksKept.cutMapWrite v e _).trans ((MarksKept.abortReassign _ e).trans (.clearOp _ e))) _ _)

/-- Besides the transfer cut off, the cut is work of the drive sequencers. -/
theorem State.work_cutString (s : State) : ∃ m n, Work { s with media := m, cuts := n } s.cutString := by
  have h : ∃ m n, Work { s with media := m, cuts := n } s.tearWrite := by
    unfold State.tearWrite
    split
    · exact s.work_cutOff _
    · exact ⟨s.media, s.cuts, .refl s⟩
  obtain ⟨m, n, h⟩ := h
  exact ⟨m, n, h.foldl _ (fun _ _ hu => ((hu.cutMapWrite _ _).abortReassign _).clearOp _) _⟩

theorem State.media_cutString (s : State) : s.cutString.media = s.tearWrite.media :=
  ((Work.refl s.tearWrite).foldl _ (fun _ _ hu => ((hu.cutMapWrite _ _).abortReassign _).clearOp _) _).laid

/-! ## The whole (R170) -/

/-- R170: the state of a string reset before the poll takes effect. -/
def State.emptied (s : State) (cause : StartCause) (own : Option Nat) : State :=
  { s.cutString with
    startCause := cause, drives := s.cutString.drives.map Drive.atReset, ports := s.cutString.ports.map fun c => c.atReset own,
    path := DataPath.initial, ring := Ring.initial, wslots := Oct.all WriteSlot.free, waitList := [],
    watch := List.replicate 16 .empty, reassign := ReassignEngine.initial, verify := VerifyEngine.initial, closing := [] }

theorem State.stringReset_eq (s : State) (cause : StartCause) (own : Option Nat) (poll : Poll) :
    s.stringReset cause own poll = (s.emptied cause own).applyPolls poll := rfl

/-- A drive after a string reset, but for the poll, keeps its type and state. -/
theorem State.drive_emptied (s : State) (c : StartCause) (own : Option Nat) (d : DriveId) :
    ((s.emptied c own).drive d).holder = none ∧ ((s.emptied c own).drive d).plugType = (s.drive d).plugType ∧
      ((s.emptied c own).drive d).state = (s.drive d).state := by
  have h : (s.emptied c own).drive d = (s.cutString.drive d).atReset := Oct.get_map _ _ _
  rw [h]
  exact ⟨rfl, (congrArg Drive.plugType (BasesKept.cutString s d) :), (congrArg Drive.state (BasesKept.cutString s d) :)⟩

theorem State.port_emptied (s : State) (c : StartCause) (own : Option Nat) (p : Port) :
    (s.emptied c own).port p = (s.cutString.port p).atReset own := Quad.get_map _ _ _

/-- R158: an order not in state ENDING after a string reset. -/
theorem State.order_emptied {p : Port} {g : Tag} {o : Order} (c : StartCause) (own : Option Nat) (ho : (s.port p).slots.get g = some o)
    (h : o.state ≠ .ending) : Ended (s.emptied c own) p g o.oid (o.result.getD (if own = some o.oid then .complete else .reset)) ∧
      ∃ n y cl fa b, OutFrame.ending o.oid o.tag (o.result.getD (if own = some o.oid then .complete else .reset)) n y cl fa b ∈
        ((s.emptied c own).port p).toSend := by
  obtain ⟨m, n, w⟩ := s.work_cutString
  obtain ⟨r, hr, hi⟩ := w.slot ho
  have hm := MarksKept.cutString s p g
  rw [ho, hr] at hm
  have hm := Option.some.inj hm
  have h1 : r.oid = o.oid := (congrArg Prod.fst hm :)
  have h2 : r.state = o.state := (congrArg (fun x => x.2.2.2.1) hm :)
  have h3 : r.result = o.result := (congrArg (fun x => x.2.2.2.2) hm :)
  have h4 : r.tag = o.tag := (congrArg Order.tag hi :)
  obtain ⟨a1, a2, a3⟩ := Order.atReset_of (own := own) (o := r) (by rw [h2]; exact h)
  obtain ⟨b1, b2⟩ := PortCtl.atReset_order (own := own) hr (by rw [h2]; exact h)
  rw [← State.port_emptied s c own p] at b1 b2
  refine ⟨⟨_, b1, a1.trans h1, by rw [a3, h1, h3]⟩, ?_⟩
  rw [Order.endingFrame, a1, a2, a3, h1, h3, h4] at b2
  exact ⟨_, _, _, _, _, b2⟩

theorem DriveState.repolled_same {st : DriveState} : (st = .recalibrating ∨ st = .loadingMap ∨ st = .writingMap ∨ st = .ready →
      st.repolled true = .recalibrating) ∧ (st = .mapLost ∨ st = .fenced ∨ st = .notReady → st.repolled true = st) := by
  refine ⟨?_, ?_⟩
  · rintro (rfl | rfl | rfl | rfl) <;> rfl
  · rintro (rfl | rfl | rfl) <;> rfl

theorem DriveState.repolled_other (st : DriveState) : st.repolled false = .waitingSpin := by cases st <;> rfl

theorem DriveState.repolled_new {st : DriveState} (b : Bool) (h : st = .absent ∨ st = .waitingSpin ∨ st = .spinningUp) :
    st.repolled b = .waitingSpin := by
  obtain rfl | rfl | rfl := h <;> rfl

/-- R170: what a string reset leaves. The orders of `s` are held where the reset strikes, and none of them takes it. -/
theorem State.stringReset_leaves {a : State} {own : Option Nat} (hs : SettingsKept s a) (hd : a.drives = s.drives)
    (ho : ∀ p g o, (s.port p).slots.get g = some o → (a.port p).slots.get g = some o ∧ own ≠ some o.oid) (c : StartCause) (poll : Poll)
    (n : Nat) : StringReset s (settle n (a.stringReset c own poll)) poll := by
  have hl : SettingsKept a (settle n (a.stringReset c own poll)) :=
    (((Lawful.refl a).stringReset c own poll).work ((Work.refl _).settle n)).settings
  have hplugs : (a.emptied c own).plugs = s.plugs := ((Lawful.refl a).cutString.plugs).trans hs.plugs
  have hdr : ∀ d, ((a.emptied c own).drive d).holder = none ∧ ((a.emptied c own).drive d).plugType = (s.drive d).plugType ∧
      ((a.emptied c own).drive d).state = (s.drive d).state := fun d => by
    have h := a.drive_emptied c own d
    rwa [State.drive_eq_of_drives hd] at h
  have hwin : ∀ p, ((a.emptied c own).port p).window = Window.cleared := fun p => by rw [State.port_emptied]; rfl
  have hwatch : (a.emptied c own).watch = List.replicate 16 .empty := rfl
  have hord := fun p g o h h' => a.order_emptied (p := p) (g := g) (o := o) c own h h'
  rw [State.stringReset_eq] at hl ⊢
  generalize a.emptied c own = u at *
  have hpoll : ∀ d m, served s.plugs.mode8 d = true → poll.get d = some m →
      ((u.applyPolls poll).drive d).present = true ∧ ((u.applyPolls poll).drive d).plugType = m.val ∧
        ((u.applyPolls poll).drive d).state = (s.drive d).state.repolled (m.val = (s.drive d).plugType) := fun d m hsv hm => by
    obtain ⟨v, hv, he⟩ := u.drive_applyPolls poll d
    rw [if_pos (by rw [hplugs]; exact hsv), hm] at he
    obtain ⟨-, h2, h3, h4⟩ := v.applyPoll_found d m
    rw [hv, (hdr d).2.1, (hdr d).2.2] at h4
    rw [he]
    exact ⟨h2, h3, h4⟩
  have hnone : ∀ d, ((u.applyPolls poll).drive d).holder = none ∧ (served s.plugs.mode8 d = true → poll.get d = none →
      ((u.applyPolls poll).drive d).present = false ∧ ((u.applyPolls poll).drive d).state = .absent) := fun d => by
    obtain ⟨v, hv, he⟩ := u.drive_applyPolls poll d
    rw [hplugs] at he
    rw [he]
    split
    · cases hp : poll.get d with
      | none =>
        obtain ⟨h1, h2⟩ := v.applyPoll_none d
        exact ⟨by rw [h1, hv]; exact (hdr d).1, fun _ _ => h2⟩
      | some m => exact ⟨by rw [(v.applyPoll_found d m).holder, hv]; exact (hdr d).1, nofun⟩
    · next hns => exact ⟨by rw [hv]; exact (hdr d).1, fun h => absurd h hns⟩
  obtain ⟨ds, hv⟩ := OnlyDrives.applyPolls u poll
  have hports : (u.applyPolls poll).ports = u.ports := by rw [hv]
  have hw : (u.applyPolls poll).watch = List.replicate 16 .empty := by rw [hv]; exact hwatch
  generalize u.applyPolls poll = v at *
  have hport : ∀ p, v.port p = u.port p := fun p => by rw [State.port, State.port, hports]
  refine ⟨hs.trans hl, ?_, fun p => ?_, fun d => ?_, fun d hsv hm => ?_, fun d m hsv hm => ?_, fun d m hsv hm hty => ?_,
    fun d m hsv hm hty => ?_, fun p g o h h' => ?_⟩
  · have k := settle_sparing n v
    refine List.ext_getElem? fun i => ?_
    rw [List.getElem?_replicate]
    split
    · next hi => exact k.empty i (by rw [hw, List.getElem?_replicate, if_pos hi])
    · next hi => exact List.getElem?_eq_none (by rw [k.length, hw, List.length_replicate]; omega)
  · rw [settle_window, hport]
    exact hwin p
  · rw [settle_holder]
    exact (hnone d).1
  · obtain ⟨h1, h2⟩ := (hnone d).2 hsv hm
    exact ⟨(settle_present n v d).trans h1, (settle_state (by rw [h2]; decide)).trans h2⟩
  · obtain ⟨h1, h2, -⟩ := hpoll d m hsv hm
    exact ⟨(settle_present n v d).trans h1, (settle_plugType n v d).trans h2⟩
  · obtain ⟨-, -, h3⟩ := hpoll d m hsv hm
    rw [decide_eq_true hty] at h3
    refine ⟨fun h => ?_, fun h => ?_⟩
    · have h4 := h3.trans (DriveState.repolled_same.1 h)
      exact (settle_state (by rw [h4]; decide)).trans h4
    · have h4 := h3.trans (DriveState.repolled_same.2 h)
      refine (settle_state ?_).trans h4
      rw [h4]
      rcases h with h | h | h <;> rw [h] <;> decide
  · obtain ⟨-, -, h3⟩ := hpoll d m hsv hm
    refine settle_waits n v d (.inl (h3.trans ?_))
    rcases hty with h | h
    · rw [decide_eq_false h]
      exact DriveState.repolled_other _
    · exact DriveState.repolled_new _ h
  · obtain ⟨ha, hne⟩ := ho p g o h
    obtain ⟨h1, k, y, cl, fa, b, h2⟩ := hord p g o ha h'
    rw [if_neg hne] at h1 h2
    exact ⟨(h1.marks (MarksKept.of_ports hports)).settle n, k, y, cl, fa, b, settle_frames n v p _ (by rw [hport]; exact h2)⟩

theorem State.stringReset_torn (s : State) (c : StartCause) (own : Option Nat) (poll : Poll) (n : Nat) :
    Torn s (settle n (s.stringReset c own poll)) fun _ => True := by
  refine (Torn.tearWrite s).media_eq ((settle_media n _).trans ?_)
  obtain ⟨ds, hv⟩ := OnlyDrives.applyPolls (s.emptied c own) poll
  rw [State.stringReset_eq, hv]
  exact s.media_cutString

theorem State.startCause_stringReset (s : State) (c : StartCause) (own : Option Nat) (poll : Poll) :
    (s.stringReset c own poll).startCause = c := by
  obtain ⟨ds, hv⟩ := OnlyDrives.applyPolls (s.emptied c own) poll
  rw [State.stringReset_eq, hv]
  rfl

theorem PortCtl.counters_atReset (own : Option Nat) (c : PortCtl) : (c.atReset own).refusals = c.refusals ∧
    (c.atReset own).timeouts = c.timeouts ∧ (c.atReset own).protocolErrors = c.protocolErrors := by
  have h : c.abandonSending.refusals = c.refusals ∧ c.abandonSending.timeouts = c.timeouts ∧
      c.abandonSending.protocolErrors = c.protocolErrors := by
    unfold PortCtl.abandonSending
    split <;> exact ⟨rfl, rfl, rfl⟩
  exact h

/-- R158: a string reset keeps a port's tallies and the orders in its slots. -/
theorem State.stringReset_port (s : State) (c : StartCause) (own : Option Nat) (poll : Poll) (n : Nat) (p : Port) :
    let t := settle n (s.stringReset c own poll)
    (t.port p).refusals = (s.port p).refusals ∧ (t.port p).timeouts = (s.port p).timeouts ∧
      (t.port p).protocolErrors = (s.port p).protocolErrors ∧ SlotsKept s t p := by
  obtain ⟨m, k, w⟩ := s.work_cutString
  obtain ⟨ds, hv⟩ := OnlyDrives.applyPolls (s.emptied c own) poll
  have hport : (s.stringReset c own poll).port p = (s.cutString.port p).atReset own := by
    rw [State.stringReset_eq, ← s.port_emptied c own p, hv]
    rfl
  obtain ⟨h1, h2, h3⟩ := (s.cutString.port p).counters_atReset own
  have wt := (Work.refl (s.stringReset c own poll)).settle n
  obtain ⟨-, k1, k2, k3⟩ := w.portKept p
  obtain ⟨-, j1, j2, j3⟩ := wt.portKept p
  rw [hport] at j1 j2 j3
  refine ⟨j1.trans (h1.trans k1), j2.trans (h2.trans k2), j3.trans (h3.trans k3), fun g => (wt.slotsKept p g).trans ?_⟩
  rw [hport]
  refine Eq.trans ?_ (w.slotsKept p g)
  have hi : ∀ o : Order, (o.atReset own).oid = o.oid := fun o => by
    unfold Order.atReset
    split <;> rfl
  simp [PortCtl.atReset, Option.map_map, Function.comp_def, hi]

/-- Settles O7: the line and the accepted order take the same reset. -/
theorem stringResets : Obligations.StringResets := by
  unfold Obligations.StringResets
  refine ⟨fun p poll s hp => ?_, fun f poll tag s hacc hn => ?_⟩
  · refine ⟨_, State.run_powered hp fun s => s.stringReset .resetLine none poll, ?_, ?_, s.stringReset_torn _ _ _ _, fun q => ?_⟩
    · exact (settle_startCause _ _).trans (s.startCause_stringReset _ _ _)
    · exact State.stringReset_leaves ⟨rfl, rfl, fun _ => rfl, fun _ => rfl, fun _ => rfl, fun _ => rfl⟩ rfl (fun _ _ _ h => ⟨h, (Option.some_ne_none _).symm⟩) _ _ _
    · exact s.stringReset_port _ _ _ _ q
  · have hrun : exec (.stringReset f poll) s =
        .next (settle settleFuel ((s.accept .stringReset f tag none).stringReset .resetOrder (some s.nextOid) poll)) := by
      refine (State.run_powered hacc.power fun s => s.receiveOrder .stringReset f (resetString poll)).trans ?_
      rw [hacc.receive, if_neg (by decide)]
      rfl
    have hslot := s.slot_accept .stringReset f tag none
    have hst : (newOrder s.nextOid tag .stringReset f none).state = .active := rfl
    have hoid : (newOrder s.nextOid tag .stringReset f none).oid = s.nextOid := rfl
    have hset : SettingsKept s (s.accept .stringReset f tag none) := (s.untouched_accept _ _ _ _).settings
    have hold : ∀ p g o, (s.port p).slots.get g = some o →
        ((s.accept .stringReset f tag none).port p).slots.get g = some o ∧ some s.nextOid ≠ some o.oid := fun p g o ho =>
      ⟨s.slot_accept_old _ _ _ _ hacc.free ho, fun h => by
        have := hn.range p g o ho
        have := Option.some.inj h
        omega⟩
    have ht := (s.accept .stringReset f tag none).stringReset_torn .resetOrder (some s.nextOid) poll settleFuel
    have hx : ∀ e, (s.accept .stringReset f tag none).transferOf e = s.transferOf e := fun _ => rfl
    have hd : (s.accept .stringReset f tag none).drives = s.drives := rfl
    have hm : (s.accept .stringReset f tag none).media = s.media := rfl
    generalize s.accept .stringReset f tag none = a at *
    refine ⟨_, hrun, (settle_startCause _ _).trans (a.startCause_stringReset _ _ _), State.stringReset_leaves hset hd hold _ _ _,
      ht.before hx hm, ?_⟩
    have he := (a.order_emptied .resetOrder (some s.nextOid) hslot (by rw [hst]; decide)).1
    obtain ⟨ds, hv⟩ := OnlyDrives.applyPolls (a.emptied .resetOrder (some s.nextOid)) poll
    have hports : (a.stringReset .resetOrder (some s.nextOid) poll).ports = (a.emptied .resetOrder (some s.nextOid)).ports := by
      rw [State.stringReset_eq, hv]
    rw [hoid, if_pos rfl] at he
    exact (he.marks (.of_ports hports)).settle _

end Sys2Proof.Machine
end

section
/-! The end of a FENCE in what follows at once (R16). -/

namespace Sys2Proof.Machine

-- One declaration after the other: in parallel the one compile of the whole text runs out of threads.
set_option Elab.async false

variable {s t u : State} {d : DriveId} {p : Port} {g : Tag} {o : Order}

/-! ## What the immediate actions before a FENCE's end have left to do -/

/-- The slot a port should be offered, by its sector (R87). -/
def State.toOffer (s : State) (p : Port) : Option (Nat × Nat) := (s.ring.offer p).map fun x => (x.oid, x.index)

/-- The ports whose offered slot has to change (R87). -/
def State.misoffered (s : State) : Finset Port := Finset.univ.filter fun p => (s.port p).offers ≠ s.toOffer p

/-- The FREE write slots (R93). -/
def State.freeWslots (s : State) : Finset (Fin 8) := Finset.univ.filter fun i => (s.wslots.get i).state = .free

/-- The drives whose order is not on the wait list (R93). -/
def State.unlisted (s : State) : Finset DriveId := Finset.univ.filter fun d => (s.drive d).cur.any (fun op => op.oid ∉ s.waitList) = true

/-- The places of the live orders (R99). -/
def State.livePlaces (s : State) : Finset (Port × Tag) :=
  Finset.univ.filter fun x => ((s.port x.1).slots.get x.2).any Order.live = true

/-- How many actions of the four highest priorities can still come. -/
def State.toDo (s : State) : Nat :=
  s.ring.run.length + s.misoffered.card + s.freeWslots.card + s.unlisted.card + s.livePlaces.card

/-- R84: the ring law bounds what is left to do. -/
theorem State.toDo_le (h : s.ringLaw) : s.toDo ≤ 60 := by
  have h1 : s.misoffered.card ≤ 4 := s.misoffered.card_le_univ
  have h2 : s.freeWslots.card ≤ 8 := s.freeWslots.card_le_univ
  have h3 : s.unlisted.card ≤ 8 := s.unlisted.card_le_univ
  have h4 : s.livePlaces.card ≤ 16 := s.livePlaces.card_le_univ
  have := h.1
  unfold State.toDo
  omega

theorem State.toDo_boundary (h : s.actBoundary = some t) : t.toDo < s.toDo := by
  obtain ⟨x, rest, hr, hx, rfl⟩ := State.actBoundary_eq h
  have ho : ∀ p, ({ s with ring := { boundary := (s.ring.boundary + 1) % 24, run := rest } } : State).toOffer p = s.toOffer p := fun p => by
    have hf : s.ring.offer p = rest.find? fun x => x.state = .held && x.port = p := by
      unfold Ring.offer
      rw [hr, List.find?_cons_of_neg]
      rcases hx with hx | hx <;> simp [hx]
    unfold State.toOffer
    rw [hf]
    rfl
  have hm : ({ s with ring := { boundary := (s.ring.boundary + 1) % 24, run := rest } } : State).misoffered = s.misoffered :=
    Finset.filter_congr fun p _ => by rw [ho]; exact Iff.rfl
  have hlen : s.ring.run.length = rest.length + 1 := by rw [hr]; rfl
  unfold State.toDo
  rw [hm, hlen]
  exact Nat.add_lt_add_right (Nat.add_lt_add_right (Nat.add_lt_add_right (Nat.add_lt_add_right (Nat.lt_succ_self _) _) _) _) _

theorem State.toDo_offer (h : s.actOffer = some t) : t.toDo < s.toDo := by
  unfold State.actOffer at h
  split at h
  · cases h
  · next p hp =>
    cases h
    have hbad : (s.port p).offers ≠ s.toOffer p := by simpa [State.toOffer] using List.find?_some hp
    generalize hu : (s.modPort p fun c =>
      { c with offered := (s.ring.offer p).map fun x => { oid := x.oid, index := x.index, since := s.clock } }) = u
    have hself : (u.port p).offers = s.toOffer p := by
      rw [← hu, State.port_modPort_self, PortCtl.offers, Option.map_map]
      rfl
    have hne : ∀ q, q ≠ p → u.port q = s.port q := fun q hq => by rw [← hu, State.port_modPort_ne _ _ hq]
    have hslots : ∀ q, (u.port q).slots = (s.port q).slots := fun q => by
      by_cases hq : q = p
      · subst hq; rw [← hu, State.port_modPort_self]
      · rw [hne q hq]
    have hring : u.ring = s.ring := by rw [← hu]; rfl
    have hws : u.wslots = s.wslots := by rw [← hu]; rfl
    have hwl : u.waitList = s.waitList := by rw [← hu]; rfl
    have hdr : u.drives = s.drives := by rw [← hu]; rfl
    have hto : ∀ q, u.toOffer q = s.toOffer q := fun q => by rw [State.toOffer, State.toOffer, hring]
    have h1 : u.misoffered ⊂ s.misoffered := by
      rw [Finset.ssubset_iff_of_subset]
      · refine ⟨p, Finset.mem_filter.mpr ⟨Finset.mem_univ p, hbad⟩, fun hm => ?_⟩
        exact (Finset.mem_filter.mp hm).2 (by rw [hself, hto])
      · intro q hq
        have hq2 := (Finset.mem_filter.mp hq).2
        refine Finset.mem_filter.mpr ⟨Finset.mem_univ q, ?_⟩
        by_cases hqp : q = p
        · rw [hqp]; exact hbad
        · rwa [hne q hqp, hto] at hq2
    have h2 : u.freeWslots = s.freeWslots := by rw [State.freeWslots, State.freeWslots, hws]
    have h3 : u.unlisted = s.unlisted := Finset.filter_congr fun e _ => by rw [State.drive, State.drive, hdr, hwl]
    have h4 : u.livePlaces = s.livePlaces := Finset.filter_congr fun x _ => by rw [hslots]
    have := Finset.card_lt_card h1
    unfold State.toDo
    rw [h2, h3, h4, hring]
    omega

/-- R93: a slot given is no longer FREE. -/
theorem State.toDo_giveSlot (i : Fin 8) (q : Port) (o : Order) (hi : (s.wslots.get i).state = .free) : (s.giveSlot i q o).toDo < s.toDo := by
  have hp : ∀ r, ((s.giveSlot i q o).port r).offers = (s.port r).offers ∧ ((s.giveSlot i q o).port r).slots = (s.port r).slots := fun r => by
    unfold State.giveSlot
    by_cases hr : r = q
    · subst hr; rw [State.port_modPort_self]; exact ⟨rfl, rfl⟩
    · rw [State.port_modPort_ne _ _ hr]; exact ⟨rfl, rfl⟩
  have hw : ∀ j, j ≠ i → (s.giveSlot i q o).wslots.get j = s.wslots.get j := fun j hj => Oct.get_set_ne _ _ hj
  have hwi : ((s.giveSlot i q o).wslots.get i).state = .requested := congrArg WriteSlot.state (Oct.get_set_self _ _ _)
  have h1 : (s.giveSlot i q o).misoffered = s.misoffered := Finset.filter_congr fun r _ => by rw [(hp r).1]; exact Iff.rfl
  have h2 : (s.giveSlot i q o).freeWslots ⊂ s.freeWslots := by
    rw [Finset.ssubset_iff_of_subset]
    · refine ⟨i, Finset.mem_filter.mpr ⟨Finset.mem_univ i, hi⟩, fun hm => ?_⟩
      have := (Finset.mem_filter.mp hm).2
      rw [hwi] at this
      cases this
    · intro j hj
      have hj2 := (Finset.mem_filter.mp hj).2
      refine Finset.mem_filter.mpr ⟨Finset.mem_univ j, ?_⟩
      by_cases hji : j = i
      · rw [hji]; exact hi
      · rwa [hw j hji] at hj2
  have h4 : (s.giveSlot i q o).livePlaces = s.livePlaces := Finset.filter_congr fun x _ => by rw [(hp x.1).2]
  have h5 : (s.giveSlot i q o).ring.run.length = s.ring.run.length ∧ (s.giveSlot i q o).unlisted = s.unlisted := ⟨rfl, rfl⟩
  have := Finset.card_lt_card h2
  unfold State.toDo
  rw [h1, h4, h5.1, h5.2]
  omega

theorem State.findOrder_oid {n : Nat} {e : Port × Order} (h : s.findOrder n = some e) : e.2.oid = n := by
  simpa using List.find?_some h

theorem State.toDo_slots (h : s.actSlots = some t) : t.toDo < s.toDo := by
  unfold State.actSlots at h
  split at h
  · cases h
  · next e he =>
    split at h
    · next i hf =>
      cases h
      exact State.toDo_giveSlot i e.1 e.2 (by simpa using List.find?_some hf)
    · cases h
      obtain ⟨d, -, hd⟩ := List.exists_of_findSome?_eq_some he
      obtain ⟨op, hop, hne, hoid⟩ : ∃ op, (s.drive d).cur = some op ∧ op.oid ∉ s.waitList ∧ e.2.oid = op.oid := by
        unfold State.newlyWanting at hd
        split at hd
        · cases hd
        · next op hop =>
          split at hd
          · next hc => exact ⟨op, hop, hc.2.2, State.findOrder_oid (Option.filter_eq_some_iff.mp hd).1⟩
          · cases hd
      have h3 : ({ s with waitList := s.waitList ++ [e.2.oid] } : State).unlisted ⊂ s.unlisted := by
        rw [Finset.ssubset_iff_of_subset]
        · refine ⟨d, Finset.mem_filter.mpr ⟨Finset.mem_univ d, by simp [hop, hne]⟩, fun hm => ?_⟩
          have hm2 := (Finset.mem_filter.mp hm).2
          have hdr : ({ s with waitList := s.waitList ++ [e.2.oid] } : State).drive d = s.drive d := rfl
          rw [hdr, hop] at hm2
          simp [hoid] at hm2
        · intro c hc
          refine Finset.mem_filter.mpr ⟨Finset.mem_univ c, ?_⟩
          have hc2 := (Finset.mem_filter.mp hc).2
          obtain ⟨x, hx, hx2⟩ := (Option.any_eq_true _ _).mp hc2
          exact (Option.any_eq_true _ _).mpr ⟨x, hx, by simp at hx2 ⊢; exact hx2.1⟩
      have := Finset.card_lt_card h3
      have h5 : ({ s with waitList := s.waitList ++ [e.2.oid] } : State).toDo =
        s.ring.run.length + s.misoffered.card + s.freeWslots.card + ({ s with waitList := s.waitList ++ [e.2.oid] } : State).unlisted.card +
          s.livePlaces.card := rfl
      rw [h5]
      unfold State.toDo
      omega

/-- R99: an order whose result is fixed is not live. -/
theorem Order.live_ended (r : Result) (o : Order) :
    (if o.live then { o with result := some r, failing := if r.hasFailing then o.failing else none } else o).live = false := by
  split
  · simp [Order.live]
  · next h => simpa using h

/-- The end of an order leaves everything but the orders and the list of those that close. -/
theorem State.endOrder_rest (s : State) (n : Nat) (r : Result) : (s.endOrder n r).ring = s.ring ∧ (s.endOrder n r).wslots = s.wslots ∧
    (s.endOrder n r).waitList = s.waitList ∧ (s.endOrder n r).drives = s.drives ∧ (s.endOrder n r).watch = s.watch ∧
    (s.endOrder n r).reassign = s.reassign ∧ (s.endOrder n r).path = s.path ∧
    ∀ p, ((s.endOrder n r).port p).offers = (s.port p).offers := by
  have hp : ∀ f p, ((s.modOrder n f).port p).offers = (s.port p).offers := fun f p => by rw [State.port_modOrder]; rfl
  unfold State.endOrder
  split
  · exact ⟨rfl, rfl, rfl, rfl, rfl, rfl, rfl, hp _⟩
  · exact ⟨rfl, rfl, rfl, rfl, rfl, rfl, rfl, fun _ => rfl⟩

/-- R16, R99: a FENCE ended is no longer live. -/
theorem State.toDo_fence (hn : s.numberLaw) (h : s.actFence = some t) : t.toDo < s.toDo := by
  obtain ⟨⟨q, o⟩, hf, rfl⟩ := Option.map_eq_some_iff.mp h
  have hlive : o.live = true := by
    have := List.find?_some hf
    simp only [State.fenceDone, Bool.and_eq_true] at this
    exact this.1.2
  obtain ⟨g, hg⟩ := State.mem_orderList.mp (List.mem_of_find?_eq_some hf)
  have hslot := fun p c => State.port_endOrder_slot s o.oid .complete p c ((State.orderLive_of hn hg).trans hlive)
  obtain ⟨hring, hws, hwl, hdr, -, -, -, hoff⟩ := s.endOrder_rest o.oid .complete
  have h1 : (s.endOrder o.oid .complete).misoffered = s.misoffered := Finset.filter_congr fun p _ => by
    rw [hoff, State.toOffer, State.toOffer, hring]
  have h2 : (s.endOrder o.oid .complete).freeWslots = s.freeWslots := by rw [State.freeWslots, State.freeWslots, hws]
  have h3 : (s.endOrder o.oid .complete).unlisted = s.unlisted := Finset.filter_congr fun e _ => by
    rw [State.drive, State.drive, hdr, hwl]
  have h4 : (s.endOrder o.oid .complete).livePlaces ⊂ s.livePlaces := by
    rw [Finset.ssubset_iff_of_subset]
    · refine ⟨(q, g), Finset.mem_filter.mpr ⟨Finset.mem_univ _, by rw [hg]; exact hlive⟩, fun hm => ?_⟩
      have hm2 := (Finset.mem_filter.mp hm).2
      rw [hslot, hg, Option.map_some, if_pos rfl, Option.any_some, Order.live_ended] at hm2
      cases hm2
    · intro x hx
      refine Finset.mem_filter.mpr ⟨Finset.mem_univ _, ?_⟩
      have hx2 := (Finset.mem_filter.mp hx).2
      rw [hslot] at hx2
      obtain ⟨y, hy, hy2⟩ := (Option.any_eq_true _ _).mp hx2
      obtain ⟨z, hz, rfl⟩ := Option.map_eq_some_iff.mp hy
      refine (Option.any_eq_true _ _).mpr ⟨z, hz, ?_⟩
      split at hy2
      · rw [Order.live_ended] at hy2; cases hy2
      · exact hy2
  have := Finset.card_lt_card h4
  dsimp only
  unfold State.toDo
  rw [hring, h1, h2, h3]
  omega

/-- The first four actions come before every other. -/
theorem State.act_first (h : s.actFence.isSome = true) : ∃ t, s.act = some t ∧
    (s.actBoundary = some t ∨ s.actOffer = some t ∨ s.actSlots = some t ∨ s.actFence = some t) := by
  obtain ⟨f, hf⟩ := Option.isSome_iff_exists.mp h
  unfold State.act
  rw [hf]
  cases s.actBoundary with
  | some t => exact ⟨t, rfl, .inl rfl⟩
  | none =>
    cases s.actOffer with
    | some t => exact ⟨t, rfl, .inr (.inl rfl)⟩
    | none =>
      cases s.actSlots with
      | some t => exact ⟨t, rfl, .inr (.inr (.inl rfl))⟩
      | none => exact ⟨f, rfl, .inr (.inr (.inr rfl))⟩

/-! ## The end of the FENCE (R16) -/

/-- The FENCE of a drive stands in its slot and has not reached its end. -/
def FenceStands (d : DriveId) (p : Port) (g : Tag) (n : Nat) (s : State) : Prop :=
  ∃ o, (s.port p).slots.get g = some o ∧ o.oid = n ∧ o.kind = .fence ∧ o.drive = some d ∧ o.live = true

theorem FenceStands.marks {n : Nat} (h : FenceStands d p g n s) (hm : MarksKept s t) : FenceStands d p g n t := by
  obtain ⟨o, ho, hoid, hk, hd, hl⟩ := h
  have h1 := hm p g
  rw [ho] at h1
  obtain ⟨r, hr, e⟩ := Option.map_eq_some_iff.mp h1
  have e1 : r.oid = o.oid := (congrArg Prod.fst e :)
  have e2 : r.kind = o.kind := (congrArg (fun x => x.2.1) e :)
  have e3 : r.drive = o.drive := (congrArg (fun x => x.2.2.1) e :)
  have e4 : r.state = o.state := (congrArg (fun x => x.2.2.2.1) e :)
  have e5 : r.result = o.result := (congrArg (fun x => x.2.2.2.2) e :)
  exact ⟨r, hr, e1.trans hoid, e2.trans hk, e3.trans hd, by rw [← hl, Order.live, Order.live, e4, e5]⟩

/-- A live FENCE of a FENCED drive that has nothing of the host's or of the reassignment engine current. -/
structure State.FenceReady (s : State) (d : DriveId) (p : Port) (g : Tag) (n : Nat) : Prop where
  number : s.numberLaw
  order : FenceStands d p g n s
  state : (s.drive d).state = .fenced
  off : ∀ op, (s.drive d).cur = some op → op.kind.hostOrdered = false ∧ op.kind ≠ .reassign

theorem State.FenceReady.fenceDone {n : Nat} (h : s.FenceReady d p g n) : s.actFence.isSome = true ∧
    ∃ o, (s.port p).slots.get g = some o ∧ o.oid = n ∧ o.live = true := by
  obtain ⟨o, ho, hoid, hk, hd, hl⟩ := h.order
  refine ⟨?_, o, ho, hoid, hl⟩
  have hdone : s.fenceDone o = true := by
    unfold State.fenceDone
    rw [hk, hl, hd]
    dsimp only
    rw [h.state]
    cases hc : (s.drive d).cur with
    | none => rfl
    | some op =>
      obtain ⟨h1, h2⟩ := h.off op hc
      simp [h1, h2]
  unfold State.actFence
  rw [Option.isSome_map, List.find?_isSome]
  exact ⟨_, State.mem_orderList.mpr ⟨g, ho⟩, hdone⟩

/-- A step of the first four actions leaves the FENCE ready to end, or ends it. -/
theorem State.FenceReady.step {n : Nat} (h : s.FenceReady d p g n)
    (ha : s.actBoundary = some t ∨ s.actOffer = some t ∨ s.actSlots = some t ∨ s.actFence = some t) :
    t.toDo < s.toDo ∧ (Ended t p g n .complete ∨ t.FenceReady d p g n) := by
  have keep : t.numberLaw → t.drives = s.drives → MarksKept s t → t.FenceReady d p g n := fun hnum hdr hm => by
    refine ⟨hnum, h.order.marks hm, ?_, ?_⟩
    · rw [State.drive_eq_of_drives hdr]; exact h.state
    · rw [State.drive_eq_of_drives hdr]; exact h.off
  rcases ha with ha | ha | ha | ha
  · refine ⟨State.toDo_boundary ha, .inr ?_⟩
    obtain ⟨x, rest, hr, hx, rfl⟩ := State.actBoundary_eq ha
    exact keep ((Work.actBoundary ha).number h.number) rfl (.of_ports rfl)
  · refine ⟨State.toDo_offer ha, .inr ?_⟩
    obtain ⟨q, o, rfl⟩ := State.actOffer_eq ha
    exact keep (((Work.refl s).modPort q _).number h.number) rfl (.modPort s q _ rfl)
  · refine ⟨State.toDo_slots ha, .inr ?_⟩
    obtain ⟨i, e, -, rfl⟩ | ⟨l, rfl⟩ := State.actSlots_eq ha
    · exact keep (((Work.refl s).giveSlot i e.1 e.2).number h.number) rfl (.giveSlot s i e.1 e.2)
    · exact keep ((Work.refl s).rest.number h.number) rfl (.of_ports rfl)
  · refine ⟨State.toDo_fence h.number ha, ?_⟩
    obtain ⟨m, rfl⟩ := State.actFence_eq ha
    obtain ⟨o, ho, hoid, hk, hd, hl⟩ := h.order
    by_cases hm : n = m
    · subst hm
      exact .inl (Standing.endOrder h.number ⟨o, ho, hoid, hl⟩ _)
    · refine .inr ⟨((Work.refl s).endOrder m _).number h.number, ?_, ?_, ?_⟩
      · by_cases hol : s.orderLive m = true
        · exact ⟨o, by rw [State.port_endOrder_slot s m _ p g hol, ho]; simp [hoid, hm], hoid, hk, hd, hl⟩
        · exact ⟨o, by unfold State.endOrder; rw [if_neg hol]; exact ho, hoid, hk, hd, hl⟩
      · rw [State.drive_endOrder]; exact h.state
      · rw [State.drive_endOrder]; exact h.off

/-- R16: a FENCE that is ready to end has ended when nothing of higher priority is left. -/
theorem State.FenceReady.ends {n : Nat} (k : Nat) (h : s.FenceReady d p g n) (hk : s.toDo ≤ k) : Ended (settle k s) p g n .complete := by
  induction k generalizing s with
  | zero =>
    obtain ⟨-, o, ho, -, hl⟩ := h.fenceDone
    have hmem : (p, g) ∈ s.livePlaces := Finset.mem_filter.mpr ⟨Finset.mem_univ _, by rw [ho]; exact hl⟩
    have := Finset.card_pos.mpr ⟨_, hmem⟩
    unfold State.toDo at hk
    omega
  | succ k ih =>
    obtain ⟨t, ht, ha⟩ := State.act_first h.fenceDone.1
    rw [settle, ht]
    obtain ⟨hlt, he | hr⟩ := h.step ha
    · exact he.settle k
    · exact ih hr (by omega)

end Sys2Proof.Machine
end

section
/-! FENCE (R15, R16, R52, R91, R135, R137). -/

namespace Sys2Proof.Machine

-- One declaration after the other: in parallel the one compile of the whole text runs out of threads.
set_option Elab.async false

variable {s t u : State} {d e : DriveId} {p : Port} {g : Tag} {n : Nat} {o : Order} {op : Op} {l : List Nat}

/-! ## An order that waits for its end -/

/-- What tells that an order waits for its end. -/
def Order.stake (o : Order) : Nat × OrderKind × Option DriveId × Bool × Option Result := (o.oid, o.kind, o.drive, o.live, o.held)

/-- The FENCE of a drive stands in its slot, with no result fixed or held. -/
def FenceWaits (d : DriveId) (p : Port) (g : Tag) (n : Nat) (s : State) : Prop :=
  ((s.port p).slots.get g).map Order.stake = some (n, .fence, some d, true, none)

theorem FenceWaits.order (h : FenceWaits d p g n s) : ∃ o, (s.port p).slots.get g = some o ∧ o.oid = n ∧ o.kind = .fence ∧
    o.drive = some d ∧ o.live = true ∧ o.held = none := by
  obtain ⟨o, ho, e⟩ := Option.map_eq_some_iff.mp h
  exact ⟨o, ho, (congrArg Prod.fst e :), (congrArg (fun x => x.2.1) e :), (congrArg (fun x => x.2.2.1) e :),
    (congrArg (fun x => x.2.2.2.1) e :), (congrArg (fun x => x.2.2.2.2) e :)⟩

theorem FenceWaits.rest (h : FenceWaits d p g n t) (hu : u.ports = t.ports := by rfl) : FenceWaits d p g n u := by
  rwa [FenceWaits, State.port, hu]

theorem FenceWaits.modDrive (h : FenceWaits d p g n t) (e : DriveId) (f : Drive → Drive) : FenceWaits d p g n (t.modDrive e f) := h.rest

theorem FenceWaits.ite {c : Prop} [Decidable c] {a b : State} (ha : c → FenceWaits d p g n a) (hb : ¬c → FenceWaits d p g n b) :
    FenceWaits d p g n (if c then a else b) := by split <;> rename_i hc <;> [exact ha hc; exact hb hc]

theorem FenceWaits.foldl {α : Type} (f : State → α → State) (l : List α)
    (hf : ∀ v, ∀ i ∈ l, FenceWaits d p g n v → FenceWaits d p g n (f v i)) (h : FenceWaits d p g n t) :
    FenceWaits d p g n (l.foldl f t) := by
  induction l generalizing t with
  | nil => exact h
  | cons i l ih => exact ih (fun v j hj => hf v j (List.mem_cons_of_mem _ hj)) (hf _ i List.mem_cons_self h)

theorem FenceWaits.modPort (h : FenceWaits d p g n t) (q : Port) (f : PortCtl → PortCtl)
    (hf : ∀ c, (f c).slots = c.slots := by exact fun _ => rfl) : FenceWaits d p g n (t.modPort q f) := by
  unfold FenceWaits at *
  by_cases hq : p = q
  · subst hq; rw [State.port_modPort_self, hf]; exact h
  · rw [State.port_modPort_ne _ _ hq]; exact h

theorem FenceWaits.mapPorts (h : FenceWaits d p g n t) (f : PortCtl → PortCtl) (hf : ∀ c, (f c).slots = c.slots := by exact fun _ => rfl) :
    FenceWaits d p g n { t with ports := t.ports.map f } := by
  have hp : ({ t with ports := t.ports.map f } : State).port p = f (t.port p) := Quad.get_map _ _ _
  rwa [FenceWaits, hp, hf]

theorem FenceWaits.modOrder (h : FenceWaits d p g n t) (m : Nat) (f : Order → Order) (hf : m = n → ∀ o, (f o).stake = o.stake) :
    FenceWaits d p g n (t.modOrder m f) := by
  obtain ⟨o, ho, hoid, -⟩ := h.order
  have hs : (if o.oid = m then f o else o).stake = o.stake := by
    split
    · next hm => exact hf (hm.symm.trans hoid) o
    · rfl
  unfold FenceWaits at *
  rw [ho] at h
  rw [State.port_modOrder, PortCtl.slot_modOrder, ho]
  exact (congrArg some hs).trans h

theorem FenceWaits.endOrder (h : FenceWaits d p g n t) {m : Nat} (hm : m ≠ n) (r : Result) : FenceWaits d p g n (t.endOrder m r) :=
  .ite (fun _ => (h.modOrder m _ fun he => absurd he hm).rest) fun _ => h

theorem FenceWaits.closeVerify (h : FenceWaits d p g n t) (m : Nat) : FenceWaits d p g n (t.closeVerify m) :=
  FenceWaits.rest (h.modOrder m (fun o => { o with body := t.verify.wholeTracks.body, done := t.verify.verified }) fun _ _ => rfl)

theorem FenceWaits.clearOp (h : FenceWaits d p g n t) (e : DriveId) : FenceWaits d p g n (t.clearOp e) := by
  unfold State.clearOp
  refine FenceWaits.modDrive ?_ e _
  split
  · exact .ite (fun _ => h.closeVerify _) fun _ => h
  · exact h

theorem FenceWaits.windDown (h : FenceWaits d p g n t) (e : DriveId) : FenceWaits d p g n (t.windDown e) := by
  unfold State.windDown
  refine .ite (fun _ => ?_) fun _ => h.clearOp e
  dsimp only
  split
  · exact .ite (fun _ => FenceWaits.clearOp h.rest e) fun _ => h.rest
  · exact h.rest

theorem FenceWaits.stopOps (h : FenceWaits d p g n t) (l : List Nat) (soft : Bool) : FenceWaits d p g n (t.stopOps l soft) := by
  refine h.foldl _ _ fun v e _ hv => ?_
  split
  · exact .ite (fun _ => .ite (fun _ => hv.rest) fun _ => hv.windDown e) fun _ => hv
  · exact hv

theorem FenceWaits.giveSlot (h : FenceWaits d p g n t) (i : Fin 8) (q : Port) (o : Order) : FenceWaits d p g n (t.giveSlot i q o) :=
  FenceWaits.modPort (t := t.setWslot i _) h.rest q _

theorem FenceWaits.freeSlot (h : FenceWaits d p g n t) (i : Fin 8) : FenceWaits d p g n (t.freeSlot i) := by
  unfold State.freeSlot
  dsimp only
  split
  · exact h.rest
  · next rest _ =>
    have h2 : FenceWaits d p g n { t.setWslot i WriteSlot.free with waitList := rest } := h.rest
    split
    · exact h2
    · exact .ite (fun _ => (h2.giveSlot _ _ _).rest) fun _ => h2.giveSlot _ _ _

theorem FenceWaits.freeSlots (h : FenceWaits d p g n t) (l : List Nat) : FenceWaits d p g n (t.freeSlots l) :=
  h.foldl _ _ fun _ _ _ hv => .ite (fun _ => hv.freeSlot _) fun _ => hv

theorem FenceWaits.endTogether (h : FenceWaits d p g n t) (hn : n ∉ l) (r : Result) (soft : Bool) :
    FenceWaits d p g n (t.endTogether l r soft) := by
  have h1 : FenceWaits d p g n (l.foldl (fun s n => s.endOrder n r) t) :=
    h.foldl _ _ fun _ m hm hv => hv.endOrder (fun he => hn (he ▸ hm)) r
  unfold State.endTogether
  dsimp only
  generalize l.foldl (fun s n => s.endOrder n r) t = v at h1 ⊢
  have h2 : FenceWaits d p g n (((v.leaveWaitList l).leaveQueues l).ringDiscard l) := h1.rest
  exact (FenceWaits.stopOps (h2.mapPorts _) l soft).freeSlots l

theorem FenceWaits.windDownCurrent (h : FenceWaits d p g n t) (e : DriveId) : FenceWaits d p g n (t.windDownCurrent e) := by
  unfold State.windDownCurrent
  split
  · exact .ite (fun _ => h.windDown e) fun _ => h
  · exact h

/-! ## What a selection starts leaves a FENCE waiting -/

theorem FenceWaits.reachTransfer (h : FenceWaits d p g n t) (hk : ∀ op, (t.drive e).cur = some op → op.kind = .seek → op.oid ≠ n) :
    FenceWaits d p g n (t.reachTransfer e) := by
  unfold State.reachTransfer
  split
  · exact h
  · next op hop =>
    dsimp only
    refine .ite (fun hs => ?_) fun _ => h.rest
    exact FenceWaits.endOrder (FenceWaits.clearOp h.rest e) (hk op hop hs) _

theorem FenceWaits.recalFor (h : FenceWaits d p g n t) (e : DriveId) (m : Option Nat) : FenceWaits d p g n (t.recalFor e m) := by
  unfold State.recalFor
  refine .ite (fun _ => h.rest) fun _ => ?_
  split <;> exact h.rest

theorem FenceWaits.seekTo (h : FenceWaits d p g n t) (m : Nat) (hk : ∀ op, (t.drive e).cur = some op → op.kind = .seek → op.oid ≠ n) :
    FenceWaits d p g n (t.seekTo e m) := by
  unfold State.seekTo
  dsimp only
  refine .ite (fun _ => h.rest) fun _ => .ite (fun _ => .ite (fun _ => ?_) fun _ => h.rest) fun _ => h.recalFor e _
  refine FenceWaits.reachTransfer h.rest fun op hop => hk op ?_
  rwa [State.modChan, State.drive_modDrive_self] at hop

/-- R98: an internal operation is no SEEK. -/
theorem Op.internal_ne {k : OpKind} (a b : Track) (hd : HeaderKind) (q : Pass) (hk : k ≠ .seek) {e : DriveId} {t : State}
    {op : Op} (hop : ((t.setOp e (Op.internal k a b hd q)).drive e).cur = some op) : op.kind = .seek → op.oid ≠ n := fun hs => by
  rw [State.drive_setOp] at hop
  cases hop
  exact absurd hs hk

/-- The orders a rule ends together are not the FENCE when the rule does not name its kind. -/
theorem FenceWaits.endOrders (h : FenceWaits d p g n t) (hn : t.numberLaw) (e : DriveId) (q : Order → Bool)
    (hq : ∀ o, o.kind = .fence → q o = false) (r : Result) : FenceWaits d p g n (t.endOrders e q r) := by
  refine h.foldl _ _ fun v m hm hv => hv.endOrder ?_ r
  rintro rfl
  obtain ⟨⟨p', o'⟩, hmem, hoid⟩ := List.mem_map.mp hm
  obtain ⟨hmem, hf⟩ := List.mem_filter.mp hmem
  obtain ⟨g', hg'⟩ := State.mem_orderList.mp hmem
  obtain ⟨o, ho, hoo, hk, -⟩ := h.order
  obtain ⟨rfl, rfl⟩ := hn.distinct p' g' o' p g o hg' ho (hoid.trans hoo.symm)
  rw [ho] at hg'
  cases hg'
  simp [hq _ hk] at hf

theorem FenceWaits.reassignStuck (h : FenceWaits d p g n t) (hn : t.numberLaw) (e : DriveId) (i : Nat) (x : WatchEntry) :
    FenceWaits d p g n (t.reassignStuck e i x) := by
  have h0 : FenceWaits d p g n ((t.setWatch i { x with state := .stuck }).tallyDrive e DriveTallies.raiseReassignFailures) := h.rest
  have h1 : FenceWaits d p g n ((t.setWatch i { x with state := .stuck }).countReassignFailure e) := h0.mapPorts _
  have w := (((Work.refl t).setWatch i { x with state := .stuck }).countReassignFailure e).number hn
  have h2 := h1.endOrders w e (fun o => o.kind = .reassignTrack && o.start.cyl = x.home.cyl && o.start.head = x.home.head)
    (fun o hk => by rw [hk]; rfl) .noAlternate
  exact h2.rest

theorem FenceWaits.startReassign (h : FenceWaits d p g n t) (hn : t.numberLaw) (e : DriveId) : FenceWaits d p g n (t.startReassign e) := by
  unfold State.startReassign
  split
  · split
    · exact h.rest
    · split
      · exact h.reassignStuck hn e _ _
      · exact FenceWaits.seekTo h.rest _ fun op => Op.internal_ne _ _ _ _ (by decide)
  · exact h

theorem FenceWaits.startInternal (h : FenceWaits d p g n t) (hn : t.numberLaw) (e : DriveId) (k : OpKind) :
    FenceWaits d p g n (t.startInternal e k) := by
  unfold State.startInternal
  split
  · exact FenceWaits.recalFor h.rest e _
  · unfold State.startMapLoad
    split
    · exact h.rest
    · exact FenceWaits.seekTo h.rest _ fun op => Op.internal_ne _ _ _ _ (by decide)
  · unfold State.startMapWrite
    split
    · exact h.rest
    · have h1 : FenceWaits d p g n (State.bindCommits (t.modDrive e fun x => { x with pendWrite := false }) e) :=
        FenceWaits.foldl _ _ (fun _ _ _ hv => hv.modOrder _ _ fun _ _ => rfl) (h.modDrive e _)
      refine FenceWaits.seekTo (h1.modDrive e _) _ fun op hop hs => ?_
      rw [State.drive_modDrive_self] at hop
      cases hop
      cases hs
  · exact FenceWaits.startReassign (h.modDrive e _) (((Work.refl t).modDrive e _).number hn) e
  all_goals exact h

/-- The order of an eligible entry is no FENCE. -/
theorem FenceWaits.ne_eligible (h : FenceWaits d p g n t) (hn : t.numberLaw) {x : Port × Order} (hx : x ∈ t.eligibleEntries e) :
    x.2.oid ≠ n := by
  rintro he
  obtain ⟨m, -, hm⟩ := List.mem_filterMap.mp hx
  split at hm
  · next y hy =>
    split at hm
    · next hel =>
      cases hm
      obtain ⟨g', hg'⟩ := State.mem_orderList.mp (List.mem_of_find?_eq_some hy)
      obtain ⟨o, ho, hoo, hk, -⟩ := h.order
      obtain ⟨h1, h2⟩ := hn.distinct _ g' _ p g o hg' ho (he.trans hoo.symm)
      rw [h1, h2, ho] at hg'
      cases hg'
      unfold State.hostEligible at hel
      simp [hk] at hel
    · cases hm
  · cases hm

theorem FenceWaits.takeEntry (h : FenceWaits d p g n t) (es : List (Port × Order)) (c : Choice) (hc : c.entry.2.oid ≠ n) :
    FenceWaits d p g n (t.takeEntry e es c) := by
  unfold State.takeEntry
  dsimp only
  have h1 : FenceWaits d p g n (if c.passes then t.passOver es c.entry.2.oid else t) :=
    .ite (fun _ => h.foldl _ _ fun _ _ _ hv => hv.modOrder _ _ fun _ _ => rfl) fun _ => h
  have h3 := FenceWaits.modOrder (h1.modDrive e fun x => { x with queue := x.queue.filter fun n => n ≠ c.entry.2.oid, sweepIn := c.sweepIn })
    c.entry.2.oid (fun o => { o with state := .active }) fun he => absurd he hc
  have hk : ∀ (v : State) (op' : Op), op'.oid = c.entry.2.oid → ∀ op, ((v.setOp e op').drive e).cur = some op → op.kind = .seek → op.oid ≠ n :=
    fun v op' ho op hop _ => by
      rw [State.drive_setOp] at hop
      cases hop
      rwa [ho]
  refine .ite (fun _ => ?_) fun _ => ?_
  · unfold State.startSurface
    split
    · exact h3
    · exact FenceWaits.seekTo h3.rest _ (hk _ _ rfl)
  · exact FenceWaits.seekTo h3.rest _ (hk _ _ rfl)

theorem FenceWaits.select (h : FenceWaits d p g n s) (hn : s.numberLaw) (hs : s.select e = some t) : FenceWaits d p g n t := by
  unfold State.select at hs
  split at hs
  · cases hs
  · split at hs
    · cases hs; exact h.startInternal hn e _
    · obtain ⟨c, hc, rfl⟩ := Option.map_eq_some_iff.mp hs
      exact h.takeEntry _ c (h.ne_eligible hn (State.chooseEntry_mem hc))

theorem FenceWaits.queueEnding (h : FenceWaits d p g n t) (hne : o.oid ≠ n) (q : Port) (r : Result) :
    FenceWaits d p g n (t.queueEnding q o r) := by
  have h1 := h.modOrder o.oid (fun x => { x with result := some (x.result.getD r), state := .ending }) fun he => absurd he hne
  have h2 := h1.modPort q fun c => { c with endings := c.endings ++
    [.ending o.oid o.tag r o.done o.retry o.clamped (if r.hasFailing then o.failing else none) o.body] }
  exact h2.rest

/-! ## The FENCE of a drive whose sector is still granted (R16) -/

/-- A FENCE waits while a host-ordered operation or a REASSIGN of its drive is current. -/
structure State.FenceHeld (s : State) (d : DriveId) (p : Port) (g : Tag) (n : Nat) : Prop where
  number : s.numberLaw
  waits : FenceWaits d p g n s
  state : (s.drive d).state = .fenced
  on : ∃ op, (s.drive d).cur = some op ∧ (op.kind.hostOrdered = true ∨ op.kind = .reassign)

/-- An order of the string with a FENCE's number is the FENCE. -/
theorem FenceWaits.found (h : FenceWaits d p g n s) (hn : s.numberLaw) {q : Port} (ho : (q, o) ∈ s.orderList) (he : o.oid = n) :
    o.kind = .fence ∧ o.drive = some d ∧ o.result = none ∧ o.held = none := by
  obtain ⟨g', hg'⟩ := State.mem_orderList.mp ho
  obtain ⟨r, hr, hrr, hk, hd, hl, hh⟩ := h.order
  obtain ⟨rfl, rfl⟩ := hn.distinct q g' o p g r hg' hr (he.trans hrr.symm)
  rw [hr] at hg'
  cases hg'
  have hres : o.result = none := by
    unfold Order.live at hl
    simpa using (Bool.and_eq_true_iff.mp hl).1
  exact ⟨hk, hd, hres, hh⟩

theorem State.FenceHeld.act (h : s.FenceHeld d p g n) (ha : s.act = some t) : t.FenceHeld d p g n := by
  obtain ⟨op, hop, hkind⟩ := h.on
  have hno : (s.drive d).takesNoWork = true := by simp [Drive.takesNoWork, hop, h.state]
  have hkept := BusyKept.act ha d hno
  refine ⟨(Work.act ha).number h.number, ?_, (congrArg Drive.state hkept :).trans h.state, op, (congrArg Drive.cur hkept :).trans hop, hkind⟩
  have hw := h.waits
  rcases State.act_cases ha with ha | ha | ha | ha | ha | ha | ha | ha | ha | ha
  · obtain ⟨_, _, _, _, rfl⟩ := State.actBoundary_eq ha; exact hw.rest
  · obtain ⟨_, _, rfl⟩ := State.actOffer_eq ha; exact hw.modPort _ _
  · obtain ⟨_, _, _, rfl⟩ | ⟨_, rfl⟩ := State.actSlots_eq ha <;> [exact hw.giveSlot _ _ _; exact hw.rest]
  · obtain ⟨⟨q, o⟩, hf, rfl⟩ := Option.map_eq_some_iff.mp ha
    refine hw.endOrder (fun he => ?_) _
    obtain ⟨-, hd, -⟩ := hw.found h.number (List.mem_of_find?_eq_some hf) he
    have hdone := List.find?_some hf
    unfold State.fenceDone at hdone
    rw [hd] at hdone
    simp only [hop] at hdone
    rcases hkind with hk | hk <;> simp [hk] at hdone
  · unfold State.actEnding at ha
    split at ha
    · obtain ⟨m, _, ha⟩ := List.exists_of_findSome?_eq_some ha
      obtain ⟨⟨q, o⟩, hfo, ha⟩ := Option.bind_eq_some_iff.mp ha
      obtain ⟨r, hdue, rfl⟩ := Option.map_eq_some_iff.mp ha
      have hne : o.oid ≠ n := fun he => by
        obtain ⟨-, -, hres, hheld⟩ := hw.found h.number (List.mem_of_find?_eq_some hfo) he
        unfold State.dueResult at hdue
        simp [hres, hheld] at hdue
      exact hw.queueEnding hne q r
    · cases ha; exact hw.rest
  · obtain ⟨_, _, rfl⟩ := State.actCandidate_eq ha
    unfold State.takeCandidate
    split <;> exact hw.rest
  · obtain ⟨_, hs⟩ := State.actSelect_eq ha
    exact hw.select h.number hs
  · obtain ⟨_, _, rfl | ⟨_, _, ⟨_, rfl⟩ | rfl⟩⟩ := State.actGrant_eq ha
    · exact hw.rest
    · exact hw.rest (State.ports_grant _ _ _)
    · exact hw.rest (State.ports_countMiss _ _ _)
  · obtain ⟨_, _, rfl⟩ := State.actSpin_eq ha; exact hw.rest
  · obtain ⟨_, _, ha⟩ := State.actSend_eq ha
    cases ha <;> exact hw.modPort _ _

theorem State.FenceHeld.settle (h : s.FenceHeld d p g n) (k : Nat) : (settle k s).FenceHeld d p g n :=
  settle_rel (P := fun s t => s.FenceHeld d p g n → t.FenceHeld d p g n) (fun _ => id) (fun _ _ _ h1 h2 => h2 ∘ h1)
    (fun _ _ ha h => h.act ha) k s h

end Sys2Proof.Machine
end

section
/-! What FENCE does to the work of its drive (R15, R52, R91, R135, R137). -/

namespace Sys2Proof.Machine

-- One declaration after the other: in parallel the one compile of the whole text runs out of threads.
set_option Elab.async false

variable {s t u : State} {d e : DriveId} {p : Port} {g : Tag} {n : Nat} {o : Order} {op : Op} {l : List Nat}

/-! ## How operations end -/

/-- FENCE stops nothing on the drive: no host-ordered operation and no REASSIGN is current. -/
def Drive.Off (x : Drive) : Prop := ∀ op, x.cur = some op → op.kind.hostOrdered = false ∧ op.kind ≠ .reassign

/-- A sector is granted to a host-ordered operation or a REASSIGN of the drive. -/
structure State.Granted (s : State) (d : DriveId) : Prop where
  holder : s.path.holder = some d
  xfer : ∃ x, s.path.xfer = some x ∧ x.chained = false
  on : ∃ op, (s.drive d).cur = some op ∧ (op.kind.hostOrdered = true ∨ op.kind = .reassign)

/-- What the end of orders and of their operations leaves of a drive's work, of the sparing unit and of the path. -/
structure Wound (d : DriveId) (s t : State) : Prop where
  holder : t.path.holder = some d → s.path.holder = some d
  off : (s.drive d).Off → (t.drive d).Off
  granted : s.Granted d → t.Granted d
  watch : t.watch = s.watch
  engine : t.reassign = s.reassign
  spare : (t.drive d).spare = (s.drive d).spare
  pool : (t.drive d).pool = (s.drive d).pool

theorem Wound.refl (d : DriveId) (s : State) : Wound d s s := ⟨id, id, id, rfl, rfl, rfl, rfl⟩

theorem Wound.trans (h1 : Wound d s t) (h2 : Wound d t u) : Wound d s u :=
  ⟨h1.holder ∘ h2.holder, h2.off ∘ h1.off, h2.granted ∘ h1.granted, h2.watch.trans h1.watch, h2.engine.trans h1.engine,
   h2.spare.trans h1.spare, h2.pool.trans h1.pool⟩

/-- A change that leaves the path, the sparing unit and the drive's operation alone. -/
theorem Wound.same (hc : (t.drive d).cur = (s.drive d).cur) (hs : (t.drive d).spare = (s.drive d).spare)
    (hl : (t.drive d).pool = (s.drive d).pool) (hp : t.path = s.path := by rfl) (hw : t.watch = s.watch := by rfl)
    (hr : t.reassign = s.reassign := by rfl) : Wound d s t := by
  refine ⟨fun h => by rwa [hp] at h, fun h op ho => h op (by rwa [hc] at ho), fun ⟨h1, h2, h3⟩ => ⟨?_, ?_, ?_⟩, hw, hr, hs, hl⟩
  · rwa [hp]
  · rwa [hp]
  · rwa [hc]

theorem Wound.foldl {α : Type} (f : State → α → State) (hf : ∀ v i, Wound d v (f v i)) (l : List α) (s : State) : Wound d s (l.foldl f s) := by
  induction l generalizing s with
  | nil => exact .refl d s
  | cons i l ih => exact (hf s i).trans (ih _)

theorem State.clearOp_rest (s : State) (e : DriveId) : (s.clearOp e).path = s.path ∧ (s.clearOp e).watch = s.watch ∧
    (s.clearOp e).reassign = s.reassign := by
  unfold State.clearOp
  split
  · split <;> exact ⟨rfl, rfl, rfl⟩
  · exact ⟨rfl, rfl, rfl⟩

/-- R76: the end of an operation that has no sector granted. -/
theorem Wound.clearOp (hn : e = d → ¬s.Granted d) : Wound d s (s.clearOp e) := by
  obtain ⟨hp, hw, hr⟩ := s.clearOp_rest e
  have hd := s.drive_clearOp e d
  by_cases h : d = e
  · rw [if_pos h] at hd
    exact ⟨fun h => by rwa [hp] at h, fun _ op ho => (by rw [hd] at ho; cases ho), fun h' => absurd h' (hn h.symm), hw, hr, by rw [hd], by rw [hd]⟩
  · rw [if_neg h] at hd
    exact .same (by rw [hd]) (by rw [hd]) (by rw [hd]) hp hw hr

/-- An operation that is to end with the sector granted to it. -/
def Drive.toEnd (x : Drive) : Drive := { x with cur := x.cur.map fun op => { op with ended := true }, request := false }

theorem Wound.toEnd (e : DriveId) (s : State) : Wound d s (s.modDrive e Drive.toEnd) := by
  have hd := s.drive_modDrive e d Drive.toEnd
  by_cases h : d = e
  · rw [if_pos h] at hd
    refine ⟨id, fun ho op hop => ?_, fun ⟨h1, h2, op, hop, hk⟩ => ⟨h1, h2, { op with ended := true }, ?_, hk⟩, rfl, rfl, by rw [hd]; rfl, by rw [hd]; rfl⟩
    · rw [hd] at hop
      obtain ⟨r, hr, rfl⟩ := Option.map_eq_some_iff.mp hop
      exact ho r hr
    · rw [hd, Drive.toEnd, hop]
      rfl
  · rw [if_neg h] at hd
    exact .same (by rw [hd]) (by rw [hd]) (by rw [hd])

theorem Wound.release (hn : ¬s.Granted d) : Wound d s s.release :=
  ⟨fun h => (by cases h), id, fun h => absurd h hn, rfl, rfl, rfl, rfl⟩

/-- R80: an operation winds down: one with a sector granted ends with it. -/
theorem Wound.windDown (e : DriveId) (s : State) : Wound d s (s.windDown e) := by
  unfold State.windDown
  split
  · next hh =>
    obtain ⟨hh, hx⟩ := hh
    obtain ⟨x, hx⟩ := Option.isSome_iff_exists.mp hx
    have h1 : Wound d s (s.modDrive e Drive.toEnd) := .toEnd e s
    have hx1 : (s.modDrive e Drive.toEnd).path.xfer = some x := hx
    have he : (s.modDrive e fun x => { x with cur := x.cur.map fun op => { op with ended := true }, request := false }) =
      s.modDrive e Drive.toEnd := rfl
    dsimp only
    rw [he]
    generalize s.modDrive e Drive.toEnd = v at h1 hx1 ⊢
    rw [hx1]
    dsimp only
    split
    · next hc =>
      have hn : ¬v.Granted d := fun ⟨_, ⟨y, hy, hyc⟩, _⟩ => by
        rw [hx1] at hy
        cases hy
        rw [hc] at hyc
        cases hyc
      exact h1.trans ((Wound.release hn).trans (.clearOp fun _ hg => by cases hg.holder))
    · refine h1.trans ⟨id, id, fun ⟨a, ⟨y, hy, hyc⟩, c⟩ => ⟨a, ⟨{ x with cont := false }, rfl, ?_⟩, c⟩, rfl, rfl, rfl, rfl⟩
      rw [hx1] at hy
      cases hy
      exact hyc
  · next hh =>
    refine .clearOp fun he hg => hh ?_
    obtain ⟨h1, ⟨x, h2, -⟩, -⟩ := hg
    exact ⟨he ▸ h1, by rw [h2]; rfl⟩

theorem Wound.stopOps (s : State) (l : List Nat) : Wound d s (s.stopOps l false) := by
  refine .foldl _ (fun v e => ?_) _ s
  split
  · split
    · rw [if_neg (by simp)]
      exact .windDown e v
    · exact .refl d v
  · exact .refl d v

theorem Wound.freeSlots (s : State) (l : List Nat) : Wound d s (s.freeSlots l) := by
  refine .foldl _ (fun v i => ?_) _ s
  split
  · unfold State.freeSlot
    dsimp only
    split
    · exact .same rfl rfl rfl
    · split
      · exact .same rfl rfl rfl
      · split <;> exact .same rfl rfl rfl
  · exact .refl d v

theorem Wound.endOrder (s : State) (m : Nat) (r : Result) : Wound d s (s.endOrder m r) := by
  obtain ⟨-, -, -, hdr, hw, hr, hp, -⟩ := s.endOrder_rest m r
  have hd := State.drive_eq_of_drives hdr d
  exact .same (by rw [hd]) (by rw [hd]) (by rw [hd]) hp hw hr

theorem Wound.leaveQueues (s : State) (l : List Nat) : Wound d s (s.leaveQueues l) := by
  have hd : (s.leaveQueues l).drive d = { s.drive d with queue := (s.drive d).queue.filter fun o => o ∉ l } := Oct.get_map _ _ _
  exact .same (by rw [hd]) (by rw [hd]) (by rw [hd])

theorem Wound.endTogether (s : State) (l : List Nat) (r : Result) : Wound d s (s.endTogether l r false) := by
  unfold State.endTogether
  refine (Wound.foldl _ (fun v m => .endOrder v m r) l s).trans ?_
  dsimp only
  generalize l.foldl (fun s n => s.endOrder n r) s = v
  have h1 : Wound d v (v.leaveWaitList l) := .same rfl rfl rfl
  have h2 : ∀ w : State, Wound d w ((w.ringDiscard l).dropRequests l) := fun w => .same rfl rfl rfl
  exact ((h1.trans (.leaveQueues _ l)).trans (h2 _)).trans ((Wound.stopOps _ l).trans (.freeSlots _ l))

theorem Wound.windDownCurrent (s : State) (e : DriveId) : Wound d s (s.windDownCurrent e) := by
  unfold State.windDownCurrent
  split
  · split
    · exact .windDown e s
    · exact .refl d s
  · exact .refl d s

/-- R15: with no sector of the drive granted the current operation has ended. -/
theorem State.windDownCurrent_off (s : State) (d : DriveId) (h : s.path.holder ≠ some d) : ((s.windDownCurrent d).drive d).Off := by
  unfold State.windDownCurrent
  split
  · next op hop =>
    split
    · unfold State.windDown
      rw [if_neg fun hh => h hh.1]
      intro op' hop'
      rw [State.drive_clearOp, if_pos rfl] at hop'
      cases hop'
    · next hk =>
      intro op' hop'
      rw [hop] at hop'
      cases hop'
      simpa using hk
  · next hn => exact fun op hop => by rw [hn] at hop; cases hop

end Sys2Proof.Machine
end

section
/-! A reassignment that a FENCE has aborted stays undone through what follows at once (R52, R127, R135). -/

namespace Sys2Proof.Machine

-- One declaration after the other: in parallel the one compile of the whole text runs out of threads.
set_option Elab.async false

variable {s t u : State} {d e : DriveId} {i : Nat} {x : WatchEntry}

/-! ## What a selection does to the map of a FENCED drive -/

/-- A drive's map and pool (R48). -/
def Drive.map (x : Drive) : List SpareEntry × List PoolState := (x.spare, x.pool)

theorem State.map_recalFor (s : State) (d : DriveId) (n : Option Nat) : ((s.recalFor d n).drive d).map = (s.drive d).map := by
  unfold State.recalFor
  split
  · rw [State.drive_modOp]; rfl
  · split
    · rfl
    · rw [State.drive_modOp, State.modChan, State.drive_modDrive_self]; rfl

/-- R105: a request of the positioner channel moves no map entry. -/
theorem State.map_seekTo (s : State) (d : DriveId) (n : Nat) : ((s.seekTo d n).drive d).map = (s.drive d).map := by
  have hr : ∀ v : State, ((v.reachTransfer d).drive d).map = (v.drive d).map := fun v => by
    unfold State.reachTransfer
    split
    · rfl
    · dsimp only
      split
      · rw [State.drive_endOrder, State.drive_clearOp, if_pos rfl, State.drive_modDrive_self]; rfl
      · rw [State.drive_modDrive_self]; rfl
  unfold State.seekTo
  dsimp only
  split
  · rw [State.drive_modOp]; rfl
  · split
    · split
      · rw [hr, State.modChan, State.drive_modDrive_self]; rfl
      · rw [State.beginSeek, State.drive_modOp, State.drive_tallyDrive, State.drive_modDrive_self]; rfl
    · exact s.map_recalFor d _

theorem State.map_takeEntry (s : State) (d : DriveId) (es : List (Port × Order)) (c : Choice) :
    ((s.takeEntry d es c).drive d).map = (s.drive d).map := by
  have hp : ∀ b : Bool, ((if b then s.passOver es c.entry.2.oid else s).drive d) = s.drive d := by
    intro b; cases b <;> simp
  unfold State.takeEntry
  dsimp only
  split
  · unfold State.startSurface
    split
    · simp [hp, Drive.map]
    · exact (State.map_seekTo _ _ _).trans (by simp [hp, Drive.map])
  · exact (State.map_seekTo _ _ _).trans (by simp [hp, Drive.map])

/-- R100: in FENCED a RECALIBRATE or a MAP WRITE may run of the internal operations. -/
theorem Drive.nextInternal_fenced {x : Drive} {k : OpKind} (hs : x.state = .fenced) (h : x.nextInternal = some k) :
    k = .recalibrate ∨ k = .mapWrite := by
  unfold Drive.nextInternal Drive.internalEligible at h
  simp only [hs, Bool.and_true, Bool.and_false] at h
  split at h
  · exact .inl (Option.some.inj h).symm
  · rw [if_neg Bool.false_ne_true] at h
    split at h
    · exact .inr (Option.some.inj h).symm
    · rw [if_neg Bool.false_ne_true] at h
      cases h

theorem State.map_select (hs : (s.drive d).state = .fenced) (h : s.select d = some t) : (t.drive d).map = (s.drive d).map := by
  unfold State.select at h
  split at h
  · cases h
  · split at h
    · next k hk =>
      cases h
      obtain rfl | rfl := Drive.nextInternal_fenced hs hk
      · exact (State.map_recalFor _ _ _).trans (by simp [Drive.map])
      · unfold State.startInternal State.startMapWrite
        dsimp only
        split
        · simp [Drive.map]
        · exact (State.map_seekTo _ _ _).trans (by simp [Drive.map])
    · obtain ⟨c, -, rfl⟩ := Option.map_eq_some_iff.mp h
      exact s.map_takeEntry d _ c

/-! ## The entry restored -/

/-- The entry an abort restored stands in its slot, out of the engine's reach, and the map and pool of its drive as restored. -/
structure State.Restored (s : State) (d : DriveId) (i : Nat) (x : WatchEntry) (m : List SpareEntry × List PoolState) : Prop where
  state : (s.drive d).state = .fenced
  entry : s.watch[i]? = some (.entry x)
  drive : x.drive = d
  engine : s.reassign.state = .taken → s.reassign.slot ≠ some i
  map : (s.drive d).map = m

/-- R128: the start of a REASSIGN changes the slot of the entry taken alone, and leaves the engine TAKEN only as it was. -/
theorem State.startReassign_sparing (s : State) (d : DriveId) :
    ((s.startReassign d).watch = s.watch ∨ ∃ j w, s.reassign.state = .taken ∧ s.reassign.slot = some j ∧
      (s.startReassign d).watch = s.watch.set j w) ∧
    ((s.startReassign d).reassign = s.reassign ∨ (s.startReassign d).reassign.state ≠ .taken) := by
  have hd : ∀ {v w : State}, v.sparing = w.sparing → v.watch = w.watch ∧ v.reassign = w.reassign := fun h =>
    ⟨(congrArg Prod.fst h :), (congrArg Prod.snd h :)⟩
  unfold State.startReassign
  split
  · next j hst hsl =>
    split
    · exact ⟨.inl rfl, .inr fun h => (by cases h)⟩
    · next y hy =>
      split
      · have h := hd (State.sparing_endOrders ((s.setWatch j { y with state := .stuck }).countReassignFailure d) d
          (fun o => o.kind = .reassignTrack && o.start.cyl = y.home.cyl && o.start.head = y.home.head) .noAlternate)
        exact ⟨.inr ⟨j, _, hst, hsl, h.1⟩, .inr fun h => (by cases h)⟩
      · unfold State.reassignBegin
        dsimp only
        obtain ⟨h1, h2⟩ := hd (State.sparing_seekTo _ d _)
        rw [h1, h2]
        exact ⟨.inr ⟨j, .reserved, hst, hsl, rfl⟩, .inr fun h => (by cases h)⟩
  · exact ⟨.inl rfl, .inl rfl⟩

theorem State.Restored.same {m : List SpareEntry × List PoolState} (h : s.Restored d i x m) (hst : (t.drive d).state = (s.drive d).state)
    (hm : (t.drive d).map = (s.drive d).map) (hw : t.watch = s.watch) (hr : t.reassign = s.reassign) : t.Restored d i x m :=
  ⟨hst.trans h.state, by rw [hw]; exact h.entry, h.drive, by rw [hr]; exact h.engine, hm.trans h.map⟩

theorem State.Restored.select {m : List SpareEntry × List PoolState} (h : s.Restored d i x m) (hs : s.select e = some t) :
    t.Restored d i x m := by
  have hst : (t.drive d).state = (s.drive d).state := Drive.state_of_service (State.service_of_base (State.base_select hs) d)
  have hm : (t.drive d).map = (s.drive d).map := by
    by_cases hde : d = e
    · subst hde; exact State.map_select h.state hs
    · rw [State.drive_of_others (State.others_select hs) hde]
  rcases State.sparing_select hs with hsp | ⟨f, rfl⟩
  · exact h.same hst hm (congrArg Prod.fst hsp :) (congrArg Prod.snd hsp :)
  · obtain ⟨hw, hr⟩ := (s.modDrive e f).startReassign_sparing e
    refine ⟨hst.trans h.state, ?_, h.drive, ?_, hm.trans h.map⟩
    · rcases hw with hw | ⟨j, w, h1, h2, hw⟩
      · rw [hw]; exact h.entry
      · have hji : j ≠ i := fun hj => h.engine h1 (by rw [← hj]; exact h2)
        rw [hw, List.getElem?_set_ne hji]
        exact h.entry
    · intro ht
      rcases hr with hr | hr
      · rw [hr] at ht ⊢; exact h.engine ht
      · exact absurd ht hr

/-- R127: the engine takes no entry of a FENCED drive. -/
theorem State.Restored.candidate {m : List SpareEntry × List PoolState} (h : s.Restored d i x m) (ha : s.actCandidate = some t) :
    t.Restored d i x m := by
  unfold State.actCandidate at ha
  split at ha
  · obtain ⟨b, hb, rfl⟩ := Option.map_eq_some_iff.mp ha
    obtain ⟨y, hy, hel⟩ := bestCandidate_mem hb
    have hready := (State.eligible_iff hel).2
    have hyd : y.drive ≠ d := fun hyd => by rw [hyd, h.state] at hready; cases hready
    have hji : b.2 ≠ i := fun hj => by
      have hyi := watchEntry_eq hy
      rw [hj, h.entry] at hyi
      cases hyi
      exact hyd h.drive
    unfold State.takeCandidate
    rw [hy]
    dsimp only
    have hdr : (((s.setEngine { ReassignEngine.initial with state := .taken, slot := some b.2 }).modDrive y.drive
        fun x => { x with pendReassign := true }).drive d) = s.drive d := State.drive_modDrive_ne _ _ (Ne.symm hyd)
    refine ⟨by rw [hdr]; exact h.state, h.entry, h.drive, fun _ hs => hji (Option.some.inj hs), by rw [hdr]; exact h.map⟩
  · cases ha

theorem State.Restored.modDrive {m : List SpareEntry × List PoolState} (h : s.Restored d i x m) (e : DriveId) (f : Drive → Drive)
    (hf : ∀ y, (f y).state = y.state ∧ (f y).map = y.map) : (s.modDrive e f).Restored d i x m := by
  have hd := s.drive_modDrive e d f
  by_cases hde : d = e
  · rw [if_pos hde] at hd
    exact h.same (by rw [hd]; exact (hf _).1) (by rw [hd]; exact (hf _).2) rfl rfl
  · rw [if_neg hde] at hd
    exact h.same (by rw [hd]) (by rw [hd]) rfl rfl

theorem State.sparing_takePlace (s : State) (op : Op) : (s.takePlace op).sparing = s.sparing := by
  unfold State.takePlace State.ringTake State.setSlotState
  split <;> first | rfl | (split <;> rfl)

theorem State.Restored.act {m : List SpareEntry × List PoolState} (h : s.Restored d i x m) (ha : s.act = some t) : t.Restored d i x m := by
  rcases State.act_cases ha with ha | ha | ha | ha | ha | ha | ha | ha | ha | ha
  · obtain ⟨_, _, _, _, rfl⟩ := State.actBoundary_eq ha; exact h.same rfl rfl rfl rfl
  · obtain ⟨_, _, rfl⟩ := State.actOffer_eq ha; exact h.same rfl rfl rfl rfl
  · obtain ⟨_, _, _, rfl⟩ | ⟨_, rfl⟩ := State.actSlots_eq ha <;> exact h.same rfl rfl rfl rfl
  · obtain ⟨k, rfl⟩ := State.actFence_eq ha
    obtain ⟨-, -, -, hdr, hw, hr, -⟩ := s.endOrder_rest k .complete
    have hd := State.drive_eq_of_drives hdr d
    exact h.same (by rw [hd]) (by rw [hd]) hw hr
  · obtain ⟨_, rfl⟩ | ⟨_, _, _, rfl⟩ := State.actEnding_eq ha <;> exact h.same rfl rfl rfl rfl
  · exact h.candidate ha
  · obtain ⟨_, hs⟩ := State.actSelect_eq ha; exact h.select hs
  · obtain ⟨_, e, rfl | ⟨op, _, ⟨_, rfl⟩ | rfl⟩⟩ := State.actGrant_eq ha
    · exact h.modDrive e _ fun _ => ⟨rfl, rfl⟩
    · have h1 := h.modDrive e (fun x => { x with request := false }) fun _ => ⟨rfl, rfl⟩
      have hd := State.drive_eq_of_drives (State.drives_takePlace (s.modDrive e fun x => { x with request := false }) op) d
      have hsp := (s.modDrive e fun x => { x with request := false }).sparing_takePlace op
      exact h1.same (congrArg Drive.state hd) (congrArg Drive.map hd) (congrArg Prod.fst hsp :) (congrArg Prod.snd hsp :)
    · have h1 := h.modDrive e (fun x => { x with request := false }) fun _ => ⟨rfl, rfl⟩
      unfold State.countMiss
      split
      · exact h1.modDrive e _ fun _ => ⟨rfl, rfl⟩
      · exact h1.modDrive e _ fun _ => ⟨rfl, rfl⟩
      all_goals exact h1
  · obtain ⟨e, hw, rfl⟩ := State.actSpin_eq ha
    have hde : d ≠ e := by rintro rfl; rw [h.state] at hw; cases hw
    have hd : (s.enterSpinningUp e).drive d = s.drive d := by rw [State.enterSpinningUp_eq, State.drive_modDrive_ne _ _ hde]
    exact h.same (by rw [hd]) (by rw [hd]) rfl rfl
  · obtain ⟨_, _, ha⟩ := State.actSend_eq ha
    cases ha <;> exact h.same rfl rfl rfl rfl

theorem State.Restored.settle {m : List SpareEntry × List PoolState} (h : s.Restored d i x m) (k : Nat) : (settle k s).Restored d i x m :=
  settle_rel (P := fun s t => s.Restored d i x m → t.Restored d i x m) (fun _ => id) (fun _ _ _ h1 h2 => h2 ∘ h1)
    (fun _ _ ha h => h.act ha) k s h

end Sys2Proof.Machine
end

section
/-! FENCE ends the work of its drive (R15, R16, R52, R91, R135, R137). -/

namespace Sys2Proof.Machine

-- One declaration after the other: in parallel the one compile of the whole text runs out of threads.
set_option Elab.async false

variable {s t u : State} {d : DriveId} {p : Port} {g : Tag} {n : Nat} {o : Order} {op : Op}

/-! ## The drive FENCED and its reassignment aborted -/

/-- R15, R135: the drive goes to FENCED and a reassignment for it is aborted. -/
def State.fencing (s : State) (d : DriveId) : State := (s.setDriveState d .fenced).abortReassign d

/-- The orders a FENCE ends (R15, R137). -/
def Order.endsFenced (o : Order) : Bool := o.kind.driveQueued || o.kind = .reassignTrack

theorem fenceDrive_eq (k : Nat) (d : DriveId) (s : State) : fenceDrive k d s =
    ((s.fencing d).endTogether ((s.fencing d).ordersOf d Order.endsFenced) .fenced false).windDownCurrent d := rfl

theorem State.abortReassign_ports (s : State) (d : DriveId) : (s.abortReassign d).ports = s.ports ∧ (s.abortReassign d).path = s.path := by
  unfold State.abortReassign
  split
  · split <;> exact ⟨rfl, rfl⟩
  · exact ⟨rfl, rfl⟩

theorem Drive.cur_sparingUndone (x : Drive) (home : Track) : (x.sparingUndone home).cur = x.cur := by
  have hr : ∀ k, (x.releaseTrack k).cur = x.cur := fun k => by
    unfold Drive.releaseTrack
    split
    · rfl
    · split <;> rfl
  unfold Drive.sparingUndone
  split
  · rfl
  · split
    · split <;> exact hr _
    · rfl

theorem State.cur_abortReassign (s : State) (d : DriveId) : ((s.abortReassign d).drive d).cur = (s.drive d).cur := by
  unfold State.abortReassign
  split
  · split
    · next e _ _ _ =>
      exact (congrArg Drive.cur (State.drive_modDrive_self s d fun x => x.sparingUndone e.home) :).trans (Drive.cur_sparingUndone _ _)
    · exact (congrArg Drive.cur (State.drive_modDrive_self s d fun x => { x with pendReassign := false }) :)
  · rfl

/-- R15: what is left with the drive FENCED and its reassignment aborted. -/
theorem State.fencing_leaves (s : State) (d : DriveId) : (s.fencing d).ports = s.ports ∧ (s.fencing d).path = s.path ∧
    ((s.fencing d).drive d).cur = (s.drive d).cur ∧ ((s.fencing d).drive d).state = .fenced := by
  obtain ⟨h1, h2⟩ := (s.setDriveState d .fenced).abortReassign_ports d
  have hd := State.drive_setDriveState_self s d .fenced
  refine ⟨h1, h2, (State.cur_abortReassign _ d).trans (by rw [hd]; rfl), ?_⟩
  rw [State.fencing, State.abortReassign_setDriveState, State.drive_setDriveState_self]
  rfl

/-- R52, R135: the entry held is back in its slot, and the map and pool are as the abort leaves them. -/
theorem State.fencing_restored {i : Nat} {e : WatchEntry} (hc : s.reassign.state = .copying) (hs : s.reassign.slot = some i)
    (hh : s.reassign.held = some e) (hd : e.drive = d) (hi : i < s.watch.length) :
    (s.fencing d).Restored d i e ((s.drive d).sparingUndone e.home).map := by
  have hen : s.engineDrive = some d := by
    unfold State.engineDrive
    rw [hc, hh]
    exact congrArg some hd
  have hab : s.abortReassign d = ((s.modDrive d fun x => x.sparingUndone e.home).setWatch i e).engineFree := by
    unfold State.abortReassign
    rw [if_pos hen, hc, hs, hh]
  have hf : s.fencing d = (((s.modDrive d fun x => x.sparingUndone e.home).setWatch i e).engineFree).setDriveState d .fenced := by
    rw [State.fencing, State.abortReassign_setDriveState, hab]
  have hdr : ((((s.modDrive d fun x => x.sparingUndone e.home).setWatch i e).engineFree).drive d) = (s.drive d).sparingUndone e.home :=
    State.drive_modDrive_self s d fun x => x.sparingUndone e.home
  refine ⟨(s.fencing_leaves d).2.2.2, ?_, hd, fun h => ?_, ?_⟩
  · rw [hf]
    exact List.getElem?_set_self hi
  · rw [hf] at h
    cases h
  · rw [hf, State.drive_setDriveState_self, hdr]
    rfl

/-! ## The FENCE order through its acceptance -/

theorem FenceWaits.stands (h : FenceWaits d p g n s) : FenceStands d p g n s := by
  obtain ⟨o, ho, hoid, hk, hd, hl, -⟩ := h.order
  exact ⟨o, ho, hoid, hk, hd, hl⟩

theorem State.fenceWaits_accept (s : State) (f : OrderFrame) (tag : Tag) (d : DriveId) :
    FenceWaits d f.port tag s.nextOid (s.accept .fence f tag (some d)) := by
  unfold FenceWaits
  rw [s.slot_accept .fence f tag (some d)]
  rfl

/-- The FENCE itself is not among the orders it ends. -/
theorem FenceWaits.not_ended (h : FenceWaits d p g n s) (hn : s.numberLaw) : n ∉ s.ordersOf d Order.endsFenced := fun hm => by
  obtain ⟨⟨q, o⟩, hmem, hoid⟩ := List.mem_map.mp hm
  obtain ⟨hmem, hf⟩ := List.mem_filter.mp hmem
  obtain ⟨hk, -⟩ := h.found hn hmem hoid
  simp [Order.endsFenced, hk, OrderKind.driveQueued] at hf

/-- R15, R137: the orders of the drive end FENCED. -/
theorem State.fenceDrive_ends (k : Nat) (hn : (s.fencing d).numberLaw) (ho : (s.port p).slots.get g = some o) (hd : o.drive = some d)
    (hl : o.live = true) (hq : o.endsFenced = true) : Ended (fenceDrive k d s) p g o.oid .fenced := by
  have ho' : ((s.fencing d).port p).slots.get g = some o := by rw [State.port, (s.fencing_leaves d).1]; exact ho
  have hm : o.oid ∈ (s.fencing d).ordersOf d Order.endsFenced :=
    List.mem_map.mpr ⟨(p, o), List.mem_filter.mpr ⟨State.mem_orderList.mpr ⟨g, ho'⟩, by simp [hd, hl, hq]⟩, rfl⟩
  have h1 := Standing.endTogether hn ⟨o, ho', rfl, hl⟩ hm .fenced false
  rw [fenceDrive_eq]
  generalize (s.fencing d).endTogether ((s.fencing d).ordersOf d Order.endsFenced) .fenced false = v at h1 ⊢
  refine h1.marks ?_
  unfold State.windDownCurrent
  split
  · split
    · exact .windDown v d
    · exact .refl v
  · exact .refl v

theorem FenceWaits.fenceDrive (h : FenceWaits d p g n s) (hn : (s.fencing d).numberLaw) (k : Nat) :
    FenceWaits d p g n (fenceDrive k d s) := by
  have h1 : FenceWaits d p g n (s.fencing d) := h.rest (s.fencing_leaves d).1
  rw [fenceDrive_eq]
  exact (h1.endTogether (h1.not_ended hn) _ _).windDownCurrent d

theorem fenceDrive_wound (k : Nat) (d : DriveId) (s : State) : Wound d (s.fencing d) (fenceDrive k d s) := by
  rw [fenceDrive_eq]
  exact (Wound.endTogether _ _ _).trans (.windDownCurrent _ d)

theorem fenceDrive_state (k : Nat) (d : DriveId) (s : State) : ((fenceDrive k d s).drive d).state = .fenced := by
  have hb : BasesKept (s.fencing d) (fenceDrive k d s) := by
    rw [fenceDrive_eq]
    have h1 := (BasesKept.refl (s.fencing d)).endTogether ((s.fencing d).ordersOf d Order.endsFenced) .fenced false
    unfold State.windDownCurrent
    split
    · split
      · exact h1.windDown d
      · exact h1
    · exact h1
  exact ((congrArg Drive.state (hb d) :)).trans (s.fencing_leaves d).2.2.2

/-- R16: a FENCE with no sector of its drive granted ends with what follows at once. -/
theorem fenceDrive_complete (k : Nat) (hw : FenceWaits d p g n s) (hn : s.numberLaw) (hr : s.ringLaw)
    (h : s.path.holder ≠ some d ∨ (s.drive d).Off) : Ended (settle settleFuel (fenceDrive k d s)) p g n .complete := by
  obtain ⟨hports, hpath, hcur, -⟩ := s.fencing_leaves d
  have hnum : (s.fencing d).numberLaw := (((Work.refl s).setDriveState d .fenced).abortReassign d).number hn
  have w := fenceDrive_work k d s
  have hoff : ((fenceDrive k d s).drive d).Off := by
    rcases h with h | h
    · rw [fenceDrive_eq]
      refine State.windDownCurrent_off _ d fun hh => h ?_
      rw [← hpath]
      exact (Wound.endTogether (d := d) _ _ _).holder hh
    · exact (fenceDrive_wound k d s).off fun op hop => h op (by rwa [hcur] at hop)
  have hready : (fenceDrive k d s).FenceReady d p g n :=
    ⟨w.number hn, (hw.fenceDrive hnum k).stands, fenceDrive_state k d s, hoff⟩
  exact hready.ends settleFuel ((State.toDo_le (w.ring hr)).trans (by decide))

/-- A FENCE that waits has no result fixed. -/
theorem FenceWaits.unresolved (h : FenceWaits d p g n s) (ho : (s.port p).slots.get g = some o) : o.result = none := by
  obtain ⟨r, hr, -, -, -, hl, -⟩ := h.order
  rw [ho] at hr
  cases hr
  unfold Order.live at hl
  simpa using (Bool.and_eq_true_iff.mp hl).1

/-! ## The end of the sector still granted (R16, R80) -/

/-- The orders stand where they stood, and the drive has ended its operation in its state. -/
structure OpEnded (d : DriveId) (s t : State) : Prop where
  marks : MarksKept s t
  cur : (t.drive d).cur = none
  state : (t.drive d).state = (s.drive d).state

theorem OpEnded.clearOp (hm : MarksKept s t) (hst : (t.drive d).state = (s.drive d).state) : OpEnded d s (t.clearOp d) := by
  have hd := t.drive_clearOp d d
  rw [if_pos rfl] at hd
  exact ⟨hm.trans (.clearOp t d), by rw [hd], by rw [hd]; exact hst⟩

theorem OpEnded.rest (h : OpEnded d s t) (hm : MarksKept t u) (hd : u.drives = t.drives := by rfl) : OpEnded d s u :=
  ⟨h.marks.trans hm, by rw [State.drive_eq_of_drives hd]; exact h.cur, by rw [State.drive_eq_of_drives hd]; exact h.state⟩

theorem OpEnded.lateOutcome (hm : MarksKept s t) (hd : t.drives = s.drives) (op : Op) (c : Bool) : OpEnded d s (t.lateOutcome d op c) := by
  have hst := congrArg Drive.state (State.drive_eq_of_drives hd d)
  unfold State.lateOutcome
  dsimp only
  split
  · exact .clearOp (hm.trans (.modOrder t _ _ fun o => by split <;> rfl)) hst
  · exact .clearOp hm hst

/-- R78: with the operation ended the path is given up. -/
theorem OpEnded.afterTransfer (h : OpEnded d s t) (x : Xfer) (b : Bool) : OpEnded d s (t.afterTransfer d x b) := by
  unfold State.afterTransfer
  rw [h.cur]
  exact h.rest (.of_ports rfl)

theorem OpEnded.noteLate {v : State} (hp : v.ports = s.ports) (hd : v.drives = s.drives) (op : Op) (c : Bool) :
    OpEnded d s ((v.noteAttempt op).lateOutcome d op c) := by
  unfold State.noteAttempt
  split
  · next l _ =>
    have hm : MarksKept v (v.modOrder op.oid fun o => { o with retry := max o.retry l.step }) := .modOrder v _ _ fun _ => rfl
    exact .lateOutcome ((MarksKept.of_ports hp).trans hm) hd op c
  · exact .lateOutcome (.of_ports hp) hd op c

theorem State.ringGood_rest (s : State) (q : Payload) : (s.ringGood q).ports = s.ports ∧ (s.ringGood q).drives = s.drives := by
  unfold State.ringGood
  split
  · split <;> exact ⟨rfl, rfl⟩
  · exact ⟨rfl, rfl⟩

theorem State.ringBack_rest (s : State) : s.ringBack.ports = s.ports ∧ s.ringBack.drives = s.drives := by
  unfold State.ringBack
  split <;> exact ⟨rfl, rfl⟩

/-- R80: a read granted before its order ended counts, and the operation ends. -/
theorem OpEnded.endRead (h : op.ended = true) (x : Xfer) (out : ReadOutcome) : OpEnded d s (s.endRead d op x out) := by
  obtain ⟨hbp, hbd⟩ := s.ringBack_rest
  unfold State.endRead
  dsimp only
  rw [if_pos h]
  generalize out.isGood = c
  refine OpEnded.afterTransfer ?_ x c
  split
  · split
    · next q => exact .noteLate (s.ringGood_rest q).1 (s.ringGood_rest q).2 op c
    all_goals exact .noteLate hbp hbd op c
  · exact .noteLate rfl rfl op c

theorem State.drives_freeSlot (s : State) (i : Fin 8) : (s.freeSlot i).drives = s.drives := by
  unfold State.freeSlot
  dsimp only
  split
  · rfl
  · split
    · rfl
    · split <;> rfl

theorem OpEnded.endWrite (h : op.ended = true) (hk : op.kind = .write ∨ op.kind = .surface ∨ op.kind = .reassign) (x : Xfer) (f : Frame) :
    OpEnded d s (s.endWrite d op x f) := by
  have hl : MarksKept s (s.layDown d op.phys x.sector f) := .of_ports rfl
  unfold State.endWrite State.writeOutcome
  refine OpEnded.afterTransfer ?_ x true
  rcases hk with hk | hk | hk <;> rw [hk] <;> dsimp only
  · unfold State.writeWritten
    dsimp only
    rw [if_pos h, if_pos h]
    have h1 : OpEnded d s ((s.layDown d op.phys x.sector f).lateOutcome d op true) := .lateOutcome hl rfl op true
    split
    · exact h1.rest (.freeSlot _ _) (State.drives_freeSlot _ _)
    · exact h1
  · rw [if_pos h]
    exact .clearOp hl rfl
  · rw [if_pos h]
    exact .clearOp hl rfl

theorem State.untouched_endWrite (s : State) (d : DriveId) (op : Op) (x : Xfer) (f : Frame) (D : List DriveId) (P : List Port) :
    Untouched s (s.endWrite d op x f) D P := by
  have hl : Untouched s (s.layDown d op.phys x.sector f) D P := s.untouched_media _ s.cuts D P
  exact hl.work (((Work.refl _).writeOutcome d op).afterTransfer d x true)

/-- R16: the FENCE ends with the operation it waited for. -/
theorem OpEnded.complete (h : OpEnded d s t) (hn : t.numberLaw) (hr : t.ringLaw) (hst : (s.drive d).state = .fenced)
    (hf : FenceStands d p g n s) : Ended (settle settleFuel t) p g n .complete := by
  have hready : t.FenceReady d p g n :=
    ⟨hn, hf.marks h.marks, h.state.trans hst, fun op hop => by rw [h.cur] at hop; cases hop⟩
  exact hready.ends settleFuel ((State.toDo_le hr).trans (by decide))

/-- Settles O56: the FENCE ends with what follows at once, unless a sector of its drive is granted, and then with that sector. -/
theorem fenceEndsWork : Obligations.FenceEndsWork := by
  unfold Obligations.FenceEndsWork
  refine ⟨fun f tag d s h hn hr hd => ?_, fun d op x p g o s hp hn hr hx he hst ho hk hod hl => ⟨fun seen hfr => ?_, fun hfr hkind => ?_⟩⟩
  · have hnl := State.numberLaw_accept (k := .fence) (some d) h.free hn
    have hwait := s.fenceWaits_accept f tag d
    have hunt := s.untouched_accept .fence f tag (some d)
    have hport := s.portKept_accept .fence f tag (some d)
    have hold : ∀ p g r, (s.port p).slots.get g = some r → ((s.accept .fence f tag (some d)).port p).slots.get g = some r :=
      fun p g r => State.slot_accept_old s _ f tag _ h.free
    have hsame : (s.accept .fence f tag (some d)).drive d = s.drive d ∧ (s.accept .fence f tag (some d)).path = s.path ∧
        (s.accept .fence f tag (some d)).media = s.media ∧ (s.accept .fence f tag (some d)).ring = s.ring ∧
        (s.accept .fence f tag (some d)).reassign = s.reassign ∧ (s.accept .fence f tag (some d)).watch = s.watch :=
      ⟨rfl, rfl, rfl, rfl, rfl, rfl⟩
    have hexec := h.run hd rfl fenceDrive
    have htaken : ∀ v, Work (s.accept .fence f tag (some d)) v → ∃ o, Taken s v .fence f tag (some d) o := fun v w => w.taken
    generalize s.accept .fence f tag (some d) = a at *
    obtain ⟨hdr, hpath, hmedia, hring, hre, hwa⟩ := hsame
    have w := fenceDrive_work s.nextOid d a
    have wt := w.settle settleFuel
    have hnum : (a.fencing d).numberLaw := (((Work.refl a).setDriveState d .fenced).abortReassign d).number hnl
    have hrl : a.ringLaw := by rw [State.ringLaw, hring]; exact hr
    obtain ⟨o, hto⟩ := htaken _ wt
    have hres : ∀ r, Ended (settle settleFuel (fenceDrive s.nextOid d a)) f.port tag s.nextOid r → o.result = some r := fun r ⟨o', ho', _, hr'⟩ => by
      rw [hto.slot] at ho'
      cases ho'
      exact hr'
    refine ⟨_, o, hexec, hto, ?_, fun p g r hg hrd hrl' hrk => ?_, hport.trans (wt.portKept _), wt.laid.trans hmedia, hunt.work wt, fun hh => ?_,
      fun hh => ?_, fun op x hh hop hx hc hk => ?_, fun i e hc hs hh hed hi => ?_⟩
    · exact (settle_state (by rw [fenceDrive_state]; decide)).trans (fenceDrive_state _ _ _)
    · exact (State.fenceDrive_ends _ hnum (hold p g r hg) hrd hrl' (by rcases hrk with hrk | hrk <;> simp [Order.endsFenced, hrk])).settle _
    · exact hres _ (fenceDrive_complete _ hwait hnl hrl (.inl (by rw [hpath]; exact hh)))
    · exact hres _ (fenceDrive_complete _ hwait hnl hrl (.inr (by rw [hdr]; exact hh)))
    · obtain ⟨hwu, hpa, hcu, hfs⟩ := a.fencing_leaves d
      have hg : (a.fencing d).Granted d := ⟨by rw [hpa, hpath]; exact hh, ⟨x, by rw [hpa, hpath]; exact hx, hc⟩, op, by rw [hcu, hdr]; exact hop, hk⟩
      have hheld : (fenceDrive s.nextOid d a).FenceHeld d f.port tag s.nextOid :=
        ⟨w.number hnl, hwait.fenceDrive hnum _, fenceDrive_state _ _ _, ((fenceDrive_wound s.nextOid d a).granted hg).on⟩
      exact (hheld.settle settleFuel).waits.unresolved hto.slot
    · have hr0 : (a.fencing d).Restored d i e ((a.drive d).sparingUndone e.home).map :=
        State.fencing_restored (by rw [hre]; exact hc) (by rw [hre]; exact hs) (by rw [hre]; exact hh) hed (by rw [hwa]; exact hi)
      have hw := fenceDrive_wound s.nextOid d a
      have hr1 : (fenceDrive s.nextOid d a).Restored d i e ((a.drive d).sparingUndone e.home).map :=
        hr0.same ((fenceDrive_state _ _ _).trans hr0.state.symm) (Prod.ext hw.spare hw.pool) hw.watch hw.engine
      have hr2 := hr1.settle settleFuel
      rw [hdr] at hr2
      exact ⟨hr2.entry, (congrArg Prod.fst hr2.map :), (congrArg Prod.snd hr2.map :)⟩
  · have he1 : s.sectorReadEnd d seen = s.endRead d op x (judgeFrame (op.expected d false) (s.metFrame d op x seen)) := by
      unfold State.sectorReadEnd
      rw [hx]
      exact if_pos (by rw [hfr]; rfl)
    have w := (Work.refl s).sectorReadEnd d seen
    have wt := w.settle settleFuel
    refine ⟨_, State.run_powered hp fun s => s.sectorReadEnd d seen, ?_, wt.laid, wt.untouched _ _⟩
    rw [he1] at w ⊢
    exact OpEnded.complete (.endRead he x _) (w.number hn) (w.ring hr) hst ⟨o, ho, rfl, hk, hod, hl⟩
  · obtain ⟨f, hf⟩ := Option.isSome_iff_exists.mp hfr
    have he1 : s.sectorWriteEnd d = s.endWrite d op x f := by
      unfold State.sectorWriteEnd
      rw [hx]
      dsimp only
      rw [hf]
    have w := (Lawful.refl s).endWrite d op x f
    refine ⟨_, State.run_powered hp fun s => s.sectorWriteEnd d, ?_, ?_⟩
    · rw [he1]
      exact OpEnded.complete (.endWrite he hkind x f) (w.number hn) (w.ring hr) hst ⟨o, ho, rfl, hk, hod, hl⟩
    · rw [he1]
      exact (s.untouched_endWrite d op x f _ _).work ((Work.refl _).settle settleFuel)

end Sys2Proof.Machine
end

section
/-! Sitting of the family 02 (arm positioning), part 1: every step keeps the velocity law, the position law and the ladder law. -/

namespace Sys2Proof.Machine

-- One declaration after the other: in parallel the one compile of the whole text runs out of threads.
set_option Elab.async false

variable {s t u : State} {d e : DriveId} {a : DriveId → Prop} {b : Prop}

/-! ## What the laws say of one drive -/

/-- R110: an attempt of the operation's ladder has a step of 1 or more. -/
def Op.climbs (op : Op) : Prop := ∀ l, op.ladder = some l → 1 ≤ l.step

/-- The position law, of a channel and the geometry of its drive: `Drive.positionLaw` without the drive. -/
structure Channel.Placed (g : Option Geometry) (ch : Channel) : Prop where
  stopped : ch.phase = .stopped → ch.known = false
  position : ∀ x, g = some x → ch.known = true → ch.pos ≤ x.maxPos
  target : ∀ x, g = some x → ch.known = true → ch.phase = .accel ∨ ch.phase = .cruise ∨ ch.phase = .decel →
    ch.target ≤ x.maxPos ∧ (ch.inward = true → ch.pos ≤ ch.target) ∧ (ch.inward = false → ch.target ≤ ch.pos)

theorem Drive.positionLaw_iff (x : Drive) : x.positionLaw ↔ x.chan.Placed x.geom :=
  ⟨fun h => ⟨h.stopped, h.position, h.target⟩, fun h => ⟨h.stopped, h.position, h.target⟩⟩

/-- The two laws of a drive's geometry, channel and current operation, each where it is asked for. -/
structure Poise (p b : Prop) (g : Option Geometry) (ch : Channel) (cur : Option Op) : Prop where
  place : p → ch.Placed g
  ladder : b → ∀ op, cur = some op → op.climbs

/-- The position law where `a` asks for it, and the ladder law if `b` asks for it. -/
def State.Poised (a : DriveId → Prop) (b : Prop) (s : State) : Prop :=
  ∀ d, Poise (a d) b (s.drive d).geom (s.drive d).chan (s.drive d).cur

/-- The geometry, the channel and the current operation are kept. -/
structure Drive.Still (x y : Drive) : Prop where
  geom : y.geom = x.geom
  chan : y.chan = x.chan
  cur : y.cur = x.cur

theorem Drive.Still.refl (x : Drive) : x.Still x := ⟨rfl, rfl, rfl⟩

theorem Drive.Still.trans {x y z : Drive} (h1 : x.Still y) (h2 : y.Still z) : x.Still z :=
  ⟨h2.geom.trans h1.geom, h2.chan.trans h1.chan, h2.cur.trans h1.cur⟩

/-! ## The operations of a channel -/

theorem Channel.Placed.of_unknown {g : Option Geometry} {ch : Channel} (h : ch.known = false) : ch.Placed g :=
  ⟨fun _ => h, fun _ _ hk => (nomatch h.symm.trans hk), fun _ _ hk => (nomatch h.symm.trans hk)⟩

/-- A stopped channel has no position, whatever the geometry becomes. -/
theorem Channel.Placed.stop {g g' : Option Geometry} {ch : Channel} (h : ch.Placed g) : ch.stop.Placed g' :=
  .of_unknown (by unfold Channel.stop; split <;> [exact h.stopped ‹_›; rfl])

theorem Channel.Placed.startRecal {g : Option Geometry} (m : Nat) (x : Geometry) (ch : Channel) : (ch.startRecal m x).Placed g :=
  .of_unknown rfl

/-- R29: the direction of a seek points to its target. -/
theorem Channel.Placed.startSeek {g : Option Geometry} {ch : Channel} (h : ch.Placed g) (n : Nat)
    (hn : ∀ x, g = some x → n ≤ x.maxPos) : (ch.startSeek n).Placed g where
  stopped hp := by simp [Channel.startSeek] at hp
  position := h.position
  target x hx _ _ := by
    refine ⟨hn x hx, fun hi => ?_, fun hi => ?_⟩ <;> simp only [Channel.startSeek, Channel.adopt, decide_eq_true_eq,
      decide_eq_false_iff_not] at hi ⊢ <;> omega

theorem Channel.Placed.retarget {g : Option Geometry} {ch : Channel} (h : ch.Placed g) (hp : ch.phase = .idle) (n : Nat) :
    ({ ch with target := n } : Channel).Placed g :=
  ⟨h.stopped, h.position, fun _ _ _ hs => by simp [hp] at hs⟩

/-- R32: a step towards the target of at most the remaining distance stays between the arm and the target. -/
theorem Channel.Placed.moved {g : Option Geometry} {ch : Channel} (h : ch.Placed g)
    (hp : ch.phase = .accel ∨ ch.phase = .cruise ∨ ch.phase = .decel) {n : Nat} (hn : n ≤ ch.remaining) {x : Geometry}
    (hx : g = some x) (hk : ch.known = true) :
    ch.moved n ≤ x.maxPos ∧ ch.target ≤ x.maxPos ∧ (ch.inward = true → ch.moved n ≤ ch.target) ∧
      (ch.inward = false → ch.target ≤ ch.moved n) := by
  obtain ⟨ht, hin, hout⟩ := h.target x hx hk hp
  have hpos := h.position x hx hk
  unfold Channel.remaining at hn
  unfold Channel.moved
  cases hi : ch.inward
  · have := hout hi
    simp only [Bool.false_eq_true, if_false, false_implies, true_and, true_implies]
    split at hn <;> omega
  · have := hin hi
    simp only [if_true, true_implies, Bool.true_eq_false, false_implies, and_true]
    split at hn <;> omega

theorem Channel.Placed.seekStep {g : Option Geometry} {ch : Channel} (m : Nat) (h : ch.Placed g)
    (hp : ch.phase = .accel ∨ ch.phase = .cruise ∨ ch.phase = .decel) : (ch.seekStep m).Placed g := by
  have key : ∀ v x, g = some x → ch.known = true → _ := fun v x hx hk => h.moved hp (Nat.min_le_right v _) hx hk
  unfold Channel.seekStep
  dsimp only
  split
  · refine ⟨fun hs => ?_, fun x hx hk => (key _ x hx hk).1, fun x hx hk _ => (key _ x hx hk).2⟩
    rcases nextVelocity_phase (ch.profile.au m) (ch.profile.vmaxu m) (ch.profile.cu m) ch.vel ch.remaining ch.phase with e | e | e <;>
      simp [e] at hs
  · exact ⟨fun hs => (nomatch hs), fun x hx hk => (key _ x hx hk).1, fun _ _ _ hs => by simp at hs⟩

theorem Channel.Placed.settleStep {g : Option Geometry} {ch : Channel} (h : ch.Placed g) : ch.settleStep.Placed g where
  stopped hs := by simp only [Channel.settleStep] at hs; split at hs <;> cases hs
  position := h.position
  target x hx _ hs := by simp only [Channel.settleStep] at hs; split at hs <;> simp at hs

theorem Channel.Placed.recalStep {g : Option Geometry} {ch : Channel} (m : Nat) (home : Bool) (h : ch.Placed g)
    (hp : ch.phase = .recal) : (ch.recalStep m home).Placed g := by
  unfold Channel.recalStep
  split
  · exact ⟨fun hs => (nomatch hs), fun _ _ _ => Nat.zero_le _, fun _ _ _ hs => by simp at hs⟩
  · split
    · exact .of_unknown rfl
    · exact ⟨h.stopped, h.position, fun _ _ _ hs => by simp [hp] at hs⟩

theorem Channel.Placed.update {g : Option Geometry} {ch : Channel} (m : Nat) (home : Bool) (h : ch.Placed g) :
    (ch.update m home).Placed g := by
  unfold Channel.update
  split
  · next hp => exact h.seekStep m (.inl hp)
  · next hp => exact h.seekStep m (.inr (.inl hp))
  · next hp => exact h.seekStep m (.inr (.inr hp))
  · exact h.settleStep
  · next hp => exact h.recalStep m home hp
  all_goals exact h

theorem Channel.Placed.takeProfile {g : Option Geometry} {ch : Channel} (p : Profile) (h : ch.Placed g) :
    (ch.takeProfile p).Placed g := by
  unfold Channel.takeProfile
  split <;> exact ⟨h.stopped, h.position, h.target⟩

/-- R22: the target taken for a drive is a fine position of it. -/
theorem Drive.targetIn_le {x : Drive} {g : Geometry} (h : x.geom = some g) (n : Nat) : x.targetIn n ≤ g.maxPos := by
  simp [Drive.targetIn, h]

/-! ## Elementary updates -/

namespace State

theorem Poised.rest (h : t.Poised a b) {u : State} (hd : u.drives = t.drives := by rfl) : u.Poised a b := fun d => by
  rw [State.drive_eq_of_drives hd]; exact h d

theorem Poised.modDrive (h : t.Poised a b) (d : DriveId) (f : Drive → Drive)
    (hf : Poise (a d) b (t.drive d).geom (t.drive d).chan (t.drive d).cur →
      Poise (a d) b (f (t.drive d)).geom (f (t.drive d)).chan (f (t.drive d)).cur := by exact id) : (t.modDrive d f).Poised a b :=
  fun e => by
    by_cases he : e = d
    · subst he; rw [State.drive_modDrive_self]; exact hf (h e)
    · rw [State.drive_modDrive_ne _ _ he]; exact h e

theorem Poised.still (h : t.Poised a b) (d : DriveId) (f : Drive → Drive) (hf : (t.drive d).Still (f (t.drive d))) :
    (t.modDrive d f).Poised a b :=
  h.modDrive d f fun x => by rw [hf.geom, hf.chan, hf.cur]; exact x

theorem Poised.mapDrives (h : t.Poised a b) (f : Drive → Drive)
    (hf : ∀ d x, Poise (a d) b x.geom x.chan x.cur → Poise (a d) b (f x).geom (f x).chan (f x).cur := by intro _ _; exact id) :
    State.Poised a b { t with drives := t.drives.map f } := fun d => by simpa [State.drive] using hf d _ (h d)

theorem Poised.ite {c : Prop} [Decidable c] {v w : State} (hv : c → v.Poised a b) (hw : ¬c → w.Poised a b) :
    (if c then v else w).Poised a b := by split <;> rename_i hc <;> [exact hv hc; exact hw hc]

theorem Poised.foldl {α : Type} (h : t.Poised a b) (f : State → α → State) (hf : ∀ v i, v.Poised a b → (f v i).Poised a b)
    (l : List α) : (l.foldl f t).Poised a b := by
  induction l generalizing t with
  | nil => exact h
  | cons i l ih => exact ih (hf _ _ h)

/-- An update of the current operation that keeps its ladder, and of what the laws do not read. -/
theorem Poised.modCur (h : t.Poised a b) (d : DriveId) (f : Op → Op) (g : Drive → Drive) (hf : ∀ op, (f op).ladder = op.ladder)
    (hg : (g (t.drive d)).geom = (t.drive d).geom := by rfl) (hc : (g (t.drive d)).chan = (t.drive d).chan := by rfl)
    (hm : (g (t.drive d)).cur = (t.drive d).cur.map f := by rfl) : (t.modDrive d g).Poised a b :=
  h.modDrive d _ fun x => by
    rw [hg, hc, hm]
    refine ⟨x.place, fun hb op hop => ?_⟩
    obtain ⟨op0, h0, rfl⟩ := Option.map_eq_some_iff.mp hop
    exact fun l hl => x.ladder hb op0 h0 l (hf op0 ▸ hl)

/-- The current operation has a ladder whose attempts are counted from 1. -/
theorem Poised.climbs (h : t.Poised a b) {op : Op} (hc : (t.drive d).cur = some op) : b → op.climbs := fun hb => (h d).ladder hb op hc

theorem Poised.setOp (h : t.Poised a b) (d : DriveId) (op : Op) (ho : b → op.climbs) : (t.setOp d op).Poised a b :=
  h.modDrive d _ fun x => ⟨x.place, fun hb _ hop => Option.some.inj hop ▸ ho hb⟩

theorem Poised.setFresh (h : t.Poised a b) (d : DriveId) (op : Op) (ho : op.ladder = none := by rfl) : (t.setOp d op).Poised a b :=
  h.setOp d op fun _ l hl => by simp [ho] at hl

theorem Poised.modOp (h : t.Poised a b) (d : DriveId) (f : Op → Op) (hf : ∀ op, (f op).ladder = op.ladder := by intro _; rfl) :
    (t.modOp d f).Poised a b := h.modCur d f _ hf

theorem Poised.modChan (h : t.Poised a b) (d : DriveId) (f : Channel → Channel)
    (hf : (t.drive d).chan.Placed (t.drive d).geom → (f (t.drive d).chan).Placed (t.drive d).geom) : (t.modChan d f).Poised a b :=
  h.modDrive d _ fun x => ⟨fun hp => hf (x.place hp), x.ladder⟩

theorem Poised.tallyDrive (h : t.Poised a b) (d : DriveId) (f : DriveTallies → DriveTallies) : (t.tallyDrive d f).Poised a b :=
  h.modDrive d _

theorem Poised.modOrder (h : t.Poised a b) (n : Nat) (f : Order → Order) : (t.modOrder n f).Poised a b := h.rest

theorem Poised.modVerify (h : t.Poised a b) (f : VerifyEngine → VerifyEngine) : (t.modVerify f).Poised a b := h.rest

theorem Poised.setEngine (h : t.Poised a b) (r : ReassignEngine) : (t.setEngine r).Poised a b := h.rest

theorem Poised.engineFree (h : t.Poised a b) : t.engineFree.Poised a b := h.rest

theorem Poised.setSlot (h : t.Poised a b) (i : Nat) (w : WatchSlot) : (t.setSlot i w).Poised a b := h.rest

theorem Poised.setWatch (h : t.Poised a b) (i : Nat) (w : WatchEntry) : (t.setWatch i w).Poised a b := h.rest

theorem Poised.setNotice (h : t.Poised a b) (d : DriveId) (k : Byte) : (t.setNotice d k).Poised a b := h.rest

theorem Poised.setRun (h : t.Poised a b) (l : List RingSlot) : (t.setRun l).Poised a b := h.rest

theorem Poised.setPath (h : t.Poised a b) (p : DataPath) : State.Poised a b { t with path := p } := h.rest

theorem Poised.release (h : t.Poised a b) : t.release.Poised a b := h.rest

theorem Poised.endOrder (h : t.Poised a b) (n : Nat) (r : Result) : (t.endOrder n r).Poised a b := h.rest (State.drives_endOrder _ _ _)

theorem Poised.endOrders (h : t.Poised a b) (d : DriveId) (q : Order → Bool) (r : Result) : (t.endOrders d q r).Poised a b :=
  h.foldl _ (fun _ _ hu => hu.endOrder _ _) _

theorem Poised.setDriveState (h : t.Poised a b) (d : DriveId) (st : DriveState) : (t.setDriveState d st).Poised a b :=
  h.still d _ (by split <;> exact ⟨rfl, rfl, rfl⟩)

theorem Poised.stopChannel (h : t.Poised a b) (d : DriveId) : (t.stopChannel d).Poised a b := h.modChan d _ Channel.Placed.stop

/-! ## Watch list -/

theorem Poised.recoveredReport (h : t.Poised a b) (d : DriveId) (k : Track) : (t.recoveredReport d k).Poised a b := by
  unfold State.recoveredReport
  repeat' (first | split | dsimp only)
  all_goals exact h.rest

theorem Poised.unrecoveredReport (h : t.Poised a b) (d : DriveId) (k : Track) : (t.unrecoveredReport d k).Poised a b := by
  unfold State.unrecoveredReport
  repeat' split
  all_goals exact h.rest

theorem Poised.shortfallReport (h : t.Poised a b) (d : DriveId) (k : Track) : (t.shortfallReport d k).Poised a b := by
  unfold State.shortfallReport
  repeat' split
  all_goals exact h.rest

theorem Poised.forgetWatch (h : t.Poised a b) (d : DriveId) (k : Track) : (t.forgetWatch d k).Poised a b := by
  unfold State.forgetWatch
  split <;> exact h.rest

theorem Poised.expireWatch (h : t.Poised a b) (i : Nat) : (t.expireWatch i).Poised a b := by
  unfold State.expireWatch
  split <;> [exact h; (split <;> exact h.rest)]

/-! ## Staging store and data path -/

theorem Poised.freeSlot (h : t.Poised a b) (i : Fin 8) : (t.freeSlot i).Poised a b := h.rest (State.drives_freeSlot _ _)

theorem Poised.freeSlots (h : t.Poised a b) (l : List Nat) : (t.freeSlots l).Poised a b := h.rest (State.drives_freeSlots _ _)

theorem Poised.takePlace (h : t.Poised a b) (op : Op) : (t.takePlace op).Poised a b := h.rest (State.drives_takePlace _ _)

theorem Poised.giveBack (h : t.Poised a b) (op : Op) : (t.giveBack op).Poised a b := h.rest (State.drives_giveBack _ _)

theorem Poised.cutOff (h : t.Poised a b) (d : DriveId) : (t.cutOff d).Poised a b := h.rest (State.drives_cutOff _ _)

theorem Poised.ringBack (h : t.Poised a b) : t.ringBack.Poised a b := by
  unfold State.ringBack
  split <;> exact h.rest

theorem Poised.ringGood (h : t.Poised a b) (p : Payload) : (t.ringGood p).Poised a b := by
  unfold State.ringGood
  repeat' split
  all_goals exact h.rest

theorem Poised.grant (h : t.Poised a b) (d : DriveId) (op : Op) : (t.grant d op).Poised a b :=
  ((h.modDrive d fun x => { x with request := false }).takePlace op).setPath _

theorem Poised.countMiss (h : t.Poised a b) (d : DriveId) (op : Op) : (t.countMiss d op).Poised a b := by
  unfold State.countMiss
  split <;> first | exact h | exact h.tallyDrive _ _

theorem Poised.consider (h : t.Poised a b) (d : DriveId) (op : Op) : (t.consider d op).Poised a b :=
  .ite (fun _ => .ite (fun _ => h.modDrive d _) fun _ => h.countMiss _ _) fun _ => h

theorem Poised.planContinuation (h : t.Poised a b) (d : DriveId) (op : Op) : (t.planContinuation d op).1.Poised a b := by
  unfold State.planContinuation
  dsimp only
  repeat' split
  all_goals first | exact h | exact h.countMiss _ _

theorem Poised.beginTransfer (h : t.Poised a b) (d : DriveId) (op : Op) (x : Xfer) : (t.beginTransfer d op x).Poised a b :=
  (Poised.planContinuation (.ite (fun _ => (h.takePlace op).setPath _) fun _ => h) d op).setPath _

theorem Poised.abandonGrant (h : t.Poised a b) (op : Op) (x : Xfer) : (t.abandonGrant op x).Poised a b :=
  (Poised.ite (fun _ => h) fun _ => h.giveBack op).release

/-! ## The ends of operations and orders -/

theorem Poised.clearOp (h : t.Poised a b) (d : DriveId) : (t.clearOp d).Poised a b := fun e => by
  rw [State.drive_clearOp]
  split
  · subst e; exact ⟨(h d).place, fun _ _ hc => nomatch hc⟩
  · exact h e

theorem Poised.windDown (h : t.Poised a b) (d : DriveId) : (t.windDown d).Poised a b := by
  unfold State.windDown
  refine .ite (fun _ => ?_) fun _ => h.clearOp d
  have h1 : (t.modDrive d fun x =>
      { x with cur := x.cur.map fun op => { op with ended := true }, request := false }).Poised a b :=
    h.modCur d (fun op => { op with ended := true }) _ fun _ => rfl
  dsimp only
  split
  · exact .ite (fun _ => h1.release.clearOp d) fun _ => h1.setPath _
  · exact h1

theorem Poised.stopOps (h : t.Poised a b) (l : List Nat) (soft : Bool) : (t.stopOps l soft).Poised a b := by
  refine h.foldl _ (fun u d hu => ?_) _
  split
  · exact .ite (fun _ => .ite (fun _ => hu.modOp _ _) fun _ => hu.windDown _) fun _ => hu
  · exact hu

theorem Poised.leaveQueues (h : t.Poised a b) (l : List Nat) : (t.leaveQueues l).Poised a b := h.mapDrives _

theorem Poised.dropReads (h : t.Poised a b) (l : List Nat) : ((t.ringDiscard l).dropRequests l).Poised a b := h.rest

theorem Poised.endTogether (h : t.Poised a b) (l : List Nat) (r : Result) (soft : Bool) : (t.endTogether l r soft).Poised a b := by
  unfold State.endTogether
  have h1 : (l.foldl (fun s oid => s.endOrder oid r) t).Poised a b := h.foldl _ (fun _ _ hu => hu.endOrder _ _) _
  have h2 : ((l.foldl (fun s oid => s.endOrder oid r) t).leaveWaitList l).Poised a b := h1.rest
  exact (((h2.leaveQueues l).dropReads l).stopOps l soft).freeSlots l

end State

theorem Drive.Still.modEntry (x : Drive) (k : Track) (f : SpareEntry → SpareEntry) : x.Still (x.modEntry k f) := ⟨rfl, rfl, rfl⟩

theorem Drive.Still.mapChanged {x y : Drive} (h : x.Still y) : x.Still y.mapChanged := ⟨h.geom, h.chan, h.cur⟩

theorem Drive.Still.markTrack (x : Drive) (k : Track) (st : PoolState) : x.Still (x.markTrack k st) := by
  unfold Drive.markTrack
  split <;> exact ⟨rfl, rfl, rfl⟩

theorem Drive.Still.releaseTrack (x : Drive) (k : Track) : x.Still (x.releaseTrack k) := by
  unfold Drive.releaseTrack
  repeat' split
  all_goals exact ⟨rfl, rfl, rfl⟩

theorem Drive.Still.addEntry (x : Drive) (k v : Track) (p : Bool) (o : Origin) : x.Still (x.addEntry k v p o) := by
  unfold Drive.addEntry
  split <;> exact ⟨rfl, rfl, rfl⟩

theorem Drive.Still.beginSparing (x : Drive) (k : Track) (n : Nat) : x.Still (x.beginSparing k n) := by
  unfold Drive.beginSparing
  dsimp only
  split
  · exact (Drive.Still.markTrack x _ _).trans (.addEntry _ _ _ _ _)
  · exact (Drive.Still.markTrack x _ _).trans (.modEntry _ _ _)

theorem Drive.Still.killTrial (x : Drive) (k : Track) : x.Still (x.killTrial k) := by
  unfold Drive.killTrial
  split <;> first | exact .refl _ | exact .markTrack _ _ _

theorem Drive.Still.sparingDone (x : Drive) (k : Track) (o : Origin) : x.Still (x.sparingDone k o) := by
  unfold Drive.sparingDone
  repeat' (first | split | dsimp only)
  all_goals first | exact .refl _ | exact .modEntry _ _ _ | exact (Drive.Still.markTrack x _ _).trans (.modEntry _ _ _)

theorem Drive.Still.sparingUndone (x : Drive) (k : Track) : x.Still (x.sparingUndone k) := by
  unfold Drive.sparingUndone
  repeat' split
  all_goals first
    | exact .refl _
    | exact (Drive.Still.releaseTrack x _).trans ⟨rfl, rfl, rfl⟩

theorem Drive.Still.spareByVerify (x : Drive) (k : Track) (n : Nat) : x.Still (x.spareByVerify k n) := by
  unfold Drive.spareByVerify
  dsimp only
  split
  · exact (Drive.Still.markTrack x _ _).trans (.addEntry _ _ _ _ _)
  · exact ((Drive.Still.markTrack x _ _).trans (.markTrack _ _ _)).trans (.modEntry _ _ _)

theorem Drive.Still.storeEntry (x : Drive) (e : SpareEntry) : x.Still (x.storeEntry e) := by
  have h : ∀ y : Drive, x.Still y → x.Still { y.markTrack e.alt .inUse with spare := putEntry x.spare e } :=
    fun y hy => hy.trans ((Drive.Still.markTrack y _ _).trans ⟨rfl, rfl, rfl⟩)
  refine h _ ?_
  repeat' split
  all_goals first | exact .refl x | exact .markTrack _ _ _

theorem Drive.Still.putSlot (x : Drive) (i : Nat) (l : List Byte) : x.Still (x.putSlot i l) := by
  unfold Drive.putSlot
  repeat' split
  all_goals first | exact .refl x | exact (Drive.Still.storeEntry x _).mapChanged | exact (Drive.Still.markTrack x _ _).trans ⟨rfl, rfl, rfl⟩

theorem Drive.Still.putPool (x : Drive) (i : Nat) (st : PoolState) : x.Still (x.putPool i st) := by
  unfold Drive.putPool
  split <;> exact ⟨rfl, rfl, rfl⟩

namespace State

theorem Poised.abortReassign (h : t.Poised a b) (d : DriveId) : (t.abortReassign d).Poised a b := by
  unfold State.abortReassign
  split
  · split
    · exact ((h.still d _ (Drive.Still.sparingUndone _ _)).setWatch _ _).engineFree
    · exact (h.modDrive d _).engineFree
  · exact h

/-! ## Entries to drive states -/

theorem Poised.enterRecalibrating (h : t.Poised a b) (d : DriveId) : (t.enterRecalibrating d).Poised a b :=
  (h.setDriveState d _).modDrive d _

theorem Poised.enterReady (h : t.Poised a b) (d : DriveId) : (t.enterReady d).Poised a b :=
  (((h.setDriveState d .ready).modDrive d fun x => { x with mapHeld := true }).setNotice d _).endOrders d _ _

theorem Poised.enterMapLost (h : t.Poised a b) (d : DriveId) : (t.enterMapLost d).Poised a b :=
  ((((h.setDriveState d .mapLost).modDrive d fun x => x.emptyMap).modDrive d
    fun x => { x with mapHeld := false }).setNotice d _).endTogether _ _ _

theorem Poised.enterSpinningUp (h : t.Poised a b) (d : DriveId) : (t.enterSpinningUp d).Poised a b :=
  (h.setDriveState d _).modDrive d _

theorem Poised.mapStep (h : t.Poised a b) (d : DriveId) : (t.mapStep d).Poised a b :=
  .ite (fun _ => (h.setDriveState d _).modDrive d _) fun _ =>
    .ite (fun _ => h.enterReady d) fun _ => (h.setDriveState d _).modDrive d _

theorem Poised.cutMapWrite (h : t.Poised a b) (d : DriveId) (st : MapState) : (t.cutMapWrite d st).Poised a b := by
  unfold State.cutMapWrite
  split
  · exact .ite (fun _ => h.modDrive d _) fun _ => h
  · exact h

theorem Poised.stopDrive (h : t.Poised a b) (d : DriveId) (r : Result) (ms : MapState) (k : Option Nat) :
    (t.stopDrive d r ms k).Poised a b :=
  (((((h.cutOff d).cutMapWrite d ms).abortReassign d).clearOp d).endTogether _ r false).modDrive d _

theorem Poised.enterNotReady (h : t.Poised a b) (d : DriveId) : (t.enterNotReady d).Poised a b :=
  (((h.stopDrive d .notReady .unsaved none).stopChannel d).setDriveState d .notReady).setNotice d _

/-! ## Motion -/

theorem Poised.reachTransfer (h : t.Poised a b) (d : DriveId) : (t.reachTransfer d).Poised a b := by
  unfold State.reachTransfer
  split
  · exact h
  · next op hc =>
    have h1 : (t.modDrive d fun x => { x with headSel := op.phys.head, cur := some { op with stage := .transfer } }).Poised a b :=
      h.modCur d (fun op => { op with stage := .transfer }) _ (fun _ => rfl) rfl rfl (by rw [hc]; rfl)
    exact .ite (fun _ => (h1.clearOp d).endOrder _ _) fun _ => h1

theorem Poised.recalFor (h : t.Poised a b) (d : DriveId) (n : Option Nat) : (t.recalFor d n).Poised a b := by
  unfold State.recalFor
  refine .ite (fun _ => h.modOp d _) fun _ => ?_
  split
  · exact h
  · next g _ => exact (h.modChan d _ fun _ => .startRecal _ _ _).modOp d _

theorem Poised.beginSeek (h : t.Poised a b) (d : DriveId) (n : Nat) (g : Goal) : (t.beginSeek d n g).Poised a b :=
  ((h.modDrive d (fun x => { x with chan := x.chan.startSeek (x.targetIn n) }) fun hx =>
    ⟨fun hp => (hx.place hp).startSeek _ fun _ hg => Drive.targetIn_le hg n, hx.ladder⟩).tallyDrive d _).modOp d _

theorem Poised.seekTo (h : t.Poised a b) (d : DriveId) (n : Nat) : (t.seekTo d n).Poised a b := by
  refine .ite (fun _ => h.modOp d _) fun _ => .ite (fun hc => ?_) fun _ => h.recalFor d _
  have hi : (t.drive d).chan.phase = .idle := by
    simp only [Channel.onCylinder, Bool.and_eq_true, decide_eq_true_eq] at hc
    exact hc.1
  exact .ite (fun _ => (h.modChan d _ fun hx => hx.retarget hi n).reachTransfer d) fun _ => h.beginSeek d n _

theorem Poised.moveToTrack (h : t.Poised a b) (d : DriveId) (n : Nat) (op : Op) (ho : b → op.climbs) :
    (t.moveToTrack d n op).Poised a b :=
  .ite (fun _ => (h.setOp d op ho).reachTransfer d) fun _ => (h.setOp d op ho).seekTo d _

/-! ## MAP WRITE and MAP LOAD -/

theorem Poised.startMapWrite (h : t.Poised a b) (d : DriveId) : (t.startMapWrite d).Poised a b := by
  unfold State.startMapWrite
  split
  · exact h
  · have h1 : (t.bindCommits d).Poised a b := h.foldl _ (fun _ _ hu => hu.modOrder _ _) _
    exact (h1.modDrive d _ fun x => ⟨x.place, fun _ _ hop l hl => by cases hop; cases hl⟩).seekTo d _

theorem Poised.endMapWrite (h : t.Poised a b) (d : DriveId) (ok : Bool) : (t.endMapWrite d ok).Poised a b := by
  unfold State.endMapWrite
  have h1 : ((t.clearOp d).modDrive d fun x => { x with mapState := x.mapState.afterWrite ok }).Poised a b :=
    (h.clearOp d).modDrive d _
  have h2 := (Poised.ite (c := ok = true) (fun _ => h1) fun _ => h1.setNotice d noticeMapLost).endOrders d
    (fun o => o.kind = .commitMap && o.bound) (if ok then .complete else .dataCheck)
  exact .ite (fun _ => h2.enterReady d) fun _ => h2

theorem Poised.mapSectorWritten (h : t.Poised a b) (d : DriveId) (op : Op) : (t.mapSectorWritten d op).Poised a b :=
  .ite (fun _ => h.setFresh d _) fun _ => h.setFresh d _

theorem Poised.mapReadBackFailed (h : t.Poised a b) (d : DriveId) (op : Op) (c : Bool) : (t.mapReadBackFailed d op c).Poised a b := by
  unfold State.mapReadBackFailed
  have h1 : (if c then t.tallyDrive d DriveTallies.raiseSeekChecks else t).Poised a b :=
    .ite (fun _ => h.tallyDrive d _) fun _ => h
  exact .ite (fun _ => .ite (fun _ => (h1.setFresh d _).recalFor d _) fun _ => h1.setFresh d _) fun _ => h1.endMapWrite d _

theorem Poised.mapReadBack (h : t.Poised a b) (d : DriveId) (op : Op) (o : ReadOutcome) : (t.mapReadBack d op o).Poised a b := by
  unfold State.mapReadBack
  split
  · exact .ite (fun _ => .ite (fun _ => h.setFresh d _) fun _ => h.endMapWrite d _) fun _ => h.mapReadBackFailed d op _
  all_goals exact h.mapReadBackFailed d op _

theorem Poised.startMapLoad (h : t.Poised a b) (d : DriveId) : (t.startMapLoad d).Poised a b := by
  unfold State.startMapLoad
  split
  · exact h
  · exact (h.setFresh d _).seekTo d _

theorem Poised.refuseMap (h : t.Poised a b) (d : DriveId) : (t.refuseMap d).Poised a b := (h.clearOp d).enterMapLost d

theorem Poised.checkMap (h : t.Poised a b) (d : DriveId) (op : Op) : (t.checkMap d op).Poised a b := by
  unfold State.checkMap
  split
  · exact .ite (fun _ => ((h.clearOp d).modDrive d _).enterReady d) fun _ => h.refuseMap d
  · exact h.refuseMap d

theorem Poised.mapLoadAdvance (h : t.Poised a b) (d : DriveId) (op : Op) : (t.mapLoadAdvance d op).Poised a b :=
  .ite (fun _ => h.setFresh d _) fun _ => h.checkMap d op

/-! ## The reassignment engine -/

theorem Poised.endWaiting (h : t.Poised a b) (d : DriveId) (k : Track) (r : Result) : (t.endWaiting d k r).Poised a b :=
  h.endOrders _ _ _

theorem Poised.countReassignFailure (h : t.Poised a b) (d : DriveId) : (t.countReassignFailure d).Poised a b :=
  (h.tallyDrive d _).setNotice d _

theorem Poised.reassignStuck (h : t.Poised a b) (d : DriveId) (i : Nat) (w : WatchEntry) : (t.reassignStuck d i w).Poised a b :=
  (((h.setWatch i _).countReassignFailure d).endWaiting d _ _).engineFree

theorem Poised.reassignBegin (h : t.Poised a b) (d : DriveId) (i : Nat) (w : WatchEntry) (n : Nat) :
    (t.reassignBegin d i w n).Poised a b :=
  ((((h.still d _ (Drive.Still.beginSparing _ _ _).mapChanged).setSlot i _).setEngine _).setFresh d _).seekTo d _

theorem Poised.startReassign (h : t.Poised a b) (d : DriveId) : (t.startReassign d).Poised a b := by
  unfold State.startReassign
  repeat' split
  all_goals first | exact h | exact h.engineFree | exact h.reassignStuck _ _ _ | exact h.reassignBegin _ _ _ _

theorem Poised.reassignWrite (h : t.Poised a b) (d : DriveId) (op : Op) : (t.reassignWrite d op).Poised a b := by
  unfold State.reassignWrite
  split
  · exact h
  · exact (h.setFresh d _).seekTo d _

theorem Poised.reassignAdvance (h : t.Poised a b) (d : DriveId) (op : Op) : (t.reassignAdvance d op).Poised a b :=
  .ite (fun _ => h.setFresh d _) fun _ => h.reassignWrite d op

theorem Poised.reassignWritten (h : t.Poised a b) (d : DriveId) (op : Op) : (t.reassignWritten d op).Poised a b :=
  .ite (fun _ => h.setFresh d _) fun _ => h.setFresh d _

theorem Poised.reassignFail (h : t.Poised a b) (d : DriveId) : (t.reassignFail d).Poised a b := by
  unfold State.reassignFail
  split
  · exact (((((h.still d _ (Drive.Still.sparingUndone _ _).mapChanged).setSlot _ _).countReassignFailure d).endWaiting d _
      _).engineFree).clearOp d
  · exact h.engineFree.clearOp d

theorem Poised.reassignDone (h : t.Poised a b) (d : DriveId) : (t.reassignDone d).Poised a b := by
  unfold State.reassignDone
  split
  · exact ((((((h.still d _ (Drive.Still.sparingDone _ _ _).mapChanged).setSlot _ _).tallyDrive d _).setNotice d _).endWaiting d _
      _).engineFree).clearOp d
  · exact h.engineFree.clearOp d

theorem Poised.reassignTrialFailed (h : t.Poised a b) (d : DriveId) (op : Op) : (t.reassignTrialFailed d op).Poised a b := by
  unfold State.reassignTrialFailed
  have h1 : (t.modDrive d fun x => (x.killTrial op.home).mapChanged).Poised a b := h.still d _ (Drive.Still.killTrial _ _).mapChanged
  dsimp only
  split
  · exact h1.reassignFail d
  · exact ((h1.still d _ ((Drive.Still.markTrack _ _ _).trans (.modEntry _ _ _))).setEngine _).reassignWrite d op

theorem Poised.reassignSeekCheck (h : t.Poised a b) (d : DriveId) (op : Op) : (t.reassignSeekCheck d op).Poised a b := by
  unfold State.reassignSeekCheck
  have h1 := h.tallyDrive d DriveTallies.raiseSeekChecks
  exact .ite (fun _ => ((h1.setEngine _).setFresh d _ (by split <;> rfl)).recalFor d _) fun _ => (h1.setEngine _).reassignFail d

theorem Poised.reassignReadBack (h : t.Poised a b) (d : DriveId) (op : Op) (o : ReadOutcome) : (t.reassignReadBack d op o).Poised a b :=
  .ite (fun _ => h.reassignSeekCheck d op) fun _ => .ite
    (fun _ => .ite (fun _ => h.setFresh d _) fun _ => h.reassignDone d) fun _ => h.reassignTrialFailed d op

/-! ## The verify engine -/

theorem Poised.startSurface (h : t.Poised a b) (d : DriveId) (p : Port) (o : Order) : (t.startSurface d p o).Poised a b := by
  unfold State.startSurface
  split
  · exact h
  · exact ((h.modVerify _).setFresh d _).seekTo d _

theorem Poised.endSurface (h : t.Poised a b) (d : DriveId) (op : Op) (r : Result) (f : Option SectorAddr) :
    (t.endSurface d op r f).Poised a b := ((h.modOrder _ _).endOrder _ _).clearOp d

theorem Poised.surfaceTrack (h : t.Poised a b) (d : DriveId) (op : Op) (n : Nat) : (t.surfaceTrack d op n).Poised a b := by
  unfold State.surfaceTrack
  split
  · exact h
  · exact (h.modVerify _).moveToTrack d _ _ fun _ _ hl => nomatch hl

theorem Poised.surfaceNext (h : t.Poised a b) (d : DriveId) (op : Op) : (t.surfaceNext d op).Poised a b := by
  unfold State.surfaceNext
  split
  · exact h.clearOp d
  · exact .ite (fun _ => h.endSurface _ _ _ _) fun _ => h.surfaceTrack _ _ _

theorem Poised.trackVerified (h : t.Poised a b) (d : DriveId) (op : Op) : (t.trackVerified d op).Poised a b :=
  (h.modVerify _).surfaceNext d op

theorem Poised.shortfall (h : t.Poised a b) (d : DriveId) (op : Op) (r : Result) : (t.shortfall d op r).Poised a b :=
  ((h.modVerify _).shortfallReport d _).trackVerified d op

theorem Poised.startTrial (h : t.Poised a b) (d : DriveId) (op : Op) : (t.startTrial d op).Poised a b := by
  unfold State.startTrial
  split
  · exact h.shortfall d op _
  · exact (h.modVerify _).moveToTrack d _ _ fun _ _ hl => nomatch hl

theorem Poised.judgeTrack (h : t.Poised a b) (d : DriveId) (op : Op) : (t.judgeTrack d op).Poised a b :=
  .ite (fun _ => (h.modVerify _).trackVerified d op) fun _ => (h.modVerify _).startTrial d op

theorem Poised.trialPassed (h : t.Poised a b) (d : DriveId) (op : Op) (n : Nat) : (t.trialPassed d op n).Poised a b :=
  (((h.still d _ (Drive.Still.spareByVerify _ _ _).mapChanged).forgetWatch d _).modVerify _).trackVerified d op

theorem Poised.trialFailed (h : t.Poised a b) (d : DriveId) (op : Op) (n : Nat) : (t.trialFailed d op n).Poised a b := by
  unfold State.trialFailed
  have h1 : (t.modDrive d fun x => ({ x with pool := x.pool.set n .dead } : Drive).mapChanged).Poised a b := h.modDrive d _
  exact .ite (fun _ => (h1.modVerify _).startTrial d op) fun _ => (h1.modVerify _).shortfall d op _

theorem Poised.surfaceWritten (h : t.Poised a b) (d : DriveId) (op : Op) : (t.surfaceWritten d op).Poised a b :=
  .ite (fun _ => h.setFresh d _) fun _ => (h.modVerify _).setFresh d _

theorem Poised.surfaceSeekCheck (h : t.Poised a b) (d : DriveId) (op : Op) : (t.surfaceSeekCheck d op).Poised a b := by
  unfold State.surfaceSeekCheck
  have h1 := (h.tallyDrive d DriveTallies.raiseSeekChecks).modVerify fun v => { v with seekChecks := v.seekChecks + 1 }
  exact .ite (fun _ => ((h1.modVerify _).setFresh d _).recalFor d _) fun _ => h1.endSurface d op _ _

theorem Poised.surfaceReadBack (h : t.Poised a b) (d : DriveId) (op : Op) (o : ReadOutcome) : (t.surfaceReadBack d op o).Poised a b := by
  unfold State.surfaceReadBack
  refine .ite (fun _ => h.surfaceSeekCheck d op) fun _ => ?_
  have h1 : (if patternPasses d op o then t else t.modVerify fun v => v.countFail op.sector).Poised a b :=
    .ite (fun _ => h) fun _ => h.modVerify _
  refine .ite (fun _ => h1.setFresh d _) fun _ => ?_
  split
  · exact h1.judgeTrack d op
  · exact .ite (fun _ => h1.trialPassed _ _ _) fun _ => h1.trialFailed _ _ _

theorem Poised.surfaceAdvance (h : t.Poised a b) (d : DriveId) (op : Op) : (t.surfaceAdvance d op).Poised a b :=
  .ite (fun _ => h.setFresh d _) fun _ => h.trackVerified d op

/-! ## The drive sequencer -/

theorem Poised.endHostOp (h : t.Poised a b) (d : DriveId) (op : Op) (r : Result) : (t.endHostOp d op r).Poised a b := by
  have h1 : (t.operationResult op r).Poised a b := 
    .ite (fun _ => .ite (fun _ => h.rest) fun _ => h) fun _ => h.endOrder _ _
  have h2 : (((t.operationResult op r).leaveWaitList [op.oid]).dropRequests [op.oid]).Poised a b := h1.rest
  exact h2.clearOp d

theorem Poised.hostAdvance (h : t.Poised a b) (d : DriveId) (op : Op) : (t.hostAdvance d op).Poised a b :=
  .ite (fun _ => h.endHostOp d op _) fun _ => .ite (fun _ => h.setFresh d _) fun _ => h.moveToTrack d _ _ fun _ _ hl => nomatch hl

theorem Poised.advance (h : t.Poised a b) (d : DriveId) (op : Op) : (t.advance d op).Poised a b := by
  unfold State.advance
  split <;> first
    | exact h | exact h.hostAdvance d op | exact h.surfaceAdvance d op | exact h.mapLoadAdvance d op | exact h.reassignAdvance d op

theorem Poised.finish (h : t.Poised a b) (d : DriveId) (op : Op) (r : Result) : (t.finish d op r).Poised a b := by
  unfold State.finish
  have h1 : (if r = .incompleteSector then t.tallyDrive d DriveTallies.raiseIncomplete else t).Poised a b :=
    .ite (fun _ => h.tallyDrive d _) fun _ => h
  split
  · exact h.refuseMap d
  · exact h1.endHostOp d op r
  · exact h1.endHostOp d op r
  · exact h.endSurface d op r _
  all_goals exact h.clearOp d

theorem Poised.reachGoal (h : t.Poised a b) (d : DriveId) (g : Goal) : (t.reachGoal d g).Poised a b := by
  unfold State.reachGoal
  repeat' split
  all_goals first | exact h.reachTransfer d | exact h.advance _ _ | exact h.finish _ _ _ | exact h

theorem Poised.toCentre (h : t.Poised a b) (d : DriveId) {op : Op} (ho : b → op.climbs) (g : Goal) : (t.toCentre d op g).Poised a b :=
  .ite (fun _ => (h.setOp d op ho).reachGoal d g) fun _ => (h.setOp d op ho).beginSeek d _ g

theorem Poised.noteAttempt (h : t.Poised a b) (op : Op) : (t.noteAttempt op).Poised a b := by
  unfold State.noteAttempt
  split <;> first | exact h.modOrder _ _ | exact h

theorem Poised.countRecovered (h : t.Poised a b) (d : DriveId) (op : Op) : (t.countRecovered d op).Poised a b :=
  .ite (fun _ => h) fun _ => .ite (fun _ => (h.tallyDrive d _).recoveredReport d _) fun _ => h.tallyDrive d _

theorem Poised.countUnrecovered (h : t.Poised a b) (d : DriveId) (op : Op) : (t.countUnrecovered d op).Poised a b :=
  .ite (fun _ => (h.tallyDrive d _).unrecoveredReport d _) fun _ => h

theorem Poised.keepGood (h : t.Poised a b) (op : Op) (p : Payload) : (t.keepGood op p).Poised a b := by
  unfold State.keepGood
  split <;> exact h.rest

theorem Poised.sectorGood (h : t.Poised a b) (d : DriveId) {op : Op} (ho : b → op.climbs) (p : Payload) :
    (t.sectorGood d op p).Poised a b := by
  have h1 : b → Op.climbs (if op.kind = .mapLoad then { op with got := op.got ++ [p] } else op) := fun hb => by
    split <;> exact ho hb
  unfold State.sectorGood
  dsimp only
  split
  · exact ((h.keepGood op p).setOp d _ h1).advance d _
  · exact ((h.keepGood op p).countRecovered d op).toCentre d (by intro hb l hl; exact h1 hb l hl) _

theorem Poised.sectorFailed (h : t.Poised a b) (d : DriveId) {op : Op} (ho : b → op.climbs) (r : Result) :
    (t.sectorFailed d op r).Poised a b := by
  unfold State.sectorFailed
  have h1 : (if r = .dataCheck then t.countUnrecovered d op else t).Poised a b := .ite (fun _ => h.countUnrecovered d op) fun _ => h
  have h2 : (if r = .incompleteSector then
      (if r = .dataCheck then t.countUnrecovered d op else t).tallyDrive d DriveTallies.raiseIncomplete
    else if r = .dataCheck then t.countUnrecovered d op else t).Poised a b := .ite (fun _ => h1.tallyDrive d _) fun _ => h1
  dsimp only
  split
  · exact (h1.setEngine _).toCentre d ho _
  · exact (h2.modVerify _).toCentre d ho _
  · exact (h1.modOrder _ _).toCentre d ho _
  · exact (h1.modOrder _ _).toCentre d ho _
  · exact h1.toCentre d ho _
  all_goals exact h1.clearOp d

/-- R110: each step of the ladder is above the one before, and the first is 1. -/
theorem Poised.ladderNext (h : t.Poised a b) (d : DriveId) {op : Op} (ho : b → op.climbs) : (t.ladderNext d op).Poised a b := by
  unfold State.ladderNext
  dsimp only
  split
  · exact h.setOp d _ fun _ l hl => by cases hl; exact le_rfl
  · exact .ite (fun _ => h.sectorFailed d ho _) fun _ =>
      (h.setOp d _ fun _ l hl => by cases hl; exact Nat.le_add_left _ _).seekTo d _
  · exact h

theorem Poised.seekCheck (h : t.Poised a b) (d : DriveId) (op : Op) : (t.seekCheck d op).Poised a b := by
  unfold State.seekCheck
  have h1 := h.tallyDrive d DriveTallies.raiseSeekChecks
  refine .ite (fun _ => ?_) fun _ => (h1.setFresh d _).recalFor d _
  split
  · exact (h1.modOrder _ _).endHostOp d op _
  · exact (h1.modOrder _ _).endHostOp d op _
  · exact h1.endSurface d op _ _
  · exact h1.refuseMap d
  all_goals exact h1.clearOp d

theorem Poised.ladderRead (h : t.Poised a b) (d : DriveId) {op : Op} (ho : b → op.climbs) (o : ReadOutcome) :
    (t.ladderRead d op o).Poised a b := by
  unfold State.ladderRead
  split <;> first
    | exact h.sectorGood _ ho _ | exact h.ladderNext _ ho | exact h.sectorFailed _ ho _
    | exact .ite (fun _ => h.reassignSeekCheck _ _) fun _ => h.seekCheck _ _

theorem Poised.readOutcome (h : t.Poised a b) (d : DriveId) {op : Op} (ho : b → op.climbs) (o : ReadOutcome) :
    (t.readOutcome d op o).Poised a b := by
  unfold State.readOutcome
  refine .ite (fun _ => ?_) fun _ => h.ladderRead d ho o
  split <;> first | exact h | exact h.mapReadBack _ _ _ | exact h.reassignReadBack _ _ _ | exact h.surfaceReadBack _ _ _

theorem Poised.lateOutcome (h : t.Poised a b) (d : DriveId) (op : Op) (c : Bool) : (t.lateOutcome d op c).Poised a b :=
  (Poised.ite (fun _ => h.modOrder _ _) fun _ => h).clearOp d

theorem Poised.afterTransfer (h : t.Poised a b) (d : DriveId) (x : Xfer) (good : Bool) : (t.afterTransfer d x good).Poised a b := by
  unfold State.afterTransfer
  split
  · exact h.release
  · refine .ite (fun _ => ?_) fun _ => h.release
    dsimp only
    split
    · exact h.setPath _
    · exact .ite (fun _ => h.beginTransfer _ _ _) fun _ => h.release

theorem Poised.endRead (h : t.Poised a b) (d : DriveId) {op : Op} (ho : b → op.climbs) (x : Xfer) (o : ReadOutcome) :
    (t.endRead d op x o).Poised a b := by
  have h1 : (if op.kind = .read then
      match o with
      | .good p => t.ringGood p
      | .mismatch _ | .incomplete | .lost | .dataCheck => t.ringBack
    else t).Poised a b := by
    refine .ite (fun _ => ?_) fun _ => h
    split <;> first | exact h.ringGood _ | exact h.ringBack
  exact Poised.afterTransfer (.ite (fun _ => (h1.noteAttempt op).lateOutcome _ _ _) fun _ => (h1.noteAttempt op).readOutcome _ ho _) d x _

theorem Poised.writeWritten (h : t.Poised a b) (d : DriveId) (op : Op) : (t.writeWritten d op).Poised a b := by
  unfold State.writeWritten
  have h1 : (if op.ended then t.lateOutcome d op true
      else t.modOrder op.oid fun o => { o with done := o.done + 1 }).Poised a b :=
    .ite (fun _ => h.lateOutcome _ _ _) fun _ => h.modOrder _ _
  have h2 : (match t.slotOf op.oid op.index with
      | some i => (if op.ended then t.lateOutcome d op true
          else t.modOrder op.oid fun o => { o with done := o.done + 1 }).freeSlot i
      | none => if op.ended then t.lateOutcome d op true
          else t.modOrder op.oid fun o => { o with done := o.done + 1 }).Poised a b := by
    split
    · exact h1.freeSlot _
    · exact h1
  exact .ite (fun _ => h2) fun _ => h2.hostAdvance d op

theorem Poised.writeOutcome (h : t.Poised a b) (d : DriveId) (op : Op) : (t.writeOutcome d op).Poised a b := by
  unfold State.writeOutcome
  split <;> first
    | exact h | exact h.writeWritten _ _ | exact h.mapSectorWritten _ _
    | exact .ite (fun _ => h.clearOp _) fun _ => h.reassignWritten _ _
    | exact .ite (fun _ => h.clearOp _) fun _ => .ite (fun _ => h.surfaceWritten _ _) fun _ => h

theorem Poised.endWrite (h : t.Poised a b) (d : DriveId) (op : Op) (x : Xfer) (f : Frame) : (t.endWrite d op x f).Poised a b :=
  ((h.rest (u := t.layDown d op.phys x.sector f)).writeOutcome d op).afterTransfer d x true

theorem Poised.holderStart (h : t.Poised a b) (d : DriveId) (op : Op) (x : Xfer) (n : Nat) : (t.holderStart d op x n).Poised a b := by
  have h1 := h.abandonGrant op x
  exact .ite (fun _ => h.setPath _) fun _ => .ite (fun _ => h.beginTransfer d op x) fun _ =>
    .ite (fun _ => .ite (fun _ => (h1.clearOp d).freeSlots _) fun _ => h1.clearOp d) fun _ => h1

theorem Poised.seekerStart (h : t.Poised a b) (d : DriveId) (op : Op) (n : Nat) : (t.seekerStart d op n).Poised a b :=
  .ite (fun _ => .ite (fun _ => (h.modDrive d _).tallyDrive d _) fun _ => h) fun _ => .ite (fun _ => h.consider d op) fun _ => h

theorem Poised.sectorStart (h : t.Poised a b) (d : DriveId) (n : Nat) : (t.sectorStart d n).Poised a b := by
  unfold State.sectorStart
  split
  · exact h
  · refine .ite (fun _ => ?_) fun _ => h.seekerStart _ _ _
    split
    · exact h.holderStart _ _ _ _
    · exact h

theorem Poised.makeWaiting (h : t.Poised a b) (d : DriveId) (m : Motion) : (t.makeWaiting d m).Poised a b := by
  unfold State.makeWaiting
  split <;> first | exact h.seekTo _ _ | exact h.recalFor _ _

theorem Poised.onCylinderReport (h : t.Poised a b) (d : DriveId) : (t.onCylinderReport d).Poised a b := by
  unfold State.onCylinderReport
  repeat' split
  all_goals first | exact h | exact h.makeWaiting _ _ | exact h.reachGoal _ _

theorem Poised.homeFoundReport (h : t.Poised a b) (d : DriveId) : (t.homeFoundReport d).Poised a b := by
  unfold State.homeFoundReport
  repeat' split
  all_goals first
    | exact h | exact h.makeWaiting _ _ | exact h.seekTo _ _
    | exact .ite (fun _ => (h.clearOp d).mapStep d) fun _ => h.clearOp d

theorem Poised.channelUpdate (h : t.Poised a b) (d : DriveId) (home : Bool) : (t.channelUpdate d home).Poised a b := by
  have h1 : (t.modChan d fun ch => ch.update t.m home).Poised a b := h.modChan d _ fun hx => hx.update _ _
  have h2 : (if (t.drive d).chan.updateHard t.m then (t.modChan d fun ch => ch.update t.m home).tallyDrive d
      DriveTallies.raiseHardArrivals else t.modChan d fun ch => ch.update t.m home).Poised a b :=
    .ite (fun _ => h1.tallyDrive d _) fun _ => h1
  unfold State.channelUpdate
  dsimp only
  split
  · exact h2
  · exact h2.onCylinderReport d
  · exact h2.homeFoundReport d
  · exact h2.enterNotReady d

/-! ## Selection and the immediate actions -/

theorem Poised.startHost (h : t.Poised a b) (d : DriveId) (p : Port) (o : Order) : (t.startHost d p o).Poised a b :=
  (h.setFresh d _).seekTo d _

theorem Poised.takeEntry (h : t.Poised a b) (d : DriveId) (es : List (Port × Order)) (c : Choice) : (t.takeEntry d es c).Poised a b := by
  unfold State.takeEntry
  have h1 : (if c.passes then t.passOver es c.entry.2.oid else t).Poised a b :=
    .ite (fun _ => h.foldl _ (fun _ _ hu => hu.modOrder _ _) _) fun _ => h
  have h2 := (h1.modDrive d fun x => { x with queue := x.queue.filter fun n => n ≠ c.entry.2.oid, sweepIn := c.sweepIn }).modOrder
    c.entry.2.oid fun o => { o with state := .active }
  exact .ite (fun _ => h2.startSurface _ _ _) fun _ => h2.startHost _ _ _

theorem Poised.startInternal (h : t.Poised a b) (d : DriveId) (k : OpKind) : (t.startInternal d k).Poised a b := by
  cases k <;> simp only [State.startInternal]
  case recalibrate =>
    exact Poised.recalFor (Poised.setFresh (Poised.modDrive h d fun x => { x with pendRecal := false }) d _) d _
  case mapLoad => exact Poised.startMapLoad (Poised.modDrive h d fun x => { x with pendLoad := false }) d
  case mapWrite => exact Poised.startMapWrite (Poised.modDrive h d fun x => { x with pendWrite := false }) d
  case reassign => exact Poised.startReassign (Poised.modDrive h d fun x => { x with pendReassign := false }) d
  all_goals exact h

theorem Poised.select (h : s.Poised a b) {d : DriveId} (hs : s.select d = some t) : t.Poised a b := by
  unfold State.select at hs
  split at hs
  · cases hs
  · split at hs
    · cases hs; exact h.startInternal _ _
    · obtain ⟨c, _, rfl⟩ := Option.map_eq_some_iff.mp hs
      exact h.takeEntry _ _ _

theorem Poised.act (h : s.Poised a b) (hs : s.act = some t) : t.Poised a b := by
  rcases State.act_drives hs with hd | ⟨d, hd⟩ | ⟨d, hd⟩ | ⟨d, f, hd⟩ | ⟨d, _, rfl⟩
  · exact h.rest hd
  · exact (h.modDrive d fun x => { x with pendReassign := true }).rest hd
  · exact h.select hd
  · exact (h.modDrive d fun x => { x with request := false, tally := f x.tally }).rest hd
  · exact h.enterSpinningUp d

theorem Poised.settle (h : s.Poised a b) (n : Nat) : (settle n s).Poised a b :=
  settle_rel (P := fun s t => s.Poised a b → t.Poised a b) (fun _ => id) (fun _ _ _ h1 h2 => h2 ∘ h1) (fun _ _ ha h => h.act ha) n s h

/-! ## The commands -/

theorem Poised.qualify (h : t.Poised a b) (d : DriveId) (n : Nat) : (t.qualify d n).Poised a b := by
  unfold State.qualify
  exact .ite (fun _ => .ite (fun _ => (h.modDrive d _).enterRecalibrating d)
    fun _ => ((h.modDrive d _).setDriveState d _).endOrders d _ _) fun _ => h.modDrive d _

theorem Poised.indexPulse (h : t.Poised a b) (d : DriveId) : (t.indexPulse d).Poised a b := by
  unfold State.indexPulse
  refine .ite (fun _ => h.modDrive d _) fun _ => ?_
  have h1 : (t.modDrive d fun x => { x with counter := 0, lastIndex := some t.clock }).Poised a b := h.modDrive d _
  generalize (t.modDrive d fun x => { x with counter := 0, lastIndex := some t.clock }) = u at h1 ⊢
  have h2 : (if (t.drive d).state.armed then
      u.modDrive d fun x => { x with watchFrom := t.clock, watchLimit := x.twoPeriods } else u).Poised a b :=
    .ite (fun _ => h1.modDrive d _) fun _ => h1
  refine Poised.sectorStart ?_ d 0
  split
  · exact .ite (fun _ => h2.qualify d _) fun _ => h2
  · exact h2

theorem Poised.sectorPulse (h : t.Poised a b) (d : DriveId) : (t.sectorPulse d).Poised a b :=
  .ite (fun _ => (h.modDrive d fun x => { x with counter := x.counter + 1 }).sectorStart d _) fun _ => h

theorem Poised.sectorReadEnd (h : t.Poised a b) (d : DriveId) (f : Option Frame) : (t.sectorReadEnd d f).Poised a b := by
  unfold State.sectorReadEnd
  split
  · next op x hx => exact .ite (fun _ => h.endRead d (h.climbs (State.transferOf_eq hx).2.1) _ _) fun _ => h
  · exact h

theorem Poised.sectorWriteEnd (h : t.Poised a b) (d : DriveId) : (t.sectorWriteEnd d).Poised a b := by
  unfold State.sectorWriteEnd
  split
  · split
    · exact h.endWrite _ _ _ _
    · exact h
  · exact h

theorem Poised.tearWrite (h : t.Poised a b) : t.tearWrite.Poised a b := by
  unfold State.tearWrite
  split
  · exact h.cutOff _
  · exact h

theorem Poised.applyPoll (h : t.Poised a b) (d : DriveId) (seen : Option (Fin 16)) : (t.applyPoll d seen).Poised a b := by
  have h1 : (t.modDrive d fun x => x.polled seen).Poised a b :=
    h.still d _ (by unfold Drive.polled; split <;> exact ⟨rfl, rfl, rfl⟩)
  unfold State.applyPoll
  repeat' (first | split | dsimp only)
  all_goals first
    | exact h1 | exact h1.setDriveState _ _ | exact h1.enterRecalibrating _ | exact h1.modDrive d _

theorem Poised.applyPolls (h : t.Poised a b) (poll : Poll) : (t.applyPolls poll).Poised a b :=
  h.foldl _ (fun _ _ hu => .ite (fun _ => hu.applyPoll _ _) fun _ => hu) _

theorem Poised.stringReset (h : t.Poised a b) (c : StartCause) (own : Option Nat) (poll : Poll) :
    (t.stringReset c own poll).Poised a b := by
  have h1 : t.cutString.Poised a b :=
    h.tearWrite.foldl _ (fun _ _ hu => ((hu.cutMapWrite _ _).abortReassign _).clearOp _) _
  unfold State.stringReset
  dsimp only
  generalize t.cutString = u at h1 ⊢
  have h2 : State.Poised a b { u with drives := u.drives.map Drive.atReset } :=
    h1.mapDrives Drive.atReset fun _ x hx => ⟨fun hp => (hx.place hp).stop, fun _ _ hc => nomatch hc⟩
  refine Poised.applyPolls ?_ poll
  exact h2.rest

theorem Poised.windDownCurrent (h : t.Poised a b) (d : DriveId) : (t.windDownCurrent d).Poised a b := by
  unfold State.windDownCurrent
  split
  · exact .ite (fun _ => h.windDown d) fun _ => h
  · exact h

theorem Poised.getTable (h : t.Poised a b) (f : OrderFrame) (n : Nat) (d : DriveId) : (getTable f n d t).Poised a b := by
  unfold Machine.getTable
  split
  · exact Poised.endOrder (Poised.modOrder (h.rest (u := t.stepWindow f.port)) _ _) _ _
  · exact h

theorem Poised.readAllTallies (h : t.Poised a b) (n : Nat) (d : DriveId) : (readAllTallies n d t).Poised a b :=
  (((h.mapDrives fun x => { x with tally := DriveTallies.zero }).rest (u := t.clearTallies)).modOrder _ _).endOrder _ _

theorem Poised.reassignTrackOn (h : t.Poised a b) (k : Track) (n : Nat) (d : DriveId) : (reassignTrackOn k n d t).Poised a b := by
  unfold Machine.reassignTrackOn
  refine .ite (fun _ => h.setEngine _) fun _ => ?_
  repeat' split
  all_goals first | exact (h.rest (u := t.overflowWatch)).endOrder _ _ | exact h.rest

theorem Poised.resetDrive (h : t.Poised a b) (n : Nat) (d : DriveId) : (resetDrive n d t).Poised a b := by
  unfold Machine.resetDrive
  have h1 := ((h.stopDrive d .reset .dirty (some n)).stopChannel d).modDrive d fun x => { x with mapHeld := false, sweepIn := true }
  dsimp only
  split
  · exact h1.setDriveState d _
  · exact h1.setDriveState d _
  · exact h1.setDriveState d _
  · exact .ite (fun _ => h1.endOrder _ _) fun _ => h1.enterRecalibrating d
  all_goals exact h1.enterRecalibrating d

theorem Poised.unfenceDrive (h : t.Poised a b) (n : Nat) (d : DriveId) : (unfenceDrive n d t).Poised a b :=
  ((h.modDrive d fun x => { x with mapHeld := false }).stopChannel d).enterRecalibrating d

/-- R166: an address that is served has its channel stopped, whose position is then not known, before its geometry changes. -/
theorem Poised.putGeometry (h : t.Poised a b) (ha : ∀ e, a e → served t.plugs.mode8 e = true) (d : DriveId) (g : Geometry) :
    (t.putGeometry d g).Poised a b := by
  refine .ite (fun _ => ?_) fun hn => h.modDrive d _ fun x => ⟨fun hp => absurd (ha d hp) hn, x.ladder⟩
  have h1 : ((t.stopChannel d).modDrive d fun x =>
      { x with pendRecal := false, geom := some g, geomLater := false, policy := x.policy.within g.s }).Poised a b := by
    refine Poised.rest (t := t.modDrive d fun x => { x with
      chan := x.chan.stop, pendRecal := false, geom := some g, geomLater := false, policy := x.policy.within g.s })
      (h.modDrive d _ fun x => ⟨fun hp => (x.place hp).stop, x.ladder⟩) ?_
    exact congrArg State.drives (State.modDrive_modDrive t d (fun x => { x with chan := x.chan.stop }) _)
  unfold State.newGeometry
  exact .ite (fun _ => h1) fun _ => (h1.modDrive d Drive.emptyMap).rest

theorem Poised.putPortAccess (h : t.Poised a b) (q : Port) (x : PortAccess) : (t.putPortAccess q x).Poised a b := fun d => by
  have hd : (t.drive d).Still ((t.putPortAccess q x).drive d) := by
    have key : ∀ (c : Prop) [Decidable c] (y : Drive), y.Still (if c then { y with holder := none } else y) := fun c _ y => by
      split <;> exact ⟨rfl, rfl, rfl⟩
    unfold State.putPortAccess State.drive
    rw [Oct.get_of]
    exact key _ _
  rw [hd.geom, hd.chan, hd.cur]
  exact h d

theorem Poised.putPolicy (h : t.Poised a b) (d : DriveId) (p : Policy) : (t.putPolicy d p).Poised a b :=
  Poised.rest (h.modDrive d fun x => { x with policy := p, policyLater := !served t.plugs.mode8 d })

theorem Poised.storePut (h : t.Poised a b) (ha : ∀ e, a e → served t.plugs.mode8 e = true) (w : Window) (k : TableId) (l : List Byte) :
    (t.storePut w k l).1.Poised a b := by
  cases k <;> simp only [State.storePut]
  case portAccess =>
    split
    · exact h
    · exact h.putPortAccess _ _
  case geometry => exact h.putGeometry ha _ _
  case motionProfile =>
    refine h.modDrive _ _ fun x => ⟨fun hp => ?_, x.ladder⟩
    dsimp only
    split <;> [exact (x.place hp).takeProfile _; exact x.place hp]
  case sparingPolicy => exact h.putPolicy _ _
  case spareMap => exact h.still _ _ (.putSlot _ _ _)
  case alternatePool =>
    split
    · exact h
    · exact h.still _ _ (.putPool _ _ _)
  case watchList => exact h

theorem Poised.putTable (h : t.Poised a b) (ha : ∀ e, a e → served t.plugs.mode8 e = true) (f : OrderFrame) (n : Nat) (d : DriveId) :
    (putTable f n d t).Poised a b := by
  unfold Machine.putTable State.tablePut
  dsimp only
  split
  · exact (h.modOrder _ _).endOrder _ _
  · exact Poised.endOrder (Poised.modOrder ((h.storePut ha _ _ _).rest) _ _) _ _

theorem Poised.receiveOrder (h : t.Poised a b) (k : OrderKind) (f : OrderFrame) {go : Nat → DriveId → State → State}
    (hgo : ∀ n d u, u.plugs = t.plugs → u.Poised a b → (go n d u).Poised a b) : (t.receiveOrder k f go).Poised a b := by
  unfold State.receiveOrder
  split
  · split
    · exact h.rest
    · exact hgo _ _ _ rfl (h.rest (State.drives_accept _ _ _ _ _))
  · exact h.rest

theorem Poised.receiveData (h : t.Poised a b) (f : DataFrame) : (t.receiveData f).Poised a b := by
  unfold State.receiveData
  repeat' split
  all_goals exact h.rest

theorem Poised.cancelOrder (h : t.Poised a b) (p : Port) (o : Order) : (t.cancelOrder p o).Poised a b :=
  .ite (fun _ => h) fun _ => .ite (fun _ => .ite (fun _ => h.endTogether _ _ _) fun _ => h) fun _ => h.rest

theorem Poised.receiveCancel (h : t.Poised a b) (f : CancelFrame) : (t.receiveCancel f).Poised a b := by
  unfold State.receiveCancel
  repeat' split
  all_goals first | exact h.cancelOrder _ _ | exact h.rest

theorem Poised.portReset (h : t.Poised a b) (p : Port) : (t.portReset p).Poised a b := by
  have h1 := h.endTogether (t.port p).liveQueued .reset true
  unfold State.portReset
  generalize t.endTogether (t.port p).liveQueued .reset true = u at h1 ⊢
  exact (h1.rest (State.modPort_drives u p _)).mapDrives _ fun _ x hx => by split <;> exact hx

theorem Poised.receiveReset (h : t.Poised a b) (f : ResetFrame) : (t.receiveReset f).Poised a b :=
  .ite (fun _ => h.portReset _) fun _ => h.rest

theorem Poised.takeFrame (h : t.Poised a b) (p : Port) : (t.takeFrame p).Poised a b := by
  unfold State.takeFrame
  split
  · exact h
  · unfold State.frameEffect
    split <;> exact h.rest

theorem Poised.timeOut (h : t.Poised a b) (p : Port) (n : Nat) : (t.timeOut p n).Poised a b :=
  (h.rest (u := t.countTimeout p)).endTogether _ _ _

theorem Poised.deliveryExpiry (h : t.Poised a b) (p : Port) : (t.deliveryExpiry p).Poised a b := by
  unfold State.deliveryExpiry
  split
  · exact .ite (fun _ => h.timeOut _ _) fun _ => h
  · exact h

theorem Poised.receiveUnknown (h : t.Poised a b) (f : UnknownFrame) : (t.receiveUnknown f).Poised a b := by
  unfold State.receiveUnknown
  repeat' split
  all_goals exact h.rest

theorem Poised.run {g : State → State} (hg : ∀ u, u.plugs = s.plugs → u.Poised a b → (g u).Poised a b) (hr : s.run g = .next t)
    (h : s.Poised a b) : t.Poised a b := by
  unfold State.run at hr
  split at hr
  · cases hr; exact (hg s rfl h).settle _
  · cases hr; exact h

/-- R168: at power-on every channel is STOPPED with its position not known, and nothing is current. -/
theorem Poised.poweredOn (s : State) (plugs : Plugs) (poll : Poll) : (s.poweredOn plugs poll).Poised a b := fun d => by
  rw [State.drive_poweredOn]
  refine ⟨fun _ => .of_unknown rfl, fun _ op hop => ?_⟩
  have hn : (Drive.atPowerOn plugs.mode8 (served plugs.mode8 d) (poll.get d) (s.drive d)).cur = none := by
    unfold Drive.atPowerOn Drive.defaults Drive.withLater
    dsimp only
    repeat' split
    all_goals rfl
  rw [hn] at hop
  cases hop

theorem Poised.exec {i : Instr} (h : s.Poised a b) (ha : ∀ e, a e → served s.plugs.mode8 e = true) (he : exec i s = .next t) :
    t.Poised a b := by
  cases i <;> simp only [Machine.exec] at he
  case powerOn plugs poll => cases he; exact (Poised.poweredOn _ plugs poll).settle _
  case powerFailure =>
    unfold execPowerFailure at he
    split at he <;> cases he
    · exact h.tearWrite.rest
    · exact h
  case stringResetLine => exact .run (fun _ _ hu => hu.stringReset _ _ _) he h
  case indexPulse => exact .run (fun _ _ hu => hu.indexPulse _) he h
  case sectorPulse => exact .run (fun _ _ hu => hu.sectorPulse _) he h
  case spinUpLimitExpiry => exact .run (fun _ _ hu => .ite (fun _ => hu.enterNotReady _) fun _ => hu) he h
  case indexWatchdogExpiry => exact .run (fun _ _ hu => .ite (fun _ => hu.enterNotReady _) fun _ => hu) he h
  case positionerUpdate => exact .run (fun _ _ hu => .ite (fun _ => hu.channelUpdate _ _) fun _ => hu) he h
  case onCylinderReport => exact .run (fun _ _ hu => .ite (fun _ => hu.channelUpdate _ _) fun _ => hu) he h
  case recalibrationFailed => exact .run (fun _ _ hu => .ite (fun _ => hu.channelUpdate _ _) fun _ => hu) he h
  case sectorReadEnd => exact .run (fun _ _ hu => hu.sectorReadEnd _ _) he h
  case sectorWriteEnd => exact .run (fun _ _ hu => hu.sectorWriteEnd _) he h
  case watchWindowExpiry => exact .run (fun _ _ hu => hu.expireWatch _) he h
  case read | write | verify | seek | surfaceVerify =>
    exact .run (fun _ _ hu => hu.receiveOrder _ _ fun n d _ _ hv => hv.modDrive d fun x => { x with queue := x.queue ++ [n] }) he h
  case reserve f =>
    exact .run (fun _ _ hu => hu.receiveOrder _ _ fun _ d _ _ hv => (hv.modDrive d fun x => { x with holder := some f.port }).endOrder _ _) he h
  case release =>
    exact .run (fun _ _ hu => hu.receiveOrder _ _ fun _ d _ _ hv => (hv.modDrive d fun x => { x with holder := none }).endOrder _ _) he h
  case sense => exact .run (fun _ _ hu => hu.receiveOrder _ _ fun _ _ _ _ hv => (hv.modOrder _ _).endOrder _ _) he h
  case tableSelect => exact .run (fun _ _ hu => hu.receiveOrder _ _ fun _ _ _ _ hv => Poised.endOrder hv.rest _ _) he h
  case tablePut =>
    exact .run (fun _ hp hu => hu.receiveOrder _ _ fun n d _ hq hv => hv.putTable (fun e he => by rw [hq, hp]; exact ha e he) _ n d) he h
  case tableGet => exact .run (fun _ _ hu => hu.receiveOrder _ _ fun n d _ _ hv => hv.getTable _ n d) he h
  case readTallies => exact .run (fun _ _ hu => hu.receiveOrder _ _ fun n d _ _ hv => hv.readAllTallies n d) he h
  case reassignTrack => exact .run (fun _ _ hu => hu.receiveOrder _ _ fun n d _ _ hv => hv.reassignTrackOn _ n d) he h
  case fence =>
    exact .run (fun _ _ hu => hu.receiveOrder _ _ fun _ d _ _ hv =>
      (((hv.setDriveState d .fenced).abortReassign d).endTogether _ _ _).windDownCurrent d) he h
  case unfence => exact .run (fun _ _ hu => hu.receiveOrder _ _ fun n d _ _ hv => hv.unfenceDrive n d) he h
  case driveReset => exact .run (fun _ _ hu => hu.receiveOrder _ _ fun n d _ _ hv => hv.resetDrive n d) he h
  case commitMap =>
    exact .run (fun _ _ hu => hu.receiveOrder _ _ fun _ d _ _ hv => hv.modDrive d fun x => { x with pendWrite := true }) he h
  case stringReset => exact .run (fun _ _ hu => hu.receiveOrder _ _ fun _ _ _ _ hv => hv.stringReset _ _ _) he h
  case hostDataFrame => exact .run (fun _ _ hu => hu.receiveData _) he h
  case cancel => exact .run (fun _ _ hu => hu.receiveCancel _) he h
  case portReset => exact .run (fun _ _ hu => hu.receiveReset _) he h
  case frameTaken => exact .run (fun _ _ hu => hu.takeFrame _) he h
  case deliveryTimeout => exact .run (fun _ _ hu => hu.deliveryExpiry _) he h
  case dataRequestTimeout => exact .run (fun _ _ hu => .ite (fun _ => hu.timeOut _ _) fun _ => hu) he h
  case unknownFrameKind => exact .run (fun _ _ hu => hu.receiveUnknown _) he h

theorem Poised.step (h : s.Poised a b) (ha : ∀ e, a e → served s.plugs.mode8 e = true) (hs : step s = .next t) : t.Poised a b := by
  unfold Machine.step at hs
  split at hs
  · cases hs
    exact .ite (fun _ => h.rest) fun _ => h
  · next c rest _ =>
    have h1 : State.Poised a b { s with pending := rest } := h.rest
    exact h1.exec ha hs

/-- The two laws in the parts of each drive. -/
theorem poised_iff (s : State) (p b : Prop) :
    s.Poised (fun d => p ∧ served s.plugs.mode8 d = true) b ↔ (p → s.positionLaw) ∧ (b → s.ladderLaw) :=
  ⟨fun h => ⟨fun hp d hd => (Drive.positionLaw_iff _).mpr ((h d).place ⟨hp, hd⟩), fun hb d op l hc => (h d).ladder hb op hc l⟩,
   fun h d => ⟨fun hp => (Drive.positionLaw_iff _).mp (h.1 hp.1 d hp.2), fun hb op hc l => h.2 hb d op l hc⟩⟩

/-- What every command but a power-on keeps. -/
theorem exec_lawKept {i : Instr} (hi : ∀ plugs poll, i ≠ .powerOn plugs poll) (he : exec i s = .next t) : LawKept s t := by
  cases hc : setsTables i
  · exact (exec_lawful hc he).kept
  · cases i <;> simp only [setsTables, Bool.false_eq_true] at hc <;> simp only [Machine.exec] at he
    case powerOn plugs poll => exact absurd rfl (hi plugs poll)
    case tablePut f =>
      unfold execTablePut State.run at he
      split at he <;> cases he
      · exact (LawKept.receiveOrder s _ f fun n d u => .putTable f n d u).trans ((Work.refl _).settle _).toLawful.kept
      · exact .refl s

/-- R31, R168: the initial channels of a power-on rest. -/
theorem velocityLaw_powerOn (h : s.velocityLaw) (plugs : Plugs) (poll : Poll) : (s.powerOn plugs poll).velocityLaw := by
  refine ((Work.refl _).settle _).toLawful.kept.velocity ((State.poweredOn_laws _ plugs poll).2.2.2.1 ?_)
  split
  · exact (Lawful.refl s).tearWrite.kept.velocity h
  · exact h

theorem velocityLaw_exec {i : Instr} (h : s.velocityLaw) (he : exec i s = .next t) : t.velocityLaw := by
  by_cases hi : ∃ plugs poll, i = .powerOn plugs poll
  · obtain ⟨plugs, poll, rfl⟩ := hi
    cases he
    exact State.velocityLaw_powerOn h plugs poll
  · exact (State.exec_lawKept (fun plugs poll hp => hi ⟨plugs, poll, hp⟩) he).velocity h

theorem velocityLaw_step (h : s.velocityLaw) (hs : step s = .next t) : t.velocityLaw := by
  unfold Machine.step at hs
  split at hs
  · cases hs
    unfold State.tick
    split <;> exact h
  · next c rest _ =>
    have h1 : State.velocityLaw { s with pending := rest } := h
    exact State.velocityLaw_exec h1 hs

/-- A step that changes the plugs is a power-on, which leaves every channel STOPPED. -/
theorem plugs_step (hs : step s = .next t) : t.plugs = s.plugs ∨ ∀ a b, t.Poised a b := by
  unfold Machine.step at hs
  split at hs
  · cases hs
    unfold State.tick
    split <;> exact .inl rfl
  · next c rest _ =>
    by_cases hi : ∃ plugs poll, c = .powerOn plugs poll
    · obtain ⟨plugs, poll, rfl⟩ := hi
      cases hs
      exact .inr fun _ _ => (Poised.poweredOn _ plugs poll).settle _
    · exact .inl (State.exec_lawKept (fun plugs poll hp => hi ⟨plugs, poll, hp⟩) hs).plugs

end State

/-- Settles O15: every operation of the model keeps the channel law of the velocity, and `State.Poised` for the other two. -/
theorem motionLawsKept : Obligations.MotionLawsKept := by
  unfold Obligations.MotionLawsKept
  intro s t hs
  have key : ∀ p b, s.Poised (fun d => p ∧ served s.plugs.mode8 d = true) b →
      t.Poised (fun d => p ∧ served t.plugs.mode8 d = true) b := fun p b h => by
    rcases State.plugs_step hs with hp | hall
    · rw [hp]; exact h.step (fun _ he => he.2) hs
    · exact hall _ _
  refine ⟨fun h => State.velocityLaw_step h hs, fun h => ?_, fun h => ?_⟩
  · exact ((t.poised_iff True False).mp (key _ _ ((s.poised_iff True False).mpr ⟨fun _ => h, False.elim⟩))).1 trivial
  · exact ((t.poised_iff False True).mp (key _ _ ((s.poised_iff False True).mpr ⟨False.elim, fun _ => h⟩))).2 trivial

end Sys2Proof.Machine
end

section
/-! Sitting of the family 02 (arm positioning), part 2: the two queue disciplines and the selection. -/

namespace Sys2Proof.Machine

-- One declaration after the other: in parallel the one compile of the whole text runs out of threads.
set_option Elab.async false

variable {s t u : State} {d e : DriveId}

/-! ## The nearest item of a list -/

section
variable {α : Type} (p : α → Prop) [DecidablePred p] (key : α → Nat)

/-- One step of the search for the item with the least key among those that satisfy `p`, the first between equals. -/
def pickNear (best : Option α) (i : α) : Option α :=
  if p i then
    match best with
    | none => some i
    | some b => if key i < key b then some i else some b
  else best

theorem foldl_pickNear_none (l : List α) : l.foldl (pickNear p key) none = none ↔ ∀ i ∈ l, ¬p i := by
  induction l using List.reverseRecOn with
  | nil => simp
  | append_singleton l i ih =>
    rw [List.foldl_append, List.foldl_cons, List.foldl_nil]
    generalize l.foldl (pickNear p key) none = best at ih ⊢
    by_cases hp : p i
    · have hne : pickNear p key best i ≠ none := by
        unfold pickNear
        rw [if_pos hp]
        cases best with
        | none => simp
        | some b => dsimp only; split <;> simp
      exact ⟨fun h => absurd h hne, fun h => absurd hp (h i (by simp))⟩
    · have he : pickNear p key best i = best := if_neg hp
      rw [he, ih]
      exact ⟨fun h j hj => (List.mem_append.mp hj).elim (h j) fun hj => List.mem_singleton.mp hj ▸ hp,
        fun h j hj => h j (List.mem_append_left _ hj)⟩

/-- The item found satisfies `p`; those before it that do have a greater key, those behind it no lesser one. -/
theorem foldl_pickNear_some {l : List α} {b : α} (h : l.foldl (pickNear p key) none = some b) :
    ∃ front back, l = front ++ b :: back ∧ p b ∧ (∀ i ∈ front, p i → key b < key i) ∧ ∀ i ∈ back, p i → key b ≤ key i := by
  induction l using List.reverseRecOn generalizing b with
  | nil => cases h
  | append_singleton l i ih =>
    rw [List.foldl_append, List.foldl_cons, List.foldl_nil] at h
    have keep : ∀ c, l.foldl (pickNear p key) none = some c → (p i → key c ≤ key i) → c = b →
        ∃ front back, l ++ [i] = front ++ b :: back ∧ p b ∧ (∀ i ∈ front, p i → key b < key i) ∧
          ∀ i ∈ back, p i → key b ≤ key i := by
      rintro c hc hi rfl
      obtain ⟨front, back, rfl, hp, hf, hb⟩ := ih hc
      refine ⟨front, back ++ [i], by simp, hp, hf, fun j hj => ?_⟩
      exact (List.mem_append.mp hj).elim (hb j) fun hj => List.mem_singleton.mp hj ▸ hi
    by_cases hp : p i
    · unfold pickNear at h
      rw [if_pos hp] at h
      cases hc : l.foldl (pickNear p key) none with
      | none =>
        have hn := (foldl_pickNear_none p key l).mp hc
        unfold pickNear at hc
        rw [hc] at h
        cases h
        exact ⟨l, [], rfl, hp, fun j hj hj' => absurd hj' (hn j hj), fun _ hj => nomatch hj⟩
      | some c =>
        have hc' := hc
        unfold pickNear at hc
        rw [hc] at h
        dsimp only at h
        split at h
        · next hlt =>
          cases h
          obtain ⟨front, back, rfl, -, hf, hb⟩ := ih hc'
          refine ⟨_, [], rfl, hp, fun j hj hj' => ?_, fun _ hj => nomatch hj⟩
          rcases List.mem_append.mp hj with hj | hj
          · exact hlt.trans (hf j hj hj')
          · rcases List.mem_cons.mp hj with rfl | hj
            · exact hlt
            · exact hlt.trans_le (hb j hj hj')
        · next hge => exact keep c hc' (fun _ => Nat.le_of_not_lt hge) (Option.some.inj h)
    · have he : pickNear p key (l.foldl (pickNear p key) none) i = l.foldl (pickNear p key) none := if_neg hp
      rw [he] at h
      exact keep b h (fun hp' => absurd hp' hp) rfl

end

/-! ## The choice (R102 to R104) -/

/-- R103: the entry is at or beyond the arm in the direction. -/
@[reducible] def State.ahead (s : State) (d : DriveId) (arm : Nat) (inward : Bool) (x : Port × Order) : Prop :=
  if inward = true then arm ≤ s.targetCyl d x.2 else s.targetCyl d x.2 ≤ arm

/-- R103: the distance of the entry from the arm in the direction. -/
@[reducible] def State.dist (s : State) (d : DriveId) (arm : Nat) (inward : Bool) (x : Port × Order) : Nat :=
  if inward = true then s.targetCyl d x.2 - arm else arm - s.targetCyl d x.2

theorem State.nearest_eq (s : State) (d : DriveId) (arm : Nat) (inward : Bool) (es : List (Port × Order)) :
    s.nearest d arm inward es = es.foldl (pickNear (s.ahead d arm inward) (s.dist d arm inward)) none := by
  unfold State.nearest
  congr 1
  funext best e
  cases best <;> rfl

/-- R103 step 2: an entry that does not lie in one direction lies in the other. -/
theorem State.ahead_other {arm : Nat} {inward : Bool} {x : Port × Order} (h : ¬s.ahead d arm inward x) : s.ahead d arm (!inward) x := by
  cases inward <;> simp only [State.ahead, Bool.not_false, Bool.not_true, if_true, Bool.false_eq_true, if_false] at h ⊢ <;> omega

/-- What the sweep takes among entries none of which has waited out its turn: the nearest in a direction, which is the sweep's own
exactly when an entry lies that way. -/
def State.SweepTakes (s : State) (d : DriveId) (arm : Nat) (es : List (Port × Order)) (c : Choice) : Prop :=
  ∃ front back, es = front ++ c.entry :: back ∧ c.passes = true ∧
    (c.sweepIn = (s.drive d).sweepIn ↔ ∃ e ∈ es, s.ahead d arm (s.drive d).sweepIn e) ∧ s.ahead d arm c.sweepIn c.entry ∧
    (∀ e ∈ front, s.ahead d arm c.sweepIn e → s.dist d arm c.sweepIn c.entry < s.dist d arm c.sweepIn e) ∧
    ∀ e ∈ back, s.ahead d arm c.sweepIn e → s.dist d arm c.sweepIn c.entry ≤ s.dist d arm c.sweepIn e

theorem State.chooseEntry_sweep {es : List (Port × Order)} (hs : (s.drive d).profile.sweep = true) (hne : es ≠ [])
    (hp : ∀ e ∈ es, e.2.passOver < 8) : ∃ c, s.chooseEntry d es = some c ∧ s.SweepTakes d (s.sweepArm d) es c := by
  have hf : es.find? (fun e => 8 ≤ e.2.passOver) = none :=
    List.find?_eq_none.mpr fun e he => by simpa using hp e he
  unfold State.chooseEntry
  dsimp only
  rw [hs, hf]
  simp only [Bool.not_true, Bool.false_eq_true, if_false]
  cases hn : s.nearest d (s.sweepArm d) (s.drive d).sweepIn es with
  | some e =>
    rw [State.nearest_eq] at hn
    obtain ⟨front, back, he, hp, h1, h2⟩ := foldl_pickNear_some _ _ hn
    exact ⟨_, rfl, front, back, he, rfl, ⟨fun _ => ⟨e, by rw [he]; simp, hp⟩, fun _ => rfl⟩, hp, h1, h2⟩
  | none =>
    rw [State.nearest_eq, foldl_pickNear_none] at hn
    cases hm : s.nearest d (s.sweepArm d) (!(s.drive d).sweepIn) es with
    | none =>
      rw [State.nearest_eq, foldl_pickNear_none] at hm
      obtain ⟨e, he⟩ := List.exists_mem_of_ne_nil es hne
      exact absurd (State.ahead_other (hn e he)) (hm e he)
    | some e =>
      rw [State.nearest_eq] at hm
      obtain ⟨front, back, he, hp, h1, h2⟩ := foldl_pickNear_some _ _ hm
      refine ⟨_, rfl, front, back, he, rfl, ⟨fun h => ?_, fun ⟨e', he', ha⟩ => absurd ha (hn e' he')⟩, hp, h1, h2⟩
      cases hb : (s.drive d).sweepIn <;> simp [hb] at h

/-- R104: the oldest entry passed over 8 times is taken first, and the direction then points to it. -/
theorem State.chooseEntry_waited {front back : List (Port × Order)} {e : Port × Order} (hs : (s.drive d).profile.sweep = true)
    (hf : ∀ f ∈ front, f.2.passOver < 8) (he : 8 ≤ e.2.passOver) : s.chooseEntry d (front ++ e :: back) = some
      { entry := e, passes := false,
        sweepIn := if s.sweepArm d < s.targetCyl d e.2 then true else if s.targetCyl d e.2 < s.sweepArm d then false
          else (s.drive d).sweepIn } := by
  have h : (front ++ e :: back).find? (fun e => 8 ≤ e.2.passOver) = some e := by
    rw [List.find?_append, List.find?_eq_none.mpr fun f h => by simpa using hf f h, List.find?_cons_of_pos (by simpa using he)]
    rfl
  unfold State.chooseEntry
  dsimp only
  rw [hs, h]
  rfl

theorem State.sweepArm_eq (s : State) (d : DriveId) :
    s.sweepArm d = if (s.drive d).chan.known = true then ((s.drive d).chan.pos + 32) / 64 else 0 := by
  unfold State.sweepArm Channel.armCyl
  split <;> rfl

theorem State.chooseEntry_nil (s : State) (d : DriveId) : s.chooseEntry d [] = none := by
  cases h : s.chooseEntry d [] with
  | none => rfl
  | some c => exact absurd (State.chooseEntry_mem h) List.not_mem_nil

theorem State.chooseEntry_arrival (h : (s.drive d).profile.sweep = false) (e : Port × Order) (rest : List (Port × Order)) :
    s.chooseEntry d (e :: rest) = some { entry := e, sweepIn := (s.drive d).sweepIn, passes := false } := by
  unfold State.chooseEntry
  dsimp only
  rw [h]
  rfl

/-! ## The entries passed over (R104) -/

/-- Each order is passed over as often as its number is in the list. -/
theorem State.slot_foldl_passOver (l : List (Port × Order)) (s : State) (p : Port) (k : Tag) :
    ((l.foldl (fun s e => s.modOrder e.2.oid fun o => { o with passOver := o.passOver + 1 }) s).port p).slots.get k =
      ((s.port p).slots.get k).map fun o => { o with passOver := o.passOver + (l.map fun f => f.2.oid).count o.oid } := by
  induction l generalizing s with
  | nil =>
    have h : (fun o : Order => { o with passOver := o.passOver + (([] : List (Port × Order)).map fun f => f.2.oid).count o.oid }) = id :=
      funext fun o => by simp
    rw [h, Option.map_id]
    rfl
  | cons e l ih =>
    rw [List.foldl_cons, ih, State.port_modOrder, PortCtl.slot_modOrder, Option.map_map]
    congr 1
    funext o
    simp only [Function.comp, List.map_cons, List.count_cons]
    by_cases h : o.oid = e.2.oid
    · simp only [h, if_true, beq_self_eq_true]
      congr 1
      omega
    · have h' : ¬(e.2.oid == o.oid) = true := by simpa using fun h2 => h h2.symm
      simp only [if_neg h, if_neg h', Nat.add_zero]

theorem State.slot_passOver {front back : List (Port × Order)} {e : Port × Order} (hf : ∀ f ∈ front, f.2.oid ≠ e.2.oid)
    (hn : (front.map fun f => f.2.oid).Nodup) (p : Port) (k : Tag) :
    ((s.passOver (front ++ e :: back) e.2.oid).port p).slots.get k = ((s.port p).slots.get k).map fun o =>
      { o with passOver := o.passOver + (if o.oid ∈ front.map fun f => f.2.oid then 1 else 0) } := by
  have ht : (front ++ e :: back).takeWhile (fun f => f.2.oid ≠ e.2.oid) = front := by
    rw [List.takeWhile_append_of_pos fun f h => by simpa using hf f h, List.takeWhile_cons_of_neg (by simp), List.append_nil]
  unfold State.passOver
  rw [ht, State.slot_foldl_passOver]
  congr 1
  funext o
  rw [hn.count]

/-! ## What the start of an operation leaves of the queue and of the orders -/

/-- The number, the state and the pass-over count of an order. -/
def Order.waitMark (o : Order) : Nat × OrderState × Nat := (o.oid, o.state, o.passOver)

/-- Every drive keeps its queue and its sweep direction, and every order its number, state and pass-over count. -/
structure LineKept (s t : State) : Prop where
  queue : ∀ d, (t.drive d).queue = (s.drive d).queue
  sweepIn : ∀ d, (t.drive d).sweepIn = (s.drive d).sweepIn
  order : ∀ p k, ((t.port p).slots.get k).map Order.waitMark = ((s.port p).slots.get k).map Order.waitMark

theorem LineKept.refl (s : State) : LineKept s s := ⟨fun _ => rfl, fun _ => rfl, fun _ _ => rfl⟩

theorem LineKept.trans (h1 : LineKept s t) (h2 : LineKept t u) : LineKept s u :=
  ⟨fun d => (h2.queue d).trans (h1.queue d), fun d => (h2.sweepIn d).trans (h1.sweepIn d), fun p k => (h2.order p k).trans (h1.order p k)⟩

theorem LineKept.modDrive (h : LineKept s t) (d : DriveId) (f : Drive → Drive) (hq : ∀ x, (f x).queue = x.queue := by intro _; rfl)
    (hs : ∀ x, (f x).sweepIn = x.sweepIn := by intro _; rfl) : LineKept s (t.modDrive d f) := by
  refine h.trans ⟨fun e => ?_, fun e => ?_, fun _ _ => rfl⟩ <;> rw [State.drive_modDrive] <;> split
  · next he => rw [hq, he]
  · rfl
  · next he => rw [hs, he]
  · rfl

theorem LineKept.modOrder (h : LineKept s t) (n : Nat) (f : Order → Order) (hf : ∀ o, (f o).waitMark = o.waitMark) :
    LineKept s (t.modOrder n f) := by
  refine h.trans ⟨fun _ => rfl, fun _ => rfl, fun p k => ?_⟩
  rw [State.port_modOrder, PortCtl.slot_modOrder, Option.map_map]
  congr 1
  funext o
  simp only [Function.comp]
  split <;> simp [hf]

theorem LineKept.endOrder (h : LineKept s t) (n : Nat) (r : Result) : LineKept s (t.endOrder n r) := by
  unfold State.endOrder
  split
  · exact (h.modOrder n _ fun o => by split <;> rfl).trans ⟨fun _ => rfl, fun _ => rfl, fun _ _ => rfl⟩
  · exact h

theorem LineKept.closeVerify (h : LineKept s t) (n : Nat) : LineKept s (t.closeVerify n) :=
  (h.modOrder n (fun o => { o with body := t.verify.wholeTracks.body, done := t.verify.verified }) fun _ => rfl).trans
    ⟨fun _ => rfl, fun _ => rfl, fun _ _ => rfl⟩

theorem LineKept.clearOp (h : LineKept s t) (d : DriveId) : LineKept s (t.clearOp d) := by
  unfold State.clearOp
  refine LineKept.modDrive ?_ d _
  split
  · split
    · exact h.closeVerify _
    · exact h
  · exact h

theorem LineKept.reachTransfer (h : LineKept s t) (d : DriveId) : LineKept s (t.reachTransfer d) := by
  unfold State.reachTransfer
  split
  · exact h
  · next op _ =>
    have h1 : LineKept s (t.modDrive d fun x => { x with headSel := op.phys.head, cur := some { op with stage := .transfer } }) :=
      h.modDrive d _
    dsimp only
    split
    · exact (h1.clearOp d).endOrder _ _
    · exact h1

theorem LineKept.recalFor (h : LineKept s t) (d : DriveId) (n : Option Nat) : LineKept s (t.recalFor d n) := by
  unfold State.recalFor
  split
  · exact h.modDrive d _
  · split
    · exact h
    · exact (h.modDrive d _).modDrive d _

theorem LineKept.beginSeek (h : LineKept s t) (d : DriveId) (n : Nat) (g : Goal) : LineKept s (t.beginSeek d n g) := by
  unfold State.beginSeek State.tallyDrive State.modOp
  refine LineKept.modDrive (LineKept.modDrive (LineKept.modDrive h d _ ?_ ?_) d _ ?_ ?_) d _ ?_ ?_ <;> exact fun _ => rfl

theorem LineKept.seekTo (h : LineKept s t) (d : DriveId) (n : Nat) : LineKept s (t.seekTo d n) := by
  unfold State.seekTo
  dsimp only
  split
  · exact h.modDrive d _
  · split
    · split
      · exact LineKept.reachTransfer (h.modDrive d _) d
      · exact h.beginSeek d n _
    · exact h.recalFor d _

theorem LineKept.startHost (h : LineKept s t) (d : DriveId) (p : Port) (o : Order) : LineKept s (t.startHost d p o) :=
  LineKept.seekTo (h.modDrive d _) d _

theorem LineKept.startSurface (h : LineKept s t) (d : DriveId) (p : Port) (o : Order) : LineKept s (t.startSurface d p o) := by
  unfold State.startSurface
  split
  · exact h
  · next g _ =>
    refine LineKept.seekTo (LineKept.modDrive ?_ d _) d _
    exact h.trans ⟨fun _ => rfl, fun _ => rfl, fun _ _ => rfl⟩

/-! ## The selection (R100) -/

/-- The numbers of the eligible entries are taken from the queue in its order. -/
theorem State.eligible_numbers (s : State) (d : DriveId) :
    ((s.eligibleEntries d).map fun f => f.2.oid).Sublist (s.drive d).queue := by
  unfold State.eligibleEntries
  generalize (s.drive d).queue = q
  induction q with
  | nil => exact .slnil
  | cons n q ih =>
    rw [List.filterMap_cons]
    split
    · exact ih.cons n
    · next x hx =>
      have hn : x.2.oid = n := by
        split at hx
        · next y hy =>
          split at hx
          · cases hx; exact State.findOrder_oid hy
          · cases hx
        · cases hx
      rw [List.map_cons, hn]
      exact ih.cons_cons n

/-- The state of a selection before its operation starts: the older entries passed over, the entry out of the queue and its order
ACTIVE. -/
def State.taken (s : State) (d : DriveId) (es : List (Port × Order)) (c : Choice) : State :=
  ((if c.passes then s.passOver es c.entry.2.oid else s).modDrive d fun x =>
    { x with queue := x.queue.filter fun n => n ≠ c.entry.2.oid, sweepIn := c.sweepIn }).modOrder c.entry.2.oid fun o =>
      { o with state := .active }

theorem State.takeEntry_lineKept (s : State) (d : DriveId) (es : List (Port × Order)) (c : Choice) :
    LineKept (s.taken d es c) (s.takeEntry d es c) := by
  have h := LineKept.refl (s.taken d es c)
  have he : s.takeEntry d es c = if c.entry.2.kind = .surfaceVerify then (s.taken d es c).startSurface d c.entry.1 c.entry.2
      else (s.taken d es c).startHost d c.entry.1 c.entry.2 := rfl
  rw [he]
  split
  · exact h.startSurface _ _ _
  · exact h.startHost _ _ _

theorem State.drive_taken (s : State) (d : DriveId) (es : List (Port × Order)) (c : Choice) :
    ((s.taken d es c).drive d).queue = (s.drive d).queue.filter (fun n => n ≠ c.entry.2.oid) ∧
      ((s.taken d es c).drive d).sweepIn = c.sweepIn := by
  unfold State.taken
  rw [State.drive_modOrder, State.drive_modDrive_self]
  refine ⟨congrArg (fun x : Drive => x.queue.filter fun n => n ≠ c.entry.2.oid) ?_, rfl⟩
  split
  · exact State.drive_passOver _ _ _ _
  · rfl

theorem State.slot_taken {front back : List (Port × Order)} {c : Choice} (hf : ∀ f ∈ front, f.2.oid ≠ c.entry.2.oid)
    (hn : (front.map fun f => f.2.oid).Nodup) {p : Port} {k : Tag} {o : Order} (ho : (s.port p).slots.get k = some o) :
    ∃ o', ((s.taken d (front ++ c.entry :: back) c).port p).slots.get k = some o' ∧ o'.oid = o.oid ∧
      (o.oid = c.entry.2.oid → o'.state = .active) ∧
      o'.passOver = o.passOver + (if c.passes = true ∧ o.oid ∈ front.map (fun f => f.2.oid) then 1 else 0) := by
  have h1 : (((if c.passes then s.passOver (front ++ c.entry :: back) c.entry.2.oid else s)).port p).slots.get k =
      some { o with passOver := o.passOver + (if c.passes = true ∧ o.oid ∈ front.map (fun f => f.2.oid) then 1 else 0) } := by
    by_cases hc : c.passes = true
    · simp only [hc, if_true, State.slot_passOver hf hn, ho, Option.map_some, true_and]
    · simp only [hc, if_false, ho, false_and, Nat.add_zero, Bool.false_eq_true]
  unfold State.taken
  rw [State.port_modOrder, PortCtl.slot_modOrder]
  change ∃ o', Option.map _ (((if c.passes then s.passOver (front ++ c.entry :: back) c.entry.2.oid else s).port p).slots.get k) = _ ∧ _
  rw [h1, Option.map_some]
  by_cases hc : o.oid = c.entry.2.oid
  · exact ⟨_, congrArg some (if_pos hc), rfl, fun _ => rfl, rfl⟩
  · exact ⟨_, congrArg some (if_neg hc), rfl, fun h => absurd h hc, rfl⟩

theorem State.select_entry (h : s.select d = some t) (hi : (s.drive d).nextInternal = none) :
    ∃ c, s.chooseEntry d (s.eligibleEntries d) = some c ∧ t = s.takeEntry d (s.eligibleEntries d) c := by
  unfold State.select at h
  rw [hi] at h
  split at h
  · cases h
  · obtain ⟨c, hc, rfl⟩ := Option.map_eq_some_iff.mp h
    exact ⟨c, hc, rfl⟩

theorem State.select_idle (h : s.select d = some t) : (s.drive d).cur = none := by
  unfold State.select at h
  split at h
  · cases h
  · next hc => simpa using hc

theorem LineKept.slot (h : LineKept s t) {p : Port} {k : Tag} {o : Order} (ho : (s.port p).slots.get k = some o) :
    ∃ o', (t.port p).slots.get k = some o' ∧ o'.oid = o.oid ∧ o'.state = o.state ∧ o'.passOver = o.passOver := by
  have h1 := h.order p k
  rw [ho, Option.map_some] at h1
  obtain ⟨o', ho', he⟩ := Option.map_eq_some_iff.mp h1
  simp only [Order.waitMark, Prod.mk.injEq] at he
  exact ⟨o', ho', he⟩

/-- Settles O38: the sweep is a search for the least distance, and a selection is the choice followed by a start that leaves the
queue and the pass-over counts. -/
theorem queueDisciplines : Obligations.QueueDisciplines := by
  unfold Obligations.QueueDisciplines
  refine ⟨fun s d es => ?_, fun s front back e hf hn p k o ho => ?_, fun s t d h => ⟨State.select_idle h, fun hi => ?_⟩⟩
  · have harm := s.sweepArm_eq d
    refine ⟨fun he => by rw [he]; exact s.chooseEntry_nil d, fun hs e rest he => by rw [he]; exact State.chooseEntry_arrival hs e rest,
      fun hs => ⟨fun front e back he hf hp => ?_, fun hne hp => ?_⟩⟩
    · rw [he, State.chooseEntry_waited hs hf hp, harm]
      rfl
    · obtain ⟨c, hc, front, back, h⟩ := State.chooseEntry_sweep hs hne hp
      rw [harm] at h
      exact ⟨c, front, back, hc, h⟩
  · rw [State.slot_passOver hf hn, ho]
    rfl
  · obtain ⟨c, hc, rfl⟩ := State.select_entry h hi
    have hk := s.takeEntry_lineKept d (s.eligibleEntries d) c
    obtain ⟨hq, hs⟩ := s.drive_taken d (s.eligibleEntries d) c
    refine ⟨c, hc, (hk.sweepIn d).trans hs, (hk.queue d).trans hq, fun hnd front back he p k o ho => ?_⟩
    have hnd' := hnd.sublist (s.eligible_numbers d)
    rw [he, List.map_append, List.map_cons] at hnd'
    have hf : ∀ f ∈ front, f.2.oid ≠ c.entry.2.oid := fun f hf =>
      (List.nodup_append.mp hnd').2.2 _ (List.mem_map_of_mem hf) _ (List.mem_cons_self ..)
    rw [he] at hk ⊢
    obtain ⟨o1, h1, hoid, hst, hpo⟩ := State.slot_taken (d := d) (back := back) hf (List.nodup_append.mp hnd').1 ho
    obtain ⟨o2, h2, hoid2, hst2, hpo2⟩ := hk.slot h1
    exact ⟨o2, h2, hoid2.trans hoid, fun hc => hst2.trans (hst hc), hpo2.trans hpo⟩

end Sys2Proof.Machine
end

section
/-! Sitting of the family 02 (arm positioning), part 3: an order that is answered at its acceptance, and SENSE. -/

namespace Sys2Proof.Machine

-- One declaration after the other: in parallel the one compile of the whole text runs out of threads.
set_option Elab.async false

variable {s t u : State} {d e : DriveId} {p : Port} {g : Tag} {o : Order}

/-! ## An order answered at its acceptance -/

/-- An order with its result fixed (R99, R116). -/
def Order.ended (r : Result) (o : Order) : Order :=
  { o with result := some r, failing := if r.hasFailing then o.failing else none }

/-- R99: an order takes what the answer gives it, and its result is fixed. -/
theorem State.slot_answer {n : Nat} (hn : s.numberLaw) (ho : (s.port p).slots.get g = some o) (hoid : o.oid = n) (hl : o.live = true)
    (f : Order → Order) (hf : ∀ x, (f x).oid = x.oid ∧ (f x).live = x.live) (r : Result) :
    (((s.modOrder n f).endOrder n r).port p).slots.get g = some ((f o).ended r) := by
  subst hoid
  have hn' : (s.modOrder o.oid f).numberLaw := by
    refine numberLaw_of hn le_rfl fun q k x hx => ?_
    rw [State.port_modOrder, PortCtl.slot_modOrder] at hx
    obtain ⟨y, hy, rfl⟩ := Option.map_eq_some_iff.mp hx
    refine ⟨y, hy, ?_⟩
    split <;> simp [hf]
  have hs : ((s.modOrder o.oid f).port p).slots.get g = some (f o) := by
    rw [State.port_modOrder, PortCtl.slot_modOrder, ho]
    simp
  have hlive : (s.modOrder o.oid f).orderLive o.oid = true := by
    have h := State.orderLive_of hn' hs
    rw [(hf o).1, (hf o).2, hl] at h
    exact h
  rw [State.port_endOrder_slot _ _ _ _ _ hlive, hs, Option.map_some, if_pos (hf o).1, if_pos ((hf o).2.trans hl)]
  rfl

/-- What the answer left in the slot stands after the immediate actions, the result among it. -/
theorem settle_answered (n : Nat) {r : Result} (ho : (s.port p).slots.get g = some o) (hr : o.result = some r) :
    ∃ o', ((settle n s).port p).slots.get g = some o' ∧ o'.base = o.base ∧ o'.result = some r := by
  obtain ⟨o', ho', hb⟩ := settle_slot_some (n := n) ho
  obtain ⟨x, hx, -, hxr⟩ := Ended.settle ⟨o, ho, rfl, hr⟩ n
  rw [ho'] at hx
  cases hx
  exact ⟨o', ho', hb, hxr⟩

theorem newOrder_live (n : Nat) (k : OrderKind) (f : OrderFrame) (d : Option DriveId) : (newOrder n g k f d).live = true := by
  unfold newOrder Order.live
  dsimp only
  split <;> rfl

/-! ## SENSE (R155) -/

theorem State.senseBody_accept (s : State) (k : OrderKind) (f : OrderFrame) (tag : Tag) (x : Option DriveId) (n : Fin 8) (d : DriveId) :
    (s.accept k f tag x).senseBody f.port n d = s.senseBody f.port n d := by
  unfold State.senseBody
  rw [State.port_accept_self]
  rfl

/-- R155: the fields of the body, one by one. -/
structure SenseBody (s : State) (p : Port) (n : Fin 8) (x : Drive) (b : List Byte) : Prop where
  length : b.length = 11
  state : b[0]? = some x.state.code
  known : x.chan.known = true → halfAt b 1 = (x.chan.pos + 32) / 64 % 65536
  unknown : x.chan.known = false → halfAt b 1 = 0xFFFF
  phase : b[3]? = some x.chan.phase.code
  held : ∀ q, x.holder = some q → byteAt b 4 = q.val
  free : x.holder = none → byteAt b 4 = 0xFF
  mapState : b[5]? = some x.mapState.code
  queued : byteAt b 6 =
    (x.queue.length + [x.pendRecal, x.pendLoad, x.pendWrite, x.pendReassign].count true) % 256
  notices : b[7]? = some ((s.port p).notices.get n)
  typed : ∀ g, x.geom = some g → byteAt b 8 = g.type % 256
  plugged : x.geom = none → byteAt b 8 = x.plugType % 256
  identity : byteAt b 9 = s.plugs.identity.val
  startCause : b[10]? = some s.startCause.code

theorem Bool.toNat_sum_count (a b c d : Bool) : a.toNat + b.toNat + c.toNat + d.toNat = [a, b, c, d].count true := by
  cases a <;> cases b <;> cases c <;> cases d <;> rfl

/-- 9.10: the two bytes of the arm cylinder, FFFFH while it is not known. -/
def cylBytes (c : Option Nat) : Byte × Byte := (c.map fun n => (BitVec.ofNat 8 (n / 256), BitVec.ofNat 8 n)).getD (0xFF#8, 0xFF#8)

/-- 9.10: the byte of the holder, FFH with none. -/
def holderByte (q : Option Port) : Byte := (q.map fun q => byteOf q.val).getD 0xFF#8

theorem State.senseBody_eq (s : State) (p : Port) (n : Fin 8) (d : DriveId) :
    s.senseBody p n d = [(s.drive d).state.code, (cylBytes (s.drive d).chan.armCyl).1, (cylBytes (s.drive d).chan.armCyl).2,
      (s.drive d).chan.phase.code, holderByte (s.drive d).holder, (s.drive d).mapState.code,
      byteOf ((s.drive d).queue.length + (s.drive d).pendRecal.toNat + (s.drive d).pendLoad.toNat + (s.drive d).pendWrite.toNat +
        (s.drive d).pendReassign.toNat), (s.port p).notices.get n,
      byteOf (((s.drive d).geom.map Geometry.type).getD (s.drive d).plugType), byteOf s.plugs.identity.val, s.startCause.code] := by
  unfold State.senseBody
  dsimp only
  cases (s.drive d).chan.armCyl <;> cases (s.drive d).holder <;> rfl

theorem cylBytes_armCyl (ch : Channel) :
    (ch.known = true → (cylBytes ch.armCyl).1.toNat * 256 + (cylBytes ch.armCyl).2.toNat = (ch.pos + 32) / 64 % 65536) ∧
      (ch.known = false → (cylBytes ch.armCyl).1.toNat * 256 + (cylBytes ch.armCyl).2.toNat = 0xFFFF) := by
  unfold Channel.armCyl
  refine ⟨fun h => ?_, fun h => ?_⟩ <;> rw [h]
  · simp only [if_true, cylBytes, Option.map_some, Option.getD_some, BitVec.toNat_ofNat]
    generalize (ch.pos + 32) / 64 = c
    have h1 := Nat.mod_mul (x := c) (a := 256) (b := 256)
    rw [show (65536 : Nat) = 256 * 256 from rfl, h1]
    change c / 256 % 256 * 256 + c % 256 = _
    rw [Nat.mul_comm, Nat.add_comm]
  · simp [cylBytes]

theorem byteOf_toNat {v : Nat} (h : v < 256) : (byteOf v).toNat = v := by
  simp only [byteOf, BitVec.toNat_ofNat]
  exact Nat.mod_eq_of_lt h

theorem State.senseBody_fields (s : State) (p : Port) (n : Fin 8) (d : DriveId) :
    SenseBody s p n (s.drive d) (s.senseBody p n d) := by
  rw [State.senseBody_eq]
  refine ⟨rfl, rfl, (cylBytes_armCyl _).1, (cylBytes_armCyl _).2, rfl, fun q hq => ?_, fun hq => ?_, rfl, ?_, rfl, fun g hg => ?_,
    fun hg => ?_, ?_, rfl⟩
  · rw [hq]; exact byteOf_toNat (by have := q.isLt; omega)
  · rw [hq]; rfl
  · rw [← Bool.toNat_sum_count, ← Nat.add_assoc, ← Nat.add_assoc, ← Nat.add_assoc]
    exact BitVec.toNat_ofNat ..
  · rw [hg]; exact BitVec.toNat_ofNat ..
  · rw [hg]; exact BitVec.toNat_ofNat ..
  · exact byteOf_toNat (by have := s.plugs.identity.isLt; omega)

/-- Settles O48: the body is taken from the state at acceptance, and neither it nor the drives change before the answer. -/
theorem senseTakesDrive : Obligations.SenseTakesDrive := by
  unfold Obligations.SenseTakesDrive
  intro f tag n d s h hnum hn hd
  have hacc := State.numberLaw_accept (k := .sense) (some d) h.free hnum
  have hslot := State.slot_answer (n := s.nextOid) hacc (State.slot_accept s .sense f tag (some d)) rfl (newOrder_live _ _ _ _)
    (fun o => { o with body := s.senseBody f.port n d }) (fun _ => ⟨rfl, rfl⟩) .complete
  have hgo : senseDrive f s.nextOid d (s.accept .sense f tag (some d)) =
      ((s.accept .sense f tag (some d)).modOrder s.nextOid fun o => { o with body := s.senseBody f.port n d }).endOrder s.nextOid
        .complete := by
    unfold senseDrive
    rw [hn, Option.getD_some, State.senseBody_accept]
  have hw : Work (s.accept .sense f tag (some d)) (settle settleFuel (senseDrive f s.nextOid d (s.accept .sense f tag (some d)))) :=
    (senseDrive_work f _ d _).settle _
  obtain ⟨o, ho, hb, hr⟩ := settle_answered settleFuel hslot rfl
  rw [← hgo] at ho
  obtain ⟨o', ht⟩ := hw.taken
  have hoo : o' = o := Option.some.inj (ht.slot.symm.trans ho)
  subst hoo
  have hbody : o'.body = s.senseBody f.port n d := (congrArg Order.body hb :)
  obtain ⟨b1, b2, b3, b4, b5, b6, b7, b8, b9, b10, b11, b12, b13, b14⟩ := hbody ▸ s.senseBody_fields f.port n d
  refine ⟨_, o', h.run hd rfl (senseDrive f), ht, hr, b1, b2, b3, b4, b5, b6, b7, b8, b9, b10, b11, b12, b13, b14,
    (s.portKept_accept .sense f tag (some d)).trans (hw.portKept _), hw.laid, (s.untouched_accept .sense f tag (some d)).work hw,
    BusyWhole.settle _ fun e _ _ => congrArg Drive.kept ?_⟩
  unfold senseDrive
  rw [State.drive_endOrder]
  rfl

end Sys2Proof.Machine
end

section
/-! Sitting of the family 02 (arm positioning), part 4: the arithmetic of a motion, and its start. -/

namespace Sys2Proof.Machine

-- One declaration after the other: in parallel the one compile of the whole text runs out of threads.
set_option Elab.async false

variable {s t u : State} {d e : DriveId} {op : Op} {g : Geometry}

/-! ## The quantities of an update (R26, R30) -/

/-- R26: the settle count is the least number of updates that make up the time. -/
theorem Profile.settleu_eq_ceil (p : Profile) {m : Nat} (hm : 0 < m) : (p.settleu m : ℤ) = ⌈(p.settle : ℚ) / (m : ℚ)⌉ := by
  have hm' : (0 : ℚ) < m := by exact_mod_cast hm
  have hle : p.settle ≤ m * p.settleu m := by
    unfold Profile.settleu
    have h1 := Nat.div_add_mod (p.settle + (m - 1)) m
    have h2 := Nat.mod_lt (p.settle + (m - 1)) hm
    omega
  have hlt : m * p.settleu m < p.settle + m := by
    have h := Nat.mul_div_le (p.settle + (m - 1)) m
    unfold Profile.settleu
    omega
  refine (Int.ceil_eq_iff.mpr ⟨?_, ?_⟩).symm
  · rw [lt_div_iff₀ hm', sub_mul, one_mul, sub_lt_iff_lt_add, mul_comm]
    exact_mod_cast hlt
  · rw [div_le_iff₀ hm', mul_comm]
    exact_mod_cast hle

/-- R30: the stopping distance is the whole part of V(V + a_u) / 2a_u. -/
theorem stopping_eq_floor (au v : Nat) : (stopping au v : ℤ) = ⌊(v : ℚ) * (v + au) / (2 * au)⌋ := by
  have h := Rat.floor_intCast_div_natCast ((v * (v + au) : Nat) : ℤ) (2 * au)
  push_cast at h
  rw [h]
  unfold stopping
  push_cast
  rfl

/-- The velocities of a stop from n a_u, down to a_u, add up to a_u n(n + 1) / 2. -/
theorem sum_stops (au n : Nat) : 2 * ((List.range n).map fun i => n * au - i * au).sum = n * (n + 1) * au := by
  induction n with
  | zero => simp
  | succ n ih =>
    have hstep : ((List.range (n + 1)).map fun i => (n + 1) * au - i * au).sum =
        (n + 1) * au + ((List.range n).map fun i => n * au - i * au).sum := by
      rw [List.range_succ_eq_map, List.map_cons, List.sum_cons, List.map_map, Nat.zero_mul, Nat.sub_zero]
      congr 2
      refine List.map_congr_left fun i _ => ?_
      simp only [Function.comp, Nat.succ_eq_add_one, Nat.add_mul, Nat.one_mul]
      omega
    rw [hstep, Nat.mul_add, ih]
    ring

theorem stopping_eq_sum (n : Nat) {au : Nat} (h : 0 < au) :
    stopping au (n * au) = ((List.range n).map fun i => n * au - i * au).sum := by
  have hs := sum_stops au n
  unfold stopping
  refine Nat.div_eq_of_eq_mul_left (by omega) ?_
  calc n * au * (n * au + au) = n * (n + 1) * au * au := by ring
    _ = 2 * ((List.range n).map fun i => n * au - i * au).sum * au := by rw [hs]
    _ = _ := by ring

theorem stopping_zero (au : Nat) : stopping au 0 = 0 := by simp [stopping]

/-- R31: in ACCEL and CRUISE the stopping distance decides on the braking. -/
theorem nextVelocity_decel_iff (au vm cu v r : Nat) {phase : Phase} (h : phase = .accel ∨ phase = .cruise) :
    (nextVelocity au vm cu phase v r).1 = .decel ↔ r ≤ stopping au v := by
  rcases h with rfl | rfl <;> unfold nextVelocity <;> dsimp only <;> split
  · next h => exact ⟨fun _ => h, fun _ => rfl⟩
  · next h => exact ⟨fun h' => absurd h' (by dsimp only; split <;> decide), fun h' => absurd h' h⟩
  · next h => exact ⟨fun _ => h, fun _ => rfl⟩
  · next h => exact ⟨fun h' => (nomatch h'), fun h' => absurd h' h⟩

/-- R38, R40: the limit of a recalibration is the steps of c_u across the drive, and 64 more. -/
theorem recalBound_le_iff (g : Geometry) {cu : Nat} (h : 0 < cu) (k : Nat) : g.maxPos ≤ k * cu ↔ recalBound g cu ≤ k + 64 := by
  unfold recalBound
  rw [Nat.add_le_add_iff_right, Nat.div_le_iff_le_mul_add_pred h, Nat.mul_comm]
  omega

/-! ## The start of a motion (R29, R38, R105) -/

/-- A phase is at rest or in flight. -/
theorem Phase.inFlight_eq_false (p : Phase) : p.inFlight = false ↔ p = .idle ∨ p = .stopped := by
  cases p <;> decide

@[simp] theorem State.drive_modChan (s : State) (d : DriveId) (f : Channel → Channel) :
    (s.modChan d f).drive d = { s.drive d with chan := f (s.drive d).chan } := State.drive_modDrive_self s d _

/-- R105: a request made during a motion waits. -/
theorem State.drive_seekTo_flight (hc : (s.drive d).cur = some op) (hf : (s.drive d).chan.phase.inFlight = true) (n : Nat) :
    (s.seekTo d n).drive d = { s.drive d with cur := some { op with stage := .waiting (.seek n .transfer) } } := by
  unfold State.seekTo
  dsimp only
  rw [if_pos hf, State.drive_modOp, hc]
  rfl

/-- R29, R45: the start of a seek. -/
theorem State.drive_beginSeek (hg : (s.drive d).geom = some g) (hc : (s.drive d).cur = some op) {n : Nat} (hn : n ≤ g.maxPos) (q : Goal) :
    (s.beginSeek d n q).drive d =
      { s.drive d with
        chan := (s.drive d).chan.startSeek n, tally := (s.drive d).tally.raiseSeeks, cur := some { op with stage := .moving (.seek n q) } } := by
  have ht : (s.drive d).targetIn n = n := by simp [Drive.targetIn, hg, hn]
  unfold State.beginSeek
  rw [State.drive_modOp, State.drive_tallyDrive, State.drive_modDrive_self, ht]
  simp [hc]

theorem State.seekTo_idle (hp : (s.drive d).chan.phase = .idle) (hk : (s.drive d).chan.known = true) (n : Nat) :
    s.seekTo d n = if (s.drive d).chan.pos = n then (s.modChan d fun ch => { ch with target := n }).reachTransfer d
      else s.beginSeek d n .transfer := by
  have hon : (s.drive d).chan.onCylinder = true := by simp [Channel.onCylinder, hp, hk]
  unfold State.seekTo
  dsimp only
  rw [if_neg (by rw [hp]; decide), if_pos hon]

theorem State.seekTo_unknown (h : (s.drive d).chan.phase = .stopped ∨ ((s.drive d).chan.phase = .idle ∧ (s.drive d).chan.known = false))
    (n : Nat) : s.seekTo d n = s.recalFor d (some n) := by
  have hf : ¬(s.drive d).chan.phase.inFlight = true := by
    rcases h with h | h <;> [rw [h]; rw [h.1]] <;> decide
  have hon : ¬(s.drive d).chan.onCylinder = true := by
    rcases h with h | h <;> simp [Channel.onCylinder, h]
  unfold State.seekTo
  dsimp only
  rw [if_neg hf, if_neg hon]

/-- R38: the start of a recalibration. -/
theorem State.drive_recalFor (hg : (s.drive d).geom = some g) (hc : (s.drive d).cur = some op)
    (hf : (s.drive d).chan.phase.inFlight = false) (n : Option Nat) : (s.recalFor d n).drive d =
      { s.drive d with chan := (s.drive d).chan.startRecal s.m g, cur := some { op with stage := .moving (.recal n) } } := by
  unfold State.recalFor
  rw [if_neg (by rw [hf]; decide), hg]
  dsimp only
  rw [State.drive_modOp, State.drive_modChan]
  simp [hc]

theorem State.drive_recalFor_flight (hc : (s.drive d).cur = some op) (hf : (s.drive d).chan.phase.inFlight = true) (n : Option Nat) :
    (s.recalFor d n).drive d = { s.drive d with cur := some { op with stage := .waiting (.recal n) } } := by
  unfold State.recalFor
  rw [if_pos hf, State.drive_modOp, hc]
  rfl

/-- Settles O11: the arithmetic is that of the floor and the ceiling, and each request is its case of `seekTo` or `recalFor`. -/
theorem motionArithmetic : Obligations.MotionArithmetic := by
  unfold Obligations.MotionArithmetic
  refine ⟨fun mode8 p => ?_, fun au v _ => stopping_eq_floor au v, fun au n h => stopping_eq_sum n h, stopping_zero,
    fun m ch h => nextVelocity_decel_iff _ _ _ _ _ h, fun s d op g hg hc => ⟨fun target ht => ?_, fun next => ⟨fun hf => ?_, fun hf => ?_⟩⟩⟩
  · have hm : multiplier mode8 = if mode8 then 2 else 1 := rfl
    refine ⟨by rw [hm]; cases mode8 <;> simp [Profile.au], by rw [hm]; rfl, by rw [hm]; rfl, ?_⟩
    rw [hm]
    exact p.settleu_eq_ceil (by cases mode8 <;> decide)
  · refine ⟨fun hp hk hne => ?_, fun hp hk he => ?_, fun h => State.seekTo_unknown h target, fun hf => ?_⟩
    · rw [State.seekTo_idle hp hk, if_neg (Ne.symm hne), State.drive_beginSeek hg hc ht]
      exact ⟨rfl, rfl, rfl⟩
    · rw [State.seekTo_idle hp hk, if_pos he.symm]
      obtain ⟨h1, -, -, h4⟩ := (s.modChan d fun ch => { ch with target := target }).drive_reachTransfer d
      rw [State.drive_modChan] at h1 h4
      refine ⟨by rw [h1], by rw [h4], fun hk => ?_⟩
      rw [State.reachTransfer_eq (op := op) (by simpa using hc) hk, State.drive_modDrive_self]
    · rw [State.drive_seekTo_flight hc hf]
      exact ⟨rfl, rfl⟩
  · rw [State.drive_recalFor_flight hc hf]
    exact ⟨rfl, rfl⟩
  · rw [State.drive_recalFor hg hc hf]
    exact ⟨rfl, _, rfl, fun h k => recalBound_le_iff g h k⟩

end Sys2Proof.Machine
end

section
/-! Sitting of the family 02 (arm positioning), part 5: an update of a channel, phase by phase, and its on-cylinder report. -/

namespace Sys2Proof.Machine

-- One declaration after the other: in parallel the one compile of the whole text runs out of threads.
set_option Elab.async false

variable {s t u : State} {d e : DriveId} {op : Op} {g : Geometry}

/-! ## The tallies the immediate actions leave -/

/-- R169: the tallies of a drive without those that a start of work, an attempt for a sector or a failed reassignment raises. -/
def DriveTallies.steady (x : DriveTallies) : DriveTallies := { x with seeks := 0, ringMisses := 0, slotMisses := 0, reassignFailures := 0 }

/-- Every drive's steady tallies are kept. -/
def Steady (s t : State) : Prop := ∀ d, (t.drive d).tally.steady = (s.drive d).tally.steady

theorem Steady.refl (s : State) : Steady s s := fun _ => rfl

theorem Steady.trans (h1 : Steady s t) (h2 : Steady t u) : Steady s u := fun d => (h2 d).trans (h1 d)

theorem Steady.rest (h : Steady s t) (hd : u.drives = t.drives := by rfl) : Steady s u := fun d => by
  rw [State.drive_eq_of_drives hd]; exact h d

theorem Steady.modDrive (h : Steady s t) (d : DriveId) (f : Drive → Drive) (hf : ∀ x, (f x).tally.steady = x.tally.steady := by intro _; rfl) :
    Steady s (t.modDrive d f) := fun e => by
  rw [State.drive_modDrive]
  split
  · exact (hf _).trans (h e)
  · exact h e

theorem Steady.foldl {α : Type} (h : Steady s t) (f : State → α → State) (hf : ∀ v i, Steady s v → Steady s (f v i)) (l : List α) :
    Steady s (l.foldl f t) := by
  induction l generalizing t with
  | nil => exact h
  | cons i l ih => exact ih (hf _ _ h)

theorem Steady.setNotice (h : Steady s t) (d : DriveId) (k : Byte) : Steady s (t.setNotice d k) := h.rest

theorem Steady.endOrders (h : Steady s t) (d : DriveId) (q : Order → Bool) (r : Result) : Steady s (t.endOrders d q r) :=
  h.foldl _ (fun _ _ hu => hu.rest (State.drives_endOrder _ _ _)) _

theorem Steady.clearOp (h : Steady s t) (d : DriveId) : Steady s (t.clearOp d) := fun e => by
  rw [State.drive_clearOp]
  split <;> exact h e

theorem Steady.reachTransfer (h : Steady s t) (d : DriveId) : Steady s (t.reachTransfer d) := by
  unfold State.reachTransfer
  split
  · exact h
  · next op _ =>
    have h1 : Steady s (t.modDrive d fun x => { x with headSel := op.phys.head, cur := some { op with stage := .transfer } }) :=
      h.modDrive d _
    dsimp only
    split
    · exact (h1.clearOp d).rest (State.drives_endOrder _ _ _)
    · exact h1

theorem Steady.recalFor (h : Steady s t) (d : DriveId) (n : Option Nat) : Steady s (t.recalFor d n) := by
  unfold State.recalFor
  split
  · exact h.modDrive d _
  · split
    · exact h
    · exact (h.modDrive d _).modDrive d _

theorem Steady.beginSeek (h : Steady s t) (d : DriveId) (n : Nat) (q : Goal) : Steady s (t.beginSeek d n q) := by
  unfold State.beginSeek State.tallyDrive State.modOp
  refine Steady.modDrive (Steady.modDrive (Steady.modDrive h d _ ?_) d _ ?_) d _ ?_ <;> exact fun _ => rfl

theorem Steady.seekTo (h : Steady s t) (d : DriveId) (n : Nat) : Steady s (t.seekTo d n) := by
  unfold State.seekTo
  dsimp only
  split
  · exact h.modDrive d _
  · split
    · split
      · exact Steady.reachTransfer (h.modDrive d _) d
      · exact h.beginSeek d n _
    · exact h.recalFor d _

theorem Drive.tally_beginSparing (x : Drive) (home : Track) (pos : Nat) : (x.beginSparing home pos).tally = x.tally := by
  unfold Drive.beginSparing Drive.markTrack Drive.addEntry Drive.modEntry
  dsimp only
  split <;> split <;> first | rfl | (split <;> rfl)

theorem Steady.reassignStuck (h : Steady s t) (d : DriveId) (i : Nat) (w : WatchEntry) : Steady s (t.reassignStuck d i w) := by
  unfold State.reassignStuck State.countReassignFailure
  have h1 : Steady s ((t.setWatch i { w with state := .stuck }).tallyDrive d DriveTallies.raiseReassignFailures) :=
    Steady.modDrive h.rest d _
  exact ((h1.setNotice d _).endOrders d _ _).rest

theorem Steady.reassignBegin (h : Steady s t) (d : DriveId) (i : Nat) (w : WatchEntry) (pos : Nat) :
    Steady s (t.reassignBegin d i w pos) := by
  unfold State.reassignBegin
  have h1 : Steady s (t.modDrive d fun x => (x.beginSparing w.home pos).mapChanged) :=
    h.modDrive d _ fun x => congrArg DriveTallies.steady (x.tally_beginSparing w.home pos)
  exact Steady.seekTo (Steady.modDrive h1.rest d _) d _

theorem Steady.startReassign (h : Steady s t) (d : DriveId) : Steady s (t.startReassign d) := by
  unfold State.startReassign
  repeat' split
  all_goals first | exact h | exact h.rest | exact h.reassignStuck _ _ _ | exact h.reassignBegin _ _ _ _

theorem Steady.startInternal (h : Steady s t) (d : DriveId) (k : OpKind) : Steady s (t.startInternal d k) := by
  cases k <;> simp only [State.startInternal]
  case recalibrate => exact ((h.modDrive d _).modDrive d _).recalFor d _
  case mapLoad =>
    unfold State.startMapLoad
    split
    · exact h.modDrive d _
    · exact ((h.modDrive d _).modDrive d _).seekTo d _
  case mapWrite =>
    unfold State.startMapWrite
    split
    · exact h.modDrive d _
    · exact ((Steady.foldl (h.modDrive d _) _ (fun _ _ hu => hu.rest) _).modDrive d _).seekTo d _
  case reassign => exact (h.modDrive d _).startReassign d
  all_goals exact h

theorem Steady.takeEntry (s : State) (d : DriveId) (es : List (Port × Order)) (c : Choice) : Steady s (s.takeEntry d es c) := by
  have h0 : Steady s (if c.passes then s.passOver es c.entry.2.oid else s) := fun e => by
    split <;> [rw [State.drive_passOver]; rfl]
  have h : Steady s (s.taken d es c) := Steady.rest (Steady.modDrive h0 d fun x =>
    { x with queue := x.queue.filter fun n => n ≠ c.entry.2.oid, sweepIn := c.sweepIn })
  have he : s.takeEntry d es c = if c.entry.2.kind = .surfaceVerify then (s.taken d es c).startSurface d c.entry.1 c.entry.2
      else (s.taken d es c).startHost d c.entry.1 c.entry.2 := rfl
  rw [he]
  split
  · unfold State.startSurface
    split
    · exact h
    · exact Steady.seekTo (Steady.modDrive h.rest d _) d _
  · exact Steady.seekTo (h.modDrive d _) d _

theorem Steady.select (hs : s.select d = some t) : Steady s t := by
  unfold State.select at hs
  split at hs
  · cases hs
  · split at hs
    · cases hs; exact (Steady.refl s).startInternal _ _
    · obtain ⟨c, _, rfl⟩ := Option.map_eq_some_iff.mp hs
      exact .takeEntry s _ _ _

/-- R45, R90, R96: the immediate actions count seeks, missed sectors and failed reassignments alone. -/
theorem Steady.act (ha : s.act = some t) : Steady s t := by
  have h := Steady.refl s
  rcases State.act_cases ha with ha | ha | ha | ha | ha | ha | ha | ha | ha | ha
  · obtain ⟨_, _, _, _, rfl⟩ := State.actBoundary_eq ha; exact h.rest
  · obtain ⟨_, _, rfl⟩ := State.actOffer_eq ha; exact h.rest
  · obtain ⟨_, _, _, rfl⟩ | ⟨_, rfl⟩ := State.actSlots_eq ha <;> exact h.rest
  · obtain ⟨_, rfl⟩ := State.actFence_eq ha; exact h.rest (State.drives_endOrder _ _ _)
  · obtain ⟨_, rfl⟩ | ⟨_, _, _, rfl⟩ := State.actEnding_eq ha <;> exact h.rest
  · obtain ⟨_, _, rfl⟩ := State.actCandidate_eq ha
    obtain hd | ⟨e, hd⟩ := State.drives_takeCandidate s _
    · exact h.rest hd
    · exact (h.modDrive e fun x => { x with pendReassign := true }).rest hd
  · obtain ⟨e, hs⟩ := State.actSelect_eq ha
    exact .select hs
  · obtain ⟨_, e, rfl | ⟨op, _, ⟨_, rfl⟩ | rfl⟩⟩ := State.actGrant_eq ha
    · exact h.modDrive e _
    · exact (h.modDrive e fun x => { x with request := false }).rest (State.drives_takePlace _ _)
    · unfold State.countMiss
      split
      · exact (h.modDrive e fun x => { x with request := false }).modDrive e _
      · exact (h.modDrive e fun x => { x with request := false }).modDrive e _
      all_goals exact h.modDrive e _
  · obtain ⟨e, _, rfl⟩ := State.actSpin_eq ha
    unfold State.enterSpinningUp
    rw [State.setDriveState_toState, State.modDrive_modDrive]
    refine h.modDrive e _ ?_
    exact fun _ => rfl
  · obtain ⟨_, _, ha⟩ := State.actSend_eq ha
    cases ha <;> exact h.rest

theorem Steady.settle (h : Steady s t) (n : Nat) : Steady s (settle n t) :=
  h.trans (settle_rel (P := Steady) .refl (fun _ _ _ => .trans) (fun _ _ => .act) n t)

/-! ## One update of a channel (R31 to R34, R39) -/

/-- The phases in which an update is a seek step. -/
def Phase.steps (p : Phase) : Prop := p = .accel ∨ p = .cruise ∨ p = .decel

/-- R31: the new velocity of an update. -/
def newVelocity (au vm cu : Nat) (phase : Phase) (v r : Nat) : Nat :=
  if phase = .decel ∨ r ≤ stopping au v then max (v - au) cu else if phase = .cruise then v else min (v + au) vm

/-- R31: the new phase and velocity, by whether the channel brakes. -/
theorem nextVelocity_eq {phase : Phase} (h : phase.steps) (au vm cu v r : Nat) :
    nextVelocity au vm cu phase v r =
      (if phase = .decel ∨ r ≤ stopping au v then .decel
        else if phase = .cruise ∨ newVelocity au vm cu phase v r = vm then .cruise else .accel,
       newVelocity au vm cu phase v r) := by
  by_cases hr : r ≤ stopping au v <;> rcases h with rfl | rfl | rfl <;> simp [nextVelocity, newVelocity, hr]

/-- R32, R33: the step of an update that does not arrive, and of one that does. -/
theorem Channel.seekStep_eq (m : Nat) (ch : Channel) {pv : Phase × Nat}
    (h : nextVelocity (ch.profile.au m) (ch.profile.vmaxu m) (ch.profile.cu m) ch.phase ch.vel ch.remaining = pv) :
    ch.seekStep m =
      { ch with
        pos := ch.moved (min pv.2 ch.remaining), step := signedStep ch.inward (min pv.2 ch.remaining),
        vel := if ch.remaining ≤ pv.2 then 0 else pv.2, phase := if ch.remaining ≤ pv.2 then .settling else pv.1,
        settle := if ch.remaining ≤ pv.2 then
            (if 2 * ch.profile.au m < pv.2 then 2 * ch.profile.settleu m else ch.profile.settleu m) else ch.settle } := by
  unfold Channel.seekStep
  dsimp only
  rw [h]
  by_cases hr : ch.remaining ≤ pv.2
  · rw [if_neg (by omega), if_pos hr, if_pos hr, if_pos hr]
    simp [hardArrival]
  · rw [if_pos (by omega), if_neg hr, if_neg hr, if_neg hr]

/-- R31 to R33: a seek step field by field, with `v` the new velocity and `r` the remaining distance. -/
theorem Channel.seekStep_fields (m : Nat) {ch : Channel} (h : ch.phase.steps) {v r : Nat} (hr : ch.remaining = r)
    (hv : newVelocity (ch.profile.au m) (ch.profile.vmaxu m) (ch.profile.cu m) ch.phase ch.vel r = v) :
    (ch.seekStep m).pos = (if ch.inward then ch.pos + min v r else ch.pos - min v r) ∧
      (ch.seekStep m).step = (if ch.inward then (min v r : Int) else -(min v r : Int)) ∧
      (v < r → (ch.seekStep m).vel = v ∧ (ch.seekStep m).phase =
        (if ch.phase = .decel ∨ r ≤ stopping (ch.profile.au m) ch.vel then .decel
          else if ch.phase = .cruise ∨ v = ch.profile.vmaxu m then .cruise else .accel) ∧ (ch.seekStep m).settle = ch.settle) ∧
      (r ≤ v → (ch.seekStep m).vel = 0 ∧ (ch.seekStep m).phase = .settling ∧
        (ch.seekStep m).settle = if 2 * ch.profile.au m < v then 2 * ch.profile.settleu m else ch.profile.settleu m) ∧
      (ch.seekStep m).target = ch.target ∧ (ch.seekStep m).inward = ch.inward ∧ (ch.seekStep m).known = ch.known ∧
      (ch.seekStep m).profile = ch.profile ∧ (ch.seekStep m).staged = ch.staged := by
  subst hr hv
  rw [Channel.seekStep_eq m ch (nextVelocity_eq h ..)]
  refine ⟨rfl, ?_, fun hlt => ?_, fun hge => ⟨if_pos hge, if_pos hge, if_pos hge⟩, rfl, rfl, rfl, rfl, rfl⟩
  · rw [← Nat.cast_min]
    rfl
  · have hn := Nat.not_le.mpr hlt
    exact ⟨if_neg hn, if_neg hn, if_neg hn⟩

theorem Channel.arrivesHard_iff (m : Nat) {ch : Channel} (h : ch.phase.steps) {v r : Nat} (hr : ch.remaining = r)
    (hv : newVelocity (ch.profile.au m) (ch.profile.vmaxu m) (ch.profile.cu m) ch.phase ch.vel r = v) :
    ch.arrivesHard m = true ↔ r ≤ v ∧ 2 * ch.profile.au m < v := by
  subst hr hv
  unfold Channel.arrivesHard
  rw [nextVelocity_eq h]
  simp [hardArrival]

theorem Channel.update_steps (m : Nat) (home : Bool) {ch : Channel} (h : ch.phase.steps) :
    ch.update m home = ch.seekStep m ∧ ch.updateReport home = .none ∧ ch.updateHard m = ch.arrivesHard m := by
  unfold Channel.update Channel.updateReport Channel.updateHard
  rcases h with h | h | h <;> rw [h] <;> exact ⟨rfl, rfl, rfl⟩

theorem Channel.update_settling (m : Nat) (home : Bool) {ch : Channel} (h : ch.phase = .settling) :
    ch.update m home = ch.settleStep ∧ ch.updateReport home = (if ch.settle - 1 = 0 then .onCylinder else .none) ∧
      ch.updateHard m = false := by
  unfold Channel.update Channel.updateReport Channel.updateHard
  rw [h]
  exact ⟨rfl, rfl, rfl⟩

theorem Channel.update_recal (m : Nat) {ch : Channel} (h : ch.phase = .recal) :
    ch.update m false = ch.recalStep m false ∧
      ch.updateReport false = (if ch.recalLimit ≤ ch.recalCount + 1 then .recalFailed else .none) ∧ ch.updateHard m = false := by
  unfold Channel.update Channel.updateReport Channel.updateHard
  rw [h]
  exact ⟨rfl, rfl, rfl⟩

theorem Channel.update_rest (m : Nat) (home : Bool) {ch : Channel} (h : ch.phase = .idle ∨ ch.phase = .stopped) :
    ch.update m home = ch ∧ ch.updateReport home = .none ∧ ch.updateHard m = false := by
  unfold Channel.update Channel.updateReport Channel.updateHard
  rcases h with h | h <;> rw [h] <;> exact ⟨rfl, rfl, rfl⟩

/-! ## The update at the drive -/

theorem State.modChan_congr {f g : Channel → Channel} (h : f (s.drive d).chan = g (s.drive d).chan) : s.modChan d f = s.modChan d g :=
  congrArg (fun c => { s with drives := s.drives.set d { s.drive d with chan := c } }) h

theorem State.modChan_same {f : Channel → Channel} (h : f (s.drive d).chan = (s.drive d).chan) : s.modChan d f = s := by
  have he : s.modChan d f = { s with drives := s.drives.set d { s.drive d with chan := f (s.drive d).chan } } := rfl
  rw [he, h]
  have hs : s.drives.set d (s.drive d) = s.drives := s.drives.set_get d
  exact congrArg (fun ds => { s with drives := ds }) hs

/-- R22: what an update does that reports nothing, and one that reports on cylinder. -/
theorem State.channelUpdate_of {home : Bool} {ch : Channel} (hu : (s.drive d).chan.update s.m home = ch)
    (hh : (s.drive d).chan.updateHard s.m = false) :
    ((s.drive d).chan.updateReport home = .none → s.channelUpdate d home = s.modChan d fun _ => ch) ∧
      ((s.drive d).chan.updateReport home = .onCylinder → s.channelUpdate d home = (s.modChan d fun _ => ch).onCylinderReport d) := by
  have he : s.modChan d (fun ch => ch.update s.m home) = s.modChan d fun _ => ch := State.modChan_congr hu
  unfold State.channelUpdate
  dsimp only
  rw [hh, he]
  exact ⟨fun hr => by rw [hr]; rfl, fun hr => by rw [hr]; rfl⟩

/-- R33, R45: what an update in a seek phase leaves of the drive. -/
theorem State.drive_channelUpdate_steps (home : Bool) (h : (s.drive d).chan.phase.steps) :
    (s.channelUpdate d home).drive d =
      { s.drive d with
        chan := (s.drive d).chan.seekStep s.m,
        tally := if (s.drive d).chan.arrivesHard s.m then (s.drive d).tally.raiseHardArrivals else (s.drive d).tally } := by
  obtain ⟨hu, hr, hh⟩ := Channel.update_steps s.m home h
  unfold State.channelUpdate
  dsimp only
  rw [hr, hh]
  dsimp only
  split
  · rw [State.drive_tallyDrive, State.drive_modChan, hu]
  · rw [State.drive_modChan, hu]

/-- An update that does not fail a recalibration is work of the drive's sequencer. -/
theorem State.channelUpdate_work {home : Bool} (h : (s.drive d).chan.updateReport home ≠ .recalFailed) :
    Work s (s.channelUpdate d home) := by
  have h2 := (Work.refl s).channelStep d home
  unfold State.channelUpdate
  dsimp only
  split
  · exact h2
  · exact h2.onCylinderReport d
  · exact h2.homeFoundReport d
  · next hr => exact absurd hr h

theorem State.exec_update (hp : s.powered = true) (hv : served s.plugs.mode8 d = true) (home : Bool) :
    exec (.positionerUpdate d home) s = .next (settle settleFuel (s.channelUpdate d home)) := by
  have he : s.positionerUpdate d home = s.channelUpdate d home := if_pos hv
  rw [← he]
  exact State.run_powered hp fun s => s.positionerUpdate d home

/-! ## The on-cylinder report (R34, R105, R109) -/

theorem State.onCylinderReport_none (hc : (s.drive d).cur = none) : s.onCylinderReport d = s := by
  unfold State.onCylinderReport
  rw [hc]

theorem State.onCylinderReport_waiting (hc : (s.drive d).cur = some op) {m : Motion} (hs : op.stage = .waiting m) :
    s.onCylinderReport d = s.makeWaiting d m := by
  unfold State.onCylinderReport
  simp only [hc, hs]

theorem State.onCylinderReport_moving (hc : (s.drive d).cur = some op) {n : Nat} {q : Goal} (hs : op.stage = .moving (.seek n q)) :
    s.onCylinderReport d = s.reachGoal d q := by
  unfold State.onCylinderReport
  simp only [hc, hs]

/-- R105 step 5: the operation that asked, other than a SEEK, waits for its sector under its head. -/
theorem State.drive_onCylinder (hc : (s.drive d).cur = some op) {n : Nat} (hs : op.stage = .moving (.seek n .transfer))
    (hk : op.kind ≠ .seek) :
    (s.onCylinderReport d).drive d = { s.drive d with headSel := op.phys.head, cur := some { op with stage := .transfer } } := by
  rw [State.onCylinderReport_moving hc hs]
  change (s.reachTransfer d).drive d = _
  rw [State.reachTransfer_eq hc hk, State.drive_modDrive_self]

/-- R109: a SEEK ends COMPLETE on cylinder. -/
theorem State.onCylinder_seekEnds (hn : s.numberLaw) (hc : (s.drive d).cur = some op) {n : Nat}
    (hs : op.stage = .moving (.seek n .transfer)) (hk : op.kind = .seek) {p : Port} {g : Tag} {o : Order}
    (ho : (s.port p).slots.get g = some o) (hoid : o.oid = op.oid) (hl : o.live = true) :
    Ended (s.onCylinderReport d) p g o.oid .complete := by
  rw [State.onCylinderReport_moving hc hs]
  change Ended (s.reachTransfer d) p g o.oid .complete
  unfold State.reachTransfer
  rw [hc]
  dsimp only
  rw [if_pos hk, hoid]
  have h1 : Work s (s.modDrive d fun x => { x with headSel := op.phys.head, cur := some { op with stage := .transfer } }) :=
    (Work.refl s).modDrive d _
  have h2 : ∀ f, Standing (s.modDrive d f) p g op.oid := fun _ => ⟨o, ho, hoid, hl⟩
  exact ((h2 _).marks (.clearOp _ d)).endOrder ((h1.clearOp d).number hn) _

/-- The channel whose settle count has run out (R34). -/
def Channel.settled (ch : Channel) : Channel := { ch with settle := 0, phase := .idle }

theorem Channel.settleStep_settled {ch : Channel} (h : ch.settle ≤ 1) : ch.settleStep = ch.settled := by
  have h0 : ch.settle - 1 = 0 := by omega
  simp [Channel.settleStep, Channel.settled, h0]

/-- R34: the update whose settle count reaches 0 makes the report. -/
theorem State.channelUpdate_report (home : Bool) (hp : (s.drive d).chan.phase = .settling) (hs : (s.drive d).chan.settle ≤ 1) :
    s.channelUpdate d home = (s.modChan d Channel.settled).onCylinderReport d := by
  obtain ⟨hu, hr, hh⟩ := Channel.update_settling s.m home hp
  rw [if_pos (by omega)] at hr
  rw [(State.channelUpdate_of (hu.trans (Channel.settleStep_settled hs)) hh).2 hr]
  rfl

/-- Settles O13: the report puts the channel IDLE, and the operation that asked takes it up. -/
theorem onCylinderReportMeets : Obligations.OnCylinderReportMeets := by
  unfold Obligations.OnCylinderReportMeets
  intro d op target s hp hrep hst hc hs
  have hph := hrep
  simp only [State.reportNext, Bool.and_eq_true, decide_eq_true_eq] at hph
  have hx : exec (.onCylinderReport d) s = .next (settle settleFuel (s.channelUpdate d false)) := by
    have h := State.run_powered hp fun s => if s.reportNext d then s.channelUpdate d false else s
    rwa [if_pos hrep] at h
  have hw : Work s (settle settleFuel (s.channelUpdate d false)) := by
    refine (State.channelUpdate_work ?_).settle _
    rw [(Channel.update_settling s.m false hph.1).2.1]
    split <;> decide
  have hdr : (s.modChan d Channel.settled).drive d = { s.drive d with chan := (s.drive d).chan.settled } := State.drive_modChan s d _
  refine ⟨_, hx, hw.untouched _ _, hw.laid, fun hk => ?_, fun hk hn p g o ho hoid hl => ?_⟩ <;>
    rw [State.channelUpdate_report false hph.1 hph.2]
  · have hon := State.drive_onCylinder (s := s.modChan d Channel.settled) (d := d) (op := op) (by rw [hdr]; exact hc) hs hk
    rw [hdr] at hon
    obtain ⟨h1, h2, h3, -⟩ := settle_current (d := d) (s := (s.modChan d Channel.settled).onCylinderReport d) settleFuel
      (by rw [hon]) (by rw [hon]; exact hst)
    rw [h1, h2, h3, hon]
    exact ⟨rfl, rfl, rfl, rfl⟩
  · have h1 : Ended ((s.modChan d Channel.settled).onCylinderReport d) p g o.oid .complete :=
      State.onCylinder_seekEnds (s := s.modChan d Channel.settled) (op := op)
        (numberLaw_of hn le_rfl fun _ _ x hx => ⟨x, hx, rfl⟩) (by rw [hdr]; exact hc) hs hk ho hoid hl
    exact h1.settle _

/-! ## POSITIONER_UPDATE (R23) -/

/-- A request that waits is made at the report, and a goal that is not a transfer is taken up. -/
theorem State.onCylinderReport_cases (hc : (s.drive d).cur = some op) :
    (∀ n q, op.stage = .waiting (.seek n q) → s.onCylinderReport d = s.seekTo d n) ∧
      (∀ n, op.stage = .waiting (.recal n) → s.onCylinderReport d = s.recalFor d n) ∧
      (∀ n, op.stage = .moving (.seek n .advance) → s.onCylinderReport d = s.advance d op) ∧
      ∀ n r, op.stage = .moving (.seek n (.finish r)) → s.onCylinderReport d = s.finish d op r := by
  refine ⟨fun n q h => State.onCylinderReport_waiting hc h, fun n h => State.onCylinderReport_waiting hc h, fun n h => ?_,
    fun n r h => ?_⟩ <;> rw [State.onCylinderReport_moving hc h] <;> unfold State.reachGoal <;> simp only [hc]

theorem Phase.steps_inFlight {p : Phase} (h : p.steps) : p.inFlight = true := by rcases h with rfl | rfl | rfl <;> rfl

theorem nextVelocity_steps (au vm cu v r : Nat) (phase : Phase) : (nextVelocity au vm cu phase v r).1.steps := by
  rcases nextVelocity_phase au vm cu v r phase with h | h | h
  · exact .inr (.inr h)
  · exact .inr (.inl h)
  · exact .inl h

/-- A channel that makes a seek step is in flight after it. -/
theorem Channel.seekStep_inFlight (m : Nat) (ch : Channel) : (ch.seekStep m).phase.inFlight = true := by
  rw [Channel.seekStep_eq m ch rfl]
  dsimp only
  split
  · rfl
  · exact Phase.steps_inFlight (nextVelocity_steps _ _ _ _ _ _)

/-- R31 to R33: the update in a seek phase, after the immediate actions. -/
theorem State.update_steps (hp : s.powered = true) (hv : served s.plugs.mode8 d = true) (home : Bool) (h : (s.drive d).chan.phase.steps) :
    ∃ t, exec (.positionerUpdate d home) s = .next t ∧ Untouched s t [] [] ∧ t.media = s.media ∧
      (t.drive d).chan = (s.drive d).chan.seekStep s.m ∧
      (t.drive d).tally.hardArrivals =
        if (s.drive d).chan.arrivesHard s.m = true then bump (s.drive d).tally.hardArrivals else (s.drive d).tally.hardArrivals := by
  have hdr := State.drive_channelUpdate_steps home h
  have hw : Work s (settle settleFuel (s.channelUpdate d home)) :=
    (State.channelUpdate_work (by rw [(Channel.update_steps s.m home h).2.1]; decide)).settle _
  have hst := congrArg DriveTallies.hardArrivals (((Steady.refl (s.channelUpdate d home)).settle settleFuel) d)
  refine ⟨_, State.exec_update hp hv home, hw.untouched _ _, hw.laid, ?_, ?_⟩
  · rw [settle_chan (by rw [hdr]; exact Channel.seekStep_inFlight _ _), hdr]
  · refine hst.trans ?_
    rw [hdr]
    dsimp only [DriveTallies.steady]
    split <;> rfl

/-- R34: an update in SETTLING, after the immediate actions. -/
theorem State.update_settling (hp : s.powered = true) (hv : served s.plugs.mode8 d = true) (home : Bool)
    (h : (s.drive d).chan.phase = .settling) :
    ∃ t, exec (.positionerUpdate d home) s = .next t ∧ Untouched s t [] [] ∧ t.media = s.media ∧
      (1 < (s.drive d).chan.settle → (t.drive d).chan = { (s.drive d).chan with settle := (s.drive d).chan.settle - 1 }) ∧
      ((s.drive d).chan.settle = 1 → t = settle settleFuel ((s.modChan d Channel.settled).onCylinderReport d)) := by
  obtain ⟨hu, hr, hh⟩ := Channel.update_settling s.m home h
  have hw : Work s (settle settleFuel (s.channelUpdate d home)) :=
    (State.channelUpdate_work (by rw [hr]; split <;> decide)).settle _
  refine ⟨_, State.exec_update hp hv home, hw.untouched _ _, hw.laid, fun hs => ?_, fun hs => ?_⟩
  · rw [if_neg (by omega)] at hr
    rw [(State.channelUpdate_of hu hh).1 hr]
    have hc : (s.drive d).chan.settleStep = { (s.drive d).chan with settle := (s.drive d).chan.settle - 1 } := by
      have h0 : ¬(s.drive d).chan.settle - 1 = 0 := by omega
      simp [Channel.settleStep, h0, h]
    rw [settle_chan (by rw [State.drive_modChan, hc, h]; rfl), State.drive_modChan, hc]
  · rw [State.channelUpdate_report home h (by omega)]

/-- R39: an update in RECAL that does not find the home sensor and is not the last: a creep step outward. -/
theorem State.update_creeps (hp : s.powered = true) (hv : served s.plugs.mode8 d = true) (h : (s.drive d).chan.phase = .recal)
    (hl : (s.drive d).chan.recalCount + 1 < (s.drive d).chan.recalLimit) :
    ∃ t, exec (.positionerUpdate d false) s = .next t ∧ Untouched s t [] [] ∧ t.media = s.media ∧
      (t.drive d).chan = { (s.drive d).chan with
        recalCount := (s.drive d).chan.recalCount + 1, step := -((s.drive d).chan.profile.cu s.m : Int) } := by
  obtain ⟨hu, hr, hh⟩ := Channel.update_recal s.m h
  rw [if_neg (by omega)] at hr
  have hw : Work s (settle settleFuel (s.channelUpdate d false)) := (State.channelUpdate_work (by rw [hr]; decide)).settle _
  refine ⟨_, State.exec_update hp hv false, hw.untouched _ _, hw.laid, ?_⟩
  have hc : (s.drive d).chan.recalStep s.m false = { (s.drive d).chan with
      recalCount := (s.drive d).chan.recalCount + 1, step := -((s.drive d).chan.profile.cu s.m : Int) } := by
    unfold Channel.recalStep
    rw [if_neg (by decide), if_neg (by omega)]
    rfl
  rw [(State.channelUpdate_of hu hh).1 hr, settle_chan (by rw [State.drive_modChan, hc, h]; rfl), State.drive_modChan, hc]

/-- R39: the update that reaches the limit takes the drive out, with its position not known. -/
theorem State.update_fails (hp : s.powered = true) (hv : served s.plugs.mode8 d = true) (h : (s.drive d).chan.phase = .recal)
    (hl : (s.drive d).chan.recalLimit ≤ (s.drive d).chan.recalCount + 1) :
    ∃ t, exec (.positionerUpdate d false) s = .next t ∧ Untouched s t [] [] ∧ TakenOut s t d ∧ (t.drive d).chan.known = false ∧
      Torn s t (· = d) := by
  have hlim : s.limitNext d = true := by simp [State.limitNext, h, hl]
  refine ⟨_, State.exec_update hp hv false, ?_⟩
  rw [State.channelUpdate_limit hlim]
  have hw : Work s (s.modChan d fun ch => ch.update s.m false) := (Work.refl s).modChan d _ fun _ hc => Channel.law_update false hc
  have hcur : ∀ e, ((s.modChan d fun ch => ch.update s.m false).drive e).cur = (s.drive e).cur := fun e => by
    rw [State.modChan, State.drive_modDrive]
    split <;> rfl
  obtain ⟨hto, htorn, hun⟩ := State.takenOut (d := d) hw rfl (fun e => by unfold State.transferOf; rw [hcur]; rfl) settleFuel
  have hpoised : (s.modChan d fun ch => ch.update s.m false).Poised (· = d) False := fun e => ⟨fun he => by
    subst he
    rw [State.drive_modChan]
    refine .of_unknown ?_
    obtain ⟨hu, -, -⟩ := Channel.update_recal s.m h
    unfold Channel.recalStep at hu
    rw [if_neg (by decide), if_pos hl] at hu
    exact congrArg Channel.known hu, False.elim⟩
  exact ⟨hun, hto, (((hpoised.enterNotReady d).settle settleFuel) d |>.place rfl).stopped hto.phase, htorn⟩

/-- Settles O12: each phase is a case of the channel's update, and a channel in flight keeps through the immediate actions what the
update made of it. -/
theorem seekUpdate : Obligations.SeekUpdate := by
  unfold Obligations.SeekUpdate
  intro d home s hp hv
  refine ⟨fun h => ?_, fun h => ?_, fun h hs => ?_, fun h hh => ?_, fun h => ?_⟩
  · obtain ⟨t, hx, hun, hm, hch, hta⟩ := State.update_steps hp hv home h
    obtain ⟨h1, h2, h3, h4, h5, h6, h7, h8, h9⟩ := Channel.seekStep_fields s.m h rfl rfl
    rw [← hch] at h1 h2 h3 h4 h5 h6 h7 h8 h9
    rw [if_congr (Channel.arrivesHard_iff s.m h rfl rfl) rfl rfl] at hta
    exact ⟨t, hx, hun, hm, h1, h2, h3, h4, hta, h5, h6, h7, h8, h9⟩
  · obtain ⟨t, hx, hun, hm, h1, h2⟩ := State.update_settling hp hv home h
    refine ⟨t, hx, hun, hm, h1, fun hs hst op target hc hk hg => ?_⟩
    have hdr : (s.modChan d Channel.settled).drive d = { s.drive d with chan := (s.drive d).chan.settled } := State.drive_modChan s d _
    have hon := State.drive_onCylinder (s := s.modChan d Channel.settled) (d := d) (op := op) (by rw [hdr]; exact hc) hg hk
    rw [hdr] at hon
    obtain ⟨h3, -, h4, -⟩ := settle_current (d := d) (s := (s.modChan d Channel.settled).onCylinderReport d) settleFuel
      (by rw [hon]) (by rw [hon]; exact hst)
    rw [h2 hs, h3, h4, hon]
    exact ⟨rfl, rfl⟩
  · obtain ⟨t, hx, -, -, -, h2⟩ := State.update_settling hp hv home h
    rw [h2 hs] at hx
    have hcur : ((s.modChan d Channel.settled).drive d).cur = (s.drive d).cur := by rw [State.drive_modChan]
    refine ⟨fun hc => ?_, fun op hc => ?_⟩
    · rw [State.onCylinderReport_none (hcur.trans hc)] at hx
      exact hx
    · obtain ⟨h3, h4, h5, h6⟩ := State.onCylinderReport_cases (hcur.trans hc)
      exact ⟨fun n q hg => by rw [h3 n q hg] at hx; exact hx, fun n hg => by rw [h4 n hg] at hx; exact hx,
        fun n hg => by rw [h5 n hg] at hx; exact hx, fun n r hg => by rw [h6 n r hg] at hx; exact hx⟩
  · subst hh
    rcases Nat.lt_or_ge ((s.drive d).chan.recalCount + 1) (s.drive d).chan.recalLimit with hl | hl
    · obtain ⟨t, hx, hun, hm, hch⟩ := State.update_creeps hp hv h hl
      exact ⟨t, hx, hun, fun _ => ⟨hm, hch⟩, fun hge => absurd hl (by omega)⟩
    · obtain ⟨t, hx, hun, h1⟩ := State.update_fails hp hv h hl
      exact ⟨t, hx, hun, fun hlt => absurd hl (by omega), fun _ => h1⟩
  · obtain ⟨hu, hr, hh⟩ := Channel.update_rest s.m home h
    rw [State.exec_update hp hv home, (State.channelUpdate_of hu hh).1 hr, State.modChan_same rfl]

end Sys2Proof.Machine
end


section
/-! The failing end of a host read: why the statement about it does not hold of every state. -/

namespace Sys2Proof.Machine

-- One declaration after the other: in parallel the one compile of the whole text runs out of threads.
set_option Elab.async false

/-! ## A READ whose order is a queued SEEK -/

/-- A SEEK of drive 0 queued at port A. -/
def queuedSeek : Order :=
  newOrder 1 0 .seek
    { port := 0, checkOk := true, tag := 0#8, logical := 0#8, cyl := 0#16, head := 0#8, sector := 0#8, count := 1#8, flags := 0#8,
      parameter := 0#16, body := [] } (some 0)

/-- A READ of drive 0 under way, under the serial number of that SEEK. -/
def readOfSeek : Op := { Op.internal .read ⟨0, 0⟩ ⟨0, 0⟩ .home .read with oid := 1, count := 1 }

/-- The transfer of the READ. -/
def readXfer : Xfer := { sector := 0, begun := true, chained := false, cont := false, early := none, frame := none }

/-- A READY drive that reads, with the SEEK in its queue. -/
def readingDrive : Drive :=
  { Drive.initial with
    present := true, plugType := 1, state := .ready, geom := builtinGeometry 1, pool := [.free, .free], mapHeld := true,
    chan := { Channel.initial Profile.initial with phase := .idle, known := true }, cur := some readOfSeek, queue := [1] }

/-- The controller with that drive at address 0 in its transfer: no law says that an operation's kind is the one of its order, or that
the order of a current operation has left the queue. -/
def readsForSeek : State :=
  let s := State.reset.modDrive 0 fun _ => readingDrive
  State.setRun { s.modPort 0 fun c => { c with slots := c.slots.set 0 (some queuedSeek) } with
    nextOid := 2, path := { holder := some 0, last := 0, burst := 1, xfer := some readXfer } }
    [{ state := .held, port := 0, tag := 0, oid := 1, index := 0, data := none }]

/-- A sector whose data stand replaced on the drive: the header is found, marked LOST. -/
def lostSector : Frame := .framed true ⟨0, 0, 0, 0, .home, true⟩ .invalid

/-- The SEEK is the one order held. -/
theorem readsForSeek_slot {p : Port} {k : Tag} {o : Order} (h : (readsForSeek.port p).slots.get k = some o) :
    p = 0 ∧ k = 0 ∧ o = queuedSeek := by
  have held : ∀ p k, ∀ o ∈ (readsForSeek.port p).slots.get k, p = 0 ∧ k = 0 ∧ o = queuedSeek := by decide
  exact held p k o h

theorem readsForSeek_numberLaw : readsForSeek.numberLaw := by
  refine ⟨by decide, fun p k o h => ?_, fun p k o q n r ho hr => ?_⟩
  · obtain ⟨-, -, rfl⟩ := readsForSeek_slot h
    decide
  · obtain ⟨rfl, rfl, -⟩ := readsForSeek_slot ho
    obtain ⟨rfl, rfl, -⟩ := readsForSeek_slot hr
    exact fun _ => ⟨rfl, rfl⟩

theorem readsForSeek_lost : judgeFrame (readOfSeek.expected 0 false) (readsForSeek.metFrame 0 readOfSeek readXfer (some lostSector)) =
    .lost := by decide

/-- The free drive selects the SEEK, which has no way to go and ends COMPLETE, without a failing address. -/
theorem readsForSeek_failing {t : State} (h : exec (.sectorReadEnd 0 (some lostSector)) readsForSeek = .next t) :
    ∀ o ∈ (t.port 0).slots.get 0, o.failing = none := by
  obtain ⟨t, ht, hnone⟩ : ∃ t, exec (.sectorReadEnd 0 (some lostSector)) readsForSeek = .next t ∧
      ∀ o ∈ (t.port 0).slots.get 0, o.failing = none := ⟨_, rfl, by decide⟩
  cases h.symm.trans ht
  exact hnone

/-- Refutes O35. The statement has an order that a failing sector ends keep its failing address; but no premise ties the operation to
its order, and where that order is a SEEK still in the queue, the drive that the end sets free selects it, and it ends COMPLETE. -/
theorem not_sectorReadFails : ¬ Obligations.SectorReadFails := by
  unfold Obligations.SectorReadFails
  rintro ⟨-, fails⟩
  obtain ⟨t, hx, -, -, -, -, -, hlost, -⟩ := fails 0 readOfSeek readXfer (some lostSector) _ readsForSeek rfl rfl rfl
    (.inl rfl) rfl rfl rfl (by decide) readsForSeek_numberLaw nofun
  obtain ⟨-, ends, -⟩ := hlost readsForSeek_lost
  obtain ⟨o, ho, -, hfailing, -⟩ := ends rfl 0 0 queuedSeek rfl rfl rfl rfl
  rw [readsForSeek_failing hx o ho] at hfailing
  cases hfailing

end Sys2Proof.Machine
end


section
/-! What the immediate actions keep of a drive at rest, of a drive's map and profile, and of the watch list. -/

namespace Sys2Proof.Machine

-- One declaration after the other: in parallel the one compile of the whole text runs out of threads.
set_option Elab.async false

variable {s t u : State} {d e : DriveId} {a : Prop}

/-! ## The map and the profile of a drive that starts work -/

/-- What a start of work keeps of a drive: a channel without a staged profile keeps the one in force, no REASSIGN is queued, and, where
`a` holds, the spare map and the pool stay. -/
structure Drive.Fitted (a : Prop) (x y : Drive) : Prop where
  map : a → y.spare = x.spare ∧ y.pool = x.pool
  profile : x.chan.staged = none → y.chan.profile = x.chan.profile ∧ y.chan.staged = none
  reassign : y.pendReassign = true → x.pendReassign = true

theorem Drive.Fitted.refl (x : Drive) : x.Fitted a x := ⟨fun _ => ⟨rfl, rfl⟩, fun h => ⟨rfl, h⟩, id⟩

theorem Drive.Fitted.trans {x y z : Drive} (h1 : x.Fitted a y) (h2 : y.Fitted a z) : x.Fitted a z where
  map ha := ⟨(h2.map ha).1.trans (h1.map ha).1, (h2.map ha).2.trans (h1.map ha).2⟩
  profile hs := ⟨(h2.profile (h1.profile hs).2).1.trans (h1.profile hs).1, (h2.profile (h1.profile hs).2).2⟩
  reassign := h1.reassign ∘ h2.reassign

/-- An update of parts that `Drive.Fitted` does not speak of. -/
theorem Drive.Fitted.same {x y : Drive} (hs : y.spare = x.spare) (hp : y.pool = x.pool) (hc : y.chan = x.chan)
    (hr : y.pendReassign = true → x.pendReassign = true) : x.Fitted a y :=
  ⟨fun _ => ⟨hs, hp⟩, fun h => by rw [hc]; exact ⟨rfl, h⟩, hr⟩

/-- R27: a motion that starts adopts the staged profile, where there is one. -/
theorem Drive.Fitted.chan (x : Drive) {ch : Channel} (h : x.chan.staged = none → ch.profile = x.chan.profile ∧ ch.staged = none) :
    x.Fitted a { x with chan := ch } := ⟨fun _ => ⟨rfl, rfl⟩, h, id⟩

theorem Channel.adopt_unstaged {ch : Channel} (h : ch.staged = none) : ch.adopt.profile = ch.profile ∧ ch.adopt.staged = none := by
  simp [Channel.adopt, h]

/-- Drive `d` is fitted to what it was. -/
def Fits (a : Prop) (d : DriveId) (s t : State) : Prop := (s.drive d).Fitted a (t.drive d)

theorem Fits.refl (s : State) : Fits a d s s := Drive.Fitted.refl _

theorem Fits.drives (h : Fits a d s t) (hd : u.drives = t.drives := by rfl) : Fits a d s u := by
  unfold Fits
  rw [State.drive_eq_of_drives hd]
  exact h

theorem Fits.modDrive (h : Fits a d s t) (f : Drive → Drive)
    (hf : ∀ x : Drive, x.Fitted a (f x) := by exact fun _ => .same rfl rfl rfl id) : Fits a d s (t.modDrive d f) := by
  unfold Fits
  rw [State.drive_modDrive_self]
  exact Drive.Fitted.trans h (hf _)

theorem Fits.modChan (h : Fits a d s t) (f : Channel → Channel)
    (hf : ∀ ch, ch.staged = none → (f ch).profile = ch.profile ∧ (f ch).staged = none) : Fits a d s (t.modChan d f) :=
  h.modDrive _ fun x => ⟨fun _ => ⟨rfl, rfl⟩, hf x.chan, id⟩

theorem Fits.foldl {α : Type} (h : Fits a d s t) (f : State → α → State) (hf : ∀ v i, Fits a d s v → Fits a d s (f v i)) (l : List α) :
    Fits a d s (l.foldl f t) := by
  induction l generalizing t with
  | nil => exact h
  | cons i l ih => exact ih (hf _ _ h)

theorem Fits.endOrders (h : Fits a d s t) (e : DriveId) (q : Order → Bool) (r : Result) : Fits a d s (t.endOrders e q r) :=
  h.foldl _ (fun _ _ hu => hu.drives (State.drives_endOrder _ _ _)) _

theorem Fits.clearOp (h : Fits a d s t) : Fits a d s (t.clearOp d) := by
  unfold Fits
  rw [State.drive_clearOp, if_pos rfl]
  exact Drive.Fitted.trans h (.same rfl rfl rfl id)

theorem Fits.reachTransfer (h : Fits a d s t) : Fits a d s (t.reachTransfer d) := by
  unfold State.reachTransfer
  split
  · exact h
  · next op _ =>
    have h1 : Fits a d s (t.modDrive d fun x => { x with headSel := op.phys.head, cur := some { op with stage := .transfer } }) :=
      h.modDrive _
    dsimp only
    split
    · exact h1.clearOp.drives (State.drives_endOrder _ _ _)
    · exact h1

theorem Fits.recalFor (h : Fits a d s t) (n : Option Nat) : Fits a d s (t.recalFor d n) := by
  unfold State.recalFor
  split
  · exact h.modDrive _
  · split
    · exact h
    · refine Fits.modDrive (h.modChan _ ?_) _
      exact fun _ => Channel.adopt_unstaged

theorem Fits.beginSeek (h : Fits a d s t) (n : Nat) (q : Goal) : Fits a d s (t.beginSeek d n q) := by
  unfold State.beginSeek State.tallyDrive State.modOp
  refine Fits.modDrive (Fits.modDrive (h.modDrive _ fun x => ?_) _ ?_) _ ?_
  · exact .chan x Channel.adopt_unstaged
  all_goals exact fun _ => .same rfl rfl rfl id

theorem Fits.seekTo (h : Fits a d s t) (n : Nat) : Fits a d s (t.seekTo d n) := by
  unfold State.seekTo
  dsimp only
  split
  · exact h.modDrive _
  · split
    · split
      · refine Fits.reachTransfer (h.modChan _ ?_)
        exact fun _ hs => ⟨rfl, hs⟩
      · exact h.beginSeek n _
    · exact h.recalFor _

theorem Drive.beginSparing_fitted (x : Drive) (home : Track) (pos : Nat) : x.Fitted False (x.beginSparing home pos).mapChanged := by
  have hc : (x.beginSparing home pos).chan = x.chan := (Drive.Still.beginSparing x home pos).chan
  exact ⟨False.elim, fun h => ⟨congrArg Channel.profile hc, (congrArg Channel.staged hc).trans h⟩,
    (Drive.Calm.beginSparing x home pos).reassign⟩

theorem Fits.reassignStuck (h : Fits False d s t) (i : Nat) (w : WatchEntry) : Fits False d s (t.reassignStuck d i w) := by
  unfold State.reassignStuck State.countReassignFailure
  have h1 : Fits False d s ((t.setWatch i { w with state := .stuck }).tallyDrive d DriveTallies.raiseReassignFailures) :=
    Fits.modDrive h.drives _
  have h2 : Fits False d s (((t.setWatch i { w with state := .stuck }).tallyDrive d DriveTallies.raiseReassignFailures).setNotice d
      noticeReassignFailed) := h1.drives
  exact (h2.endOrders d _ _).drives

theorem Fits.reassignBegin (h : Fits False d s t) (i : Nat) (w : WatchEntry) (pos : Nat) :
    Fits False d s (t.reassignBegin d i w pos) := by
  unfold State.reassignBegin
  have h1 : Fits False d s (t.modDrive d fun x => (x.beginSparing w.home pos).mapChanged) :=
    h.modDrive _ fun x => x.beginSparing_fitted w.home pos
  exact Fits.seekTo (Fits.modDrive h1.drives _) _

theorem Fits.startReassign (h : Fits False d s t) : Fits False d s (t.startReassign d) := by
  unfold State.startReassign
  split
  · split
    · exact h
    · next w _ =>
      split
      · exact h.reassignStuck _ w
      · exact h.reassignBegin _ w _
  · exact h

theorem Fits.startInternal (h : Fits a d s t) (k : OpKind) (hk : a → k ≠ .reassign) : Fits a d s (t.startInternal d k) := by
  cases k <;> simp only [State.startInternal]
  case recalibrate => exact ((h.modDrive _).modDrive _).recalFor _
  case mapLoad =>
    unfold State.startMapLoad
    split
    · exact h.modDrive _
    · exact ((h.modDrive _).modDrive _).seekTo _
  case mapWrite =>
    unfold State.startMapWrite
    split
    · exact h.modDrive _
    · exact ((Fits.foldl (h.modDrive _) _ (fun _ _ hu => hu.drives) _).modDrive _).seekTo _
  case reassign =>
    have ha : a = False := eq_false fun ha => hk ha rfl
    subst ha
    exact (h.modDrive (fun x => { x with pendReassign := false }) fun _ => .same rfl rfl rfl nofun).startReassign
  all_goals exact h

theorem Fits.takeEntry (s : State) (es : List (Port × Order)) (c : Choice) : Fits a d s (s.takeEntry d es c) := by
  have h0 : Fits a d s (if c.passes then s.passOver es c.entry.2.oid else s) := by
    unfold Fits
    split <;> [rw [State.drive_passOver]; skip] <;> exact .refl _
  have h : Fits a d s (s.taken d es c) := Fits.drives (Fits.modDrive h0 fun x =>
    { x with queue := x.queue.filter fun n => n ≠ c.entry.2.oid, sweepIn := c.sweepIn })
  have he : s.takeEntry d es c = if c.entry.2.kind = .surfaceVerify then (s.taken d es c).startSurface d c.entry.1 c.entry.2
      else (s.taken d es c).startHost d c.entry.1 c.entry.2 := rfl
  rw [he]
  split
  · unfold State.startSurface
    split
    · exact h
    · exact Fits.seekTo (Fits.modDrive h.drives _) _
  · exact Fits.seekTo (h.modDrive _) _

/-- R100: a REASSIGN starts only on a READY drive. -/
theorem Drive.nextInternal_reassign {x : Drive} (h : x.nextInternal = some .reassign) : x.state = .ready ∧ x.pendReassign = true := by
  rcases Drive.nextInternal_cases h with ⟨hk, -⟩ | ⟨hk, -⟩ | ⟨hk, -⟩ | ⟨-, hp⟩
  iterate 3 cases hk
  refine ⟨?_, hp⟩
  by_contra hs
  have hi : x.internalEligible .reassign = false := by
    unfold Drive.internalEligible
    cases hst : x.state <;> first | rfl | exact absurd hst hs
  unfold Drive.nextInternal at h
  rw [hi, Bool.and_false] at h
  repeat' split at h
  all_goals contradiction

theorem Fits.select (hs : s.select d = some t) (ha : a → (s.drive d).state ≠ .ready) : Fits a d s t := by
  unfold State.select at hs
  split at hs
  · cases hs
  · split at hs
    · next k hk =>
      cases hs
      refine (Fits.refl s).startInternal k fun h => ?_
      rintro rfl
      exact ha h (Drive.nextInternal_reassign hk).1
    · obtain ⟨c, _, rfl⟩ := Option.map_eq_some_iff.mp hs
      exact .takeEntry s _ _

/-- A drive that is not READY stays so through an immediate action. -/
theorem State.act_ready (h : s.act = some t) (hr : (t.drive d).state = .ready) : (s.drive d).state = .ready := by
  rcases State.act_drives h with h | ⟨e, h⟩ | ⟨e, h⟩ | ⟨e, f, h⟩ | ⟨e, hw, rfl⟩
  · rwa [State.drive_eq_of_drives h] at hr
  · rw [State.drive_eq_of_drives h, State.drive_modDrive] at hr
    split at hr <;> exact hr
  · exact (Drive.state_of_service (State.service_of_base (State.base_select h) d)).symm.trans hr
  · rw [State.drive_eq_of_drives h, State.drive_modDrive] at hr
    split at hr <;> exact hr
  · unfold State.enterSpinningUp at hr
    rw [State.setDriveState_toState, State.modDrive_modDrive, State.drive_modDrive] at hr
    split at hr
    · cases hr
    · exact hr

/-- R27, R51: the immediate actions keep the map of a drive that neither is READY nor waits for the spin-up turn, and its profile in
force while none is staged. -/
theorem Fits.settle (n : Nat) (ha : a → (s.drive d).state ≠ .ready ∧ (s.drive d).state ≠ .waitingSpin) :
    (a → ((settle n s).drive d).spare = (s.drive d).spare ∧ ((settle n s).drive d).pool = (s.drive d).pool) ∧
      ((s.drive d).chan.staged = none →
        ((settle n s).drive d).chan.profile = (s.drive d).chan.profile ∧ ((settle n s).drive d).chan.staged = none) := by
  suffices h : ∀ u v : State, u.act = some v → (a → (u.drive d).state ≠ .ready ∧ (u.drive d).state ≠ .waitingSpin) →
      (a → (v.drive d).spare = (u.drive d).spare ∧ (v.drive d).pool = (u.drive d).pool) ∧
      ((u.drive d).chan.staged = none → (v.drive d).chan.profile = (u.drive d).chan.profile ∧ (v.drive d).chan.staged = none) by
    refine (settle_rel (P := fun u v => (a → (u.drive d).state ≠ .ready ∧ (u.drive d).state ≠ .waitingSpin) →
      (a → (v.drive d).state ≠ .ready ∧ (v.drive d).state ≠ .waitingSpin) ∧
      (a → (v.drive d).spare = (u.drive d).spare ∧ (v.drive d).pool = (u.drive d).pool) ∧
      ((u.drive d).chan.staged = none → (v.drive d).chan.profile = (u.drive d).chan.profile ∧ (v.drive d).chan.staged = none))
      (fun _ hu => ⟨hu, fun _ => ⟨rfl, rfl⟩, fun h => ⟨rfl, h⟩⟩) (fun _ _ _ h1 h2 hu => ?_) (fun u v hv hu => ?_) n s ha).2
    · obtain ⟨a1, m1, p1⟩ := h1 hu
      obtain ⟨a2, m2, p2⟩ := h2 a1
      exact ⟨a2, fun h => ⟨(m2 h).1.trans (m1 h).1, (m2 h).2.trans (m1 h).2⟩,
        fun h => ⟨(p2 (p1 h).2).1.trans (p1 h).1, (p2 (p1 h).2).2⟩⟩
    · refine ⟨fun h => ?_, h u v hv hu⟩
      rw [Drive.state_of_service (ServiceKept.act hv d (hu h).2)]
      exact hu h
  intro u v hv hu
  have same : (v.drive d).spare = (u.drive d).spare → (v.drive d).pool = (u.drive d).pool → (v.drive d).chan = (u.drive d).chan →
      (a → (v.drive d).spare = (u.drive d).spare ∧ (v.drive d).pool = (u.drive d).pool) ∧
      ((u.drive d).chan.staged = none → (v.drive d).chan.profile = (u.drive d).chan.profile ∧ (v.drive d).chan.staged = none) :=
    fun h1 h2 h3 => ⟨fun _ => ⟨h1, h2⟩, fun h => by rw [h3]; exact ⟨rfl, h⟩⟩
  rcases State.act_drives hv with h | ⟨e, h⟩ | ⟨e, h⟩ | ⟨e, f, h⟩ | ⟨e, hw, rfl⟩
  · rw [State.drive_eq_of_drives h] at same ⊢
    exact same rfl rfl rfl
  · rw [State.drive_eq_of_drives h, State.drive_modDrive] at same ⊢
    refine same ?_ ?_ ?_ <;> split <;> rfl
  · by_cases hde : d = e
    · subst hde
      have hf := Fits.select (a := a) h fun ha => (hu ha).1
      exact ⟨hf.map, hf.profile⟩
    · rw [State.drive_of_others (State.others_select h) hde] at same ⊢
      exact same rfl rfl rfl
  · rw [State.drive_eq_of_drives h, State.drive_modDrive] at same ⊢
    refine same ?_ ?_ ?_ <;> split <;> rfl
  · refine ⟨fun ha => ?_, fun hs => ?_⟩
    · have hde : d ≠ e := by
        rintro rfl
        exact (hu ha).2 hw
      unfold State.enterSpinningUp State.setDriveState
      rw [State.drive_modDrive_ne _ _ hde, State.drive_modDrive_ne _ _ hde]
      exact ⟨rfl, rfl⟩
    · unfold State.enterSpinningUp
      rw [State.setDriveState_toState, State.modDrive_modDrive, State.drive_modDrive]
      split <;> exact ⟨rfl, hs⟩

end Sys2Proof.Machine
end


section
/-! What the immediate actions keep of the watch list, and of a drive on which nothing may run. -/

namespace Sys2Proof.Machine

-- One declaration after the other: in parallel the one compile of the whole text runs out of threads.
set_option Elab.async false

variable {s t u : State} {d e : DriveId}

/-! ## The watch list (R126 to R128) -/

/-- R127: a REASSIGN is queued for a drive only while the engine is TAKEN by a CANDIDATE of it. -/
def State.Pledged (s : State) : Prop :=
  ∀ d, (s.drive d).pendReassign = true → s.reassign.state = .taken ∧
    ∃ i e, s.reassign.slot = some i ∧ watchEntry s.watch i = some e ∧ e.state = .candidate ∧ e.drive = d

theorem State.engineLaw.pledged (h : s.engineLaw) : s.Pledged := fun d hd => (h.queued d hd).2.2

/-- The entries of a list stand in their slots or have left them, but for their states. -/
def NamedIn (w v : List WatchSlot) : Prop := ∀ e : WatchEntry, .entry e ∈ v → ∃ f : WatchEntry, .entry f ∈ w ∧ f.drive = e.drive

/-- An entry that no start of a REASSIGN may touch: no CANDIDATE, or of a drive that is not READY. -/
def State.Stands (s : State) (e : WatchEntry) : Prop := e.state ≠ .candidate ∨ (s.drive e.drive).state ≠ .ready

theorem watchEntry_of {w : List WatchSlot} {i : Nat} {f : WatchEntry} (h : w[i]? = some (.entry f)) : watchEntry w i = some f := by
  simp [watchEntry, h]

/-- R128: the start of a REASSIGN reserves the slot taken, or leaves its entry STUCK. -/
theorem State.startReassign_watch (s : State) (d : DriveId) :
    (s.startReassign d).watch = s.watch ∨
      ∃ i e w, s.reassign.slot = some i ∧ watchEntry s.watch i = some e ∧ (w = .reserved ∨ w = .entry { e with state := .stuck }) ∧
        (s.startReassign d).watch = s.watch.set i w := by
  unfold State.startReassign
  split
  · next i _ hi =>
    split
    · exact .inl rfl
    · next e he =>
      refine .inr ⟨i, e, ?_⟩
      split
      · refine ⟨.entry { e with state := .stuck }, hi, he, .inr rfl, ?_⟩
        exact (congrArg Prod.fst (State.sparing_endOrders
          ((s.setWatch i { e with state := .stuck }).countReassignFailure d) d
          (fun o => o.kind = .reassignTrack && o.start.cyl = e.home.cyl && o.start.head = e.home.head) .noAlternate) :)
      · next pos _ =>
        refine ⟨.reserved, hi, he, .inl rfl, ?_⟩
        unfold State.reassignBegin
        dsimp only
        exact (congrArg Prod.fst (State.sparing_seekTo _ _ _)).trans rfl
  · exact .inl rfl

/-- What an immediate action does to the watch list, the engine and the REASSIGNs queued: nothing, or a candidate is taken, or the REASSIGN
of a READY drive starts. -/
theorem State.act_engine (h : s.act = some t) :
    (t.sparing = s.sparing ∧ ∀ d, (t.drive d).pendReassign = true → (s.drive d).pendReassign = true) ∨
      (s.reassign.state = .free ∧ ∃ i e, watchEntry s.watch i = some e ∧ e.state = .candidate ∧ t = s.takeCandidate i) ∨
      ∃ d, (s.drive d).state = .ready ∧ (s.drive d).pendReassign = true ∧ s.select d = some t ∧
        t = (s.modDrive d fun x => { x with pendReassign := false }).startReassign d := by
  have keep : t.drives = s.drives → ∀ d, (t.drive d).pendReassign = true → (s.drive d).pendReassign = true :=
    fun hd d hp => by rwa [State.drive_eq_of_drives hd] at hp
  have keepMod : ∀ (e : DriveId) (f : Drive → Drive), t.drives = (s.modDrive e f).drives → (∀ x, (f x).pendReassign = x.pendReassign) →
      ∀ d, (t.drive d).pendReassign = true → (s.drive d).pendReassign = true := fun e f hd hf d hp => by
    rw [State.drive_eq_of_drives hd, State.drive_modDrive] at hp
    split at hp
    · exact (hf _).symm.trans hp
    · exact hp
  rcases State.act_cases h with h | h | h | h | h | h | h | h | h | h
  · obtain ⟨_, _, _, _, rfl⟩ := State.actBoundary_eq h; exact .inl ⟨rfl, keep rfl⟩
  · obtain ⟨_, _, rfl⟩ := State.actOffer_eq h; exact .inl ⟨rfl, keep rfl⟩
  · obtain ⟨_, _, _, rfl⟩ | ⟨_, rfl⟩ := State.actSlots_eq h <;> exact .inl ⟨rfl, keep rfl⟩
  · obtain ⟨_, rfl⟩ := State.actFence_eq h
    exact .inl ⟨State.sparing_endOrder _ _ _, keep (State.drives_endOrder _ _ _)⟩
  · obtain ⟨_, rfl⟩ | ⟨_, _, _, rfl⟩ := State.actEnding_eq h <;> exact .inl ⟨rfl, keep rfl⟩
  · unfold State.actCandidate at h
    split at h
    · next hf =>
      obtain ⟨b, hb, rfl⟩ := Option.map_eq_some_iff.mp h
      obtain ⟨e, he, hel⟩ := bestCandidate_mem hb
      exact .inr (.inl ⟨hf, b.2, e, he, (State.eligible_iff hel).1, rfl⟩)
    · cases h
  · obtain ⟨d, hsel⟩ := State.actSelect_eq h
    by_cases hn : (s.drive d).cur.isSome = false ∧ (s.drive d).nextInternal = some .reassign
    · obtain ⟨hst, hp⟩ := Drive.nextInternal_reassign hn.2
      refine .inr (.inr ⟨d, hst, hp, hsel, ?_⟩)
      unfold State.select at hsel
      rw [if_neg (by rw [hn.1]; decide), hn.2] at hsel
      exact (Option.some.inj hsel).symm
    · refine .inl ⟨?_, fun e he => ?_⟩
      · unfold State.select at hsel
        split at hsel
        · cases hsel
        · next hcur =>
          split at hsel
          · next k hk =>
            cases hsel
            have hkr : k ≠ .reassign := by
              rintro rfl
              exact hn ⟨by simpa using hcur, hk⟩
            unfold State.startInternal
            cases k with
            | recalibrate => simp
            | mapLoad => simp [State.sparing_startMapLoad]
            | mapWrite => simp [State.sparing_startMapWrite]
            | reassign => exact absurd rfl hkr
            | _ => rfl
          · obtain ⟨c, _, rfl⟩ := Option.map_eq_some_iff.mp hsel
            exact State.sparing_takeEntry _ _ _ _
      · by_cases hed : e = d
        · subst hed
          exact (Fits.select (a := False) hsel False.elim).reassign he
        · rwa [State.drive_of_others (State.others_select hsel) hed] at he
  · obtain ⟨_, d, rfl | ⟨op, _, ⟨_, rfl⟩ | rfl⟩⟩ := State.actGrant_eq h
    · exact .inl ⟨rfl, keepMod d _ rfl fun _ => rfl⟩
    · refine .inl ⟨?_, keepMod d (fun x => { x with request := false }) (State.drives_takePlace _ _) fun _ => rfl⟩
      unfold State.grant State.takePlace State.ringTake State.setSlotState
      dsimp only
      split
      · split <;> rfl
      · split <;> rfl
      all_goals rfl
    · refine .inl ?_
      unfold State.countMiss at keepMod ⊢
      split at keepMod
      · exact ⟨rfl, keepMod d (fun x => { x with request := false, tally := x.tally.raiseRingMisses }) (by simp [State.tallyDrive, State.modDrive])
          fun _ => rfl⟩
      · exact ⟨rfl, keepMod d (fun x => { x with request := false, tally := x.tally.raiseSlotMisses }) (by simp [State.tallyDrive, State.modDrive])
          fun _ => rfl⟩
      all_goals exact ⟨rfl, keepMod d (fun x => { x with request := false }) rfl fun _ => rfl⟩
  · obtain ⟨d, _, rfl⟩ := State.actSpin_eq h
    refine .inl ⟨rfl, ?_⟩
    unfold State.enterSpinningUp at keepMod ⊢
    rw [State.setDriveState_toState, State.modDrive_modDrive] at keepMod ⊢
    refine keepMod d _ rfl ?_
    exact fun _ => rfl
  · obtain ⟨_, _, h⟩ := State.actSend_eq h
    cases h <;> exact .inl ⟨rfl, keep rfl⟩


theorem State.takeCandidate_eq {i : Nat} {f : WatchEntry} (h : watchEntry s.watch i = some f) : s.takeCandidate i =
    (s.setEngine { ReassignEngine.initial with state := .taken, slot := some i }).modDrive f.drive fun x => { x with pendReassign := true } := by
  unfold State.takeCandidate
  rw [h]

/-- With the engine FREE no REASSIGN is queued. -/
theorem State.Pledged.free (h : s.Pledged) (hf : s.reassign.state ≠ .taken) (d : DriveId) : (s.drive d).pendReassign = false := by
  cases hp : (s.drive d).pendReassign
  · rfl
  · exact absurd (h d hp).1 hf

theorem State.Pledged.act (h : s.Pledged) (hs : s.act = some t) : t.Pledged := by
  rcases State.act_engine hs with ⟨hw, hq⟩ | ⟨hf, i, f, hi, hc, rfl⟩ | ⟨d, -, hp, hsel, heq⟩
  · intro d hd
    have hwatch : t.watch = s.watch := (congrArg Prod.fst hw :)
    have hengine : t.reassign = s.reassign := (congrArg Prod.snd hw :)
    rw [hwatch, hengine]
    exact h d (hq d hd)
  · have hno := h.free (by rw [hf]; decide)
    intro d hd
    rw [State.takeCandidate_eq hi, State.drive_modDrive] at hd
    split at hd
    · next hdf =>
      rw [State.takeCandidate_eq hi]
      exact ⟨rfl, i, f, rfl, hi, hc, hdf.symm⟩
    · exact absurd hd (by simp [hno d])
  · obtain ⟨-, i, f, hi, hf, -, hfd⟩ := h d hp
    intro c hc
    exfalso
    by_cases hcd : c = d
    · subst hcd
      have hfit : Fits False c (s.modDrive c fun x => { x with pendReassign := false }) t := heq ▸ (Fits.refl _).startReassign
      have := hfit.reassign hc
      rw [State.drive_modDrive_self] at this
      cases this
    · rw [State.drive_of_others (State.others_select hsel) hcd] at hc
      obtain ⟨-, j, f', hj, hf', -, hfc⟩ := h c hc
      rw [hi] at hj
      cases hj
      rw [hf] at hf'
      cases hf'
      exact hcd (hfc.symm.trans hfd)

/-- R127, R128: an entry that stands is left as it is by an immediate action. -/
theorem State.Pledged.watch_act (h : s.Pledged) (hs : s.act = some t) {j : Nat} {f : WatchEntry} (hj : s.watch[j]? = some (.entry f))
    (hf : s.Stands f) : t.watch[j]? = some (.entry f) ∧ t.Stands f := by
  refine ⟨?_, hf.imp id fun hn hr => hn (State.act_ready hs hr)⟩
  rcases State.act_engine hs with ⟨hw, -⟩ | ⟨-, i, c, hi, -, rfl⟩ | ⟨d, hst, hp, -, rfl⟩
  · have hwatch : t.watch = s.watch := (congrArg Prod.fst hw :)
    rwa [hwatch]
  · rw [State.takeCandidate_eq hi]
    exact hj
  · obtain ⟨-, i, c, hi, hc, hcand, hcd⟩ := h d hp
    rcases State.startReassign_watch (s.modDrive d fun x => { x with pendReassign := false }) d with hw | ⟨i', c', w, hi', hc', -, hw⟩
    · rw [hw]
      exact hj
    · have hii : i' = i := Option.some.inj (hi'.symm.trans hi)
      have hij : i ≠ j := by
        rintro rfl
        have := watchEntry_of hj
        rw [hc] at this
        cases this
        exact hf.elim (fun hn => hn hcand) fun hn => hn (by rw [hcd]; exact hst)
      rw [hw, hii, List.getElem?_set_ne hij]
      exact hj

/-- R127, R128: an entry that stands is left as it is by the immediate actions. -/
theorem settle_stands (n : Nat) (h : s.Pledged) {j : Nat} {f : WatchEntry} (hj : s.watch[j]? = some (.entry f)) (hf : s.Stands f) :
    (settle n s).watch[j]? = some (.entry f) :=
  (settle_rel (P := fun u v => u.Pledged ∧ u.watch[j]? = some (.entry f) ∧ u.Stands f →
      v.Pledged ∧ v.watch[j]? = some (.entry f) ∧ v.Stands f)
    (fun _ => id) (fun _ _ _ h1 h2 => h2 ∘ h1) (fun _ _ hs hu => ⟨hu.1.act hs, hu.1.watch_act hs hu.2.1 hu.2.2⟩) n s ⟨h, hj, hf⟩).2.1

/-- The immediate actions bring no entry of another drive to the list. -/
theorem settle_named (n : Nat) (s : State) : NamedIn s.watch (settle n s).watch := by
  refine settle_rel (P := fun u v => NamedIn u.watch v.watch) (fun _ f hf => ⟨f, hf, rfl⟩) (fun _ _ _ h1 h2 f hf => ?_)
    (fun u v hs f hf => ?_) n s
  · obtain ⟨f', hf', hd⟩ := h2 f hf
    obtain ⟨f'', hf'', hd'⟩ := h1 f' hf'
    exact ⟨f'', hf'', hd'.trans hd⟩
  rcases State.act_engine hs with ⟨hw, -⟩ | ⟨-, i, c, hi, -, rfl⟩ | ⟨d, -, -, -, rfl⟩
  · have hwatch : v.watch = u.watch := (congrArg Prod.fst hw :)
    exact ⟨f, hwatch ▸ hf, rfl⟩
  · rw [State.takeCandidate_eq hi] at hf
    exact ⟨f, hf, rfl⟩
  · rcases State.startReassign_watch (u.modDrive d fun x => { x with pendReassign := false }) d with hw | ⟨i, c, w, -, hc, hwc, hw⟩
    · rw [hw] at hf
      exact ⟨f, hf, rfl⟩
    · rw [hw] at hf
      rcases List.mem_or_eq_of_mem_set hf with hf | hf
      · exact ⟨f, hf, rfl⟩
      · rcases hwc with rfl | rfl
        · cases hf
        · cases hf
          exact ⟨c, List.mem_of_getElem? (watchEntry_eq hc), rfl⟩

/-! ## A drive on which nothing may run (R100) -/

/-- The drive states in which no operation of a host may run but a destructive SURFACE VERIFY, and no MAP LOAD or REASSIGN. -/
def idleStates : List DriveState := [.absent, .waitingSpin, .spinningUp, .notReady, .fenced, .mapLost]

/-- The map of a drive: entries, pool and state. -/
def Drive.stock (x : Drive) : List SpareEntry × List PoolState × MapState := (x.spare, x.pool, x.mapState)

/-- No order in the queue of a drive is a SURFACE VERIFY. -/
def State.noSurface (s : State) (d : DriveId) : Prop :=
  ∀ p g o, (s.port p).slots.get g = some o → o.oid ∈ (s.drive d).queue → o.kind ≠ .surfaceVerify

/-- Nothing on the drive may run: its state, its pending operations and its queue leave nothing to select; and a spin-up would not change
its map. -/
structure State.Rests (s : State) (d : DriveId) : Prop where
  state : (s.drive d).state ∈ idleStates
  recal : (s.drive d).pendRecal = false
  write : (s.drive d).pendWrite = false
  surface : s.noSurface d
  empty : (s.drive d).state = .waitingSpin → (s.drive d).emptyMap.stock = (s.drive d).stock

theorem State.hostEligible_idle {o : Order} (h : (s.drive d).state ∈ idleStates) (hk : o.kind ≠ .surfaceVerify) :
    s.hostEligible d o = false := by
  unfold State.hostEligible
  split <;> simp_all [idleStates]

theorem State.Rests.select (h : s.Rests d) : s.select d = none := by
  have hstate := h.state
  have hi : (s.drive d).nextInternal = none := by
    have hlr : (s.drive d).internalEligible .mapLoad = false ∧ (s.drive d).internalEligible .reassign = false := by
      unfold Drive.internalEligible
      cases hst : (s.drive d).state <;> first | exact ⟨rfl, rfl⟩ | (rw [hst] at hstate; exact absurd hstate (by decide))
    simp [Drive.nextInternal, h.recal, h.write, hlr]
  have he : s.eligibleEntries d = [] := by
    unfold State.eligibleEntries
    rw [List.filterMap_eq_nil_iff]
    intro oid hq
    split
    · next c hc =>
      obtain ⟨g, hg⟩ := State.mem_orderList.mp (List.mem_of_find?_eq_some hc)
      have hk := h.surface c.1 g c.2 hg (by rw [State.findOrder_oid hc]; exact hq)
      exact if_neg (by rw [State.hostEligible_idle hstate hk]; decide)
    · rfl
  unfold State.select
  split
  · rfl
  · rw [hi]
    simp [he, State.chooseEntry, State.nearest]

/-- The orders of a state were there, with their kinds. -/
def OrdersFrom (s t : State) : Prop :=
  ∀ p g o, (t.port p).slots.get g = some o → ∃ o', (s.port p).slots.get g = some o' ∧ o'.oid = o.oid ∧ o'.kind = o.kind

theorem OrdersFrom.of_base (h : ∀ p g, ((t.port p).slots.get g).map Order.base = ((s.port p).slots.get g).map Order.base) : OrdersFrom s t := by
  intro p g o ho
  have hb := h p g
  rw [ho] at hb
  obtain ⟨o', ho', he⟩ := Option.map_eq_some_iff.mp hb.symm
  exact ⟨o', ho', (congrArg Order.oid he :), (congrArg Order.kind he :)⟩

theorem OrdersFrom.act (h : s.act = some t) : OrdersFrom s t := .of_base fun p g => by
  have hs := settle_slot 1 s p g
  simpa [settle, h] using hs

theorem State.noSurface.of_orders (h : s.noSurface d) (ho : OrdersFrom s t) (hq : (t.drive d).queue = (s.drive d).queue) : t.noSurface d := by
  intro p g o hg hm
  obtain ⟨o', hg', hoid, hk⟩ := ho p g o hg
  rw [← hk]
  exact h p g o' hg' (by rwa [hoid, ← hq])

/-- What an immediate action leaves of a drive that rests. -/
structure Drive.Rested (x y : Drive) : Prop where
  queue : y.queue = x.queue
  recal : y.pendRecal = x.pendRecal
  write : y.pendWrite = x.pendWrite
  chan : y.chan = x.chan
  stock : y.stock = x.stock
  geom : y.geom = x.geom
  state : y.state = x.state ∨ y.state = .spinningUp

theorem State.Rests.rested (h : s.Rests d) (hs : s.act = some t) : (s.drive d).Rested (t.drive d) := by
  rcases State.act_drives hs with hd | ⟨e, hd⟩ | ⟨e, hsel⟩ | ⟨e, f, hd⟩ | ⟨e, hw, rfl⟩
  · rw [State.drive_eq_of_drives hd]
    exact ⟨rfl, rfl, rfl, rfl, rfl, rfl, .inl rfl⟩
  · rw [State.drive_eq_of_drives hd, State.drive_modDrive]
    split <;> exact ⟨rfl, rfl, rfl, rfl, rfl, rfl, .inl rfl⟩
  · have hne : d ≠ e := by
      rintro rfl
      rw [h.select] at hsel
      cases hsel
    rw [State.drive_of_others (State.others_select hsel) hne]
    exact ⟨rfl, rfl, rfl, rfl, rfl, rfl, .inl rfl⟩
  · rw [State.drive_eq_of_drives hd, State.drive_modDrive]
    split <;> exact ⟨rfl, rfl, rfl, rfl, rfl, rfl, .inl rfl⟩
  · unfold State.enterSpinningUp
    rw [State.setDriveState_toState, State.modDrive_modDrive, State.drive_modDrive]
    split
    · next hde =>
      subst hde
      exact ⟨rfl, rfl, rfl, rfl, h.empty hw, rfl, .inr rfl⟩
    · exact ⟨rfl, rfl, rfl, rfl, rfl, rfl, .inl rfl⟩

theorem State.Rests.act (h : s.Rests d) (hs : s.act = some t) : t.Rests d := by
  have hr := h.rested hs
  refine ⟨?_, hr.recal.trans h.recal, hr.write.trans h.write, h.surface.of_orders (.act hs) hr.queue, fun hw => ?_⟩
  · rcases hr.state with hst | hst <;> rw [hst]
    · exact h.state
    · decide
  · have hst : (s.drive d).state = .waitingSpin := by
      rcases hr.state with hst | hst <;> rw [hst] at hw
      · exact hw
      · cases hw
    have hp : (t.drive d).emptyMap.stock = (s.drive d).emptyMap.stock := by
      simp [Drive.emptyMap, Drive.stock, Drive.freshPool, hr.geom]
    rw [hp, h.empty hst, hr.stock]

/-- The immediate actions leave the channel, the pending operations and the map of a drive that rests. -/
theorem State.Rests.settle (h : s.Rests d) (n : Nat) : ((settle n s).drive d).chan = (s.drive d).chan ∧
    ((settle n s).drive d).pendRecal = (s.drive d).pendRecal ∧ ((settle n s).drive d).stock = (s.drive d).stock :=
  (settle_rel (P := fun u v => u.Rests d → v.Rests d ∧ (v.drive d).chan = (u.drive d).chan ∧
      (v.drive d).pendRecal = (u.drive d).pendRecal ∧ (v.drive d).stock = (u.drive d).stock)
    (fun _ hu => ⟨hu, rfl, rfl, rfl⟩)
    (fun _ _ _ h1 h2 hu => by
      obtain ⟨r1, c1, p1, k1⟩ := h1 hu
      obtain ⟨r2, c2, p2, k2⟩ := h2 r1
      exact ⟨r2, c2.trans c1, p2.trans p1, k2.trans k1⟩)
    (fun _ _ hs hu => ⟨hu.act hs, (hu.rested hs).chan, (hu.rested hs).recal, (hu.rested hs).stock⟩) n s h).2

end Sys2Proof.Machine
end


section
/-! A PUT to a slot of the spare map (R67). -/

namespace Sys2Proof.Machine

-- One declaration after the other: in parallel the one compile of the whole text runs out of threads.
set_option Elab.async false

variable {b : List Byte} {x : Drive} {g : Geometry}

/-! ## The entry of a slot, and the pool -/

theorem Drive.slotEntry_slot {i : Nat} {c : SpareEntry} (h : x.slotEntry i = some c) : c.slot = i ∧ c ∈ x.spare :=
  ⟨by simpa using List.find?_some h, List.mem_of_find?_eq_some h⟩

theorem find_putEntry (l : List SpareEntry) (c : SpareEntry) (j : Nat) : (putEntry l c).find? (fun e => e.slot = j) =
    if j = c.slot then some c else l.find? fun e => e.slot = j := by
  induction l with
  | nil =>
    unfold putEntry
    by_cases hj : j = c.slot <;> simp [hj, eq_comm]
  | cons a l ih =>
    unfold putEntry
    split
    · by_cases hj : j = c.slot
      · simp [hj]
      · rw [List.find?_cons_of_neg (by simpa using fun h => hj h.symm), if_neg hj]
    · next hlt =>
      split
      · next heq =>
        by_cases hj : j = c.slot
        · simp [hj]
        · rw [List.find?_cons_of_neg (by simpa using fun h => hj h.symm), if_neg hj,
            List.find?_cons_of_neg (by simpa [← heq] using fun h => hj h.symm)]
      · next hne =>
        by_cases ha : a.slot = j
        · rw [List.find?_cons_of_pos (by simpa using ha), List.find?_cons_of_pos (by simpa using ha), if_neg (by omega)]
        · rw [List.find?_cons_of_neg (by simpa using ha), List.find?_cons_of_neg (by simpa using ha), ih]

theorem Drive.slotEntry_storeEntry (x : Drive) (c : SpareEntry) (j : Nat) :
    (x.storeEntry c).slotEntry j = if j = c.slot then some c else x.slotEntry j := find_putEntry x.spare c j

theorem Drive.slotEntry_removeSlot (x : Drive) (c : SpareEntry) (j : Nat) :
    (x.removeSlot c).slotEntry j = if j = c.slot then none else x.slotEntry j := by
  unfold Drive.slotEntry Drive.removeSlot
  rw [List.find?_filter]
  split
  · next hj =>
    rw [List.find?_eq_none]
    intro a _
    simp [hj]
  · next hj =>
    congr 1
    funext a
    by_cases ha : a.slot = j
    · simp [ha, hj]
    · simp [ha]

theorem Drive.pool_markTrack (hg : x.geom = some g) (k : Track) (st : PoolState) :
    (x.markTrack k st).pool = x.pool.set (g.trackPos k) st := by
  unfold Drive.markTrack
  rw [hg]

theorem Drive.pool_storeEntry_same (hg : x.geom = some g) (c : SpareEntry) (h : ∀ o, x.slotEntry c.slot = some o → o.alt = c.alt) :
    (x.storeEntry c).pool = x.pool.set (g.trackPos c.alt) .inUse := by
  unfold Drive.storeEntry
  dsimp only
  split
  · next o ho =>
    rw [if_pos (h o ho)]
    exact Drive.pool_markTrack hg _ _
  · exact Drive.pool_markTrack hg _ _

theorem Drive.pool_storeEntry_other (hg : x.geom = some g) (c : SpareEntry) {o : SpareEntry} (ho : x.slotEntry c.slot = some o)
    (hne : o.alt ≠ c.alt) : (x.storeEntry c).pool = (x.pool.set (g.trackPos o.alt) .free).set (g.trackPos c.alt) .inUse := by
  unfold Drive.storeEntry
  dsimp only
  rw [ho]
  dsimp only
  rw [if_neg hne, Drive.pool_markTrack ((Drive.Still.markTrack x o.alt .free).geom.trans hg), Drive.pool_markTrack hg]

/-- R67: what a PUT does to a slot: nothing to an empty one, the entry removed, nothing where it holds the entry put, or the entry stored. -/
theorem Drive.putSlot_cases (x : Drive) (i : Nat) (b : List Byte) :
    (b = [] ∧ x.slotEntry i = none ∧ x.putSlot i b = x) ∨
      (∃ o, b = [] ∧ x.slotEntry i = some o ∧ x.putSlot i b = (x.removeSlot o).mapChanged) ∨
      (b ≠ [] ∧ x.slotEntry i = some (loadedEntry i b) ∧ x.putSlot i b = x) ∨
      (b ≠ [] ∧ x.slotEntry i ≠ some (loadedEntry i b) ∧ x.putSlot i b = (x.storeEntry (loadedEntry i b)).mapChanged) := by
  cases b with
  | nil =>
    cases ho : x.slotEntry i with
    | none => exact .inl ⟨rfl, rfl, by simp [Drive.putSlot, ho]⟩
    | some o => exact .inr (.inl ⟨o, rfl, rfl, by simp [Drive.putSlot, ho]⟩)
  | cons a l =>
    refine .inr (.inr ?_)
    by_cases ho : x.slotEntry i = some (loadedEntry i (a :: l))
    · exact .inl ⟨nofun, ho, by unfold Drive.putSlot; dsimp only; rw [if_pos ho]⟩
    · exact .inr ⟨nofun, ho, by unfold Drive.putSlot; dsimp only; rw [if_neg ho]⟩

/-- R67: what a PUT leaves of the map: its entry, if any, in the slot and the alternate IN USE, another alternate the slot held FREE, and
all else as it was. -/
structure SlotPut (x y : Drive) (g : Geometry) (i : Nat) (put : Option SpareEntry) : Prop where
  slot : y.slotEntry i = put
  stored : ∀ n, put = some n → y.pool[g.trackPos n.alt]? = some .inUse
  freed : ∀ c, x.slotEntry i = some c → (∀ n, put = some n → c.alt ≠ n.alt) → y.pool[g.trackPos c.alt]? = some .free
  slots : ∀ j, j ≠ i → y.slotEntry j = x.slotEntry j
  pool : ∀ p, (∀ n, put = some n → p ≠ g.trackPos n.alt) → (∀ c, x.slotEntry i = some c → p ≠ g.trackPos c.alt) →
    y.pool[p]? = x.pool[p]?
  mapState : y.mapState = if y.slotEntry i = x.slotEntry i then x.mapState else .dirty

theorem Drive.mapLaw.inUse (h : x.mapLaw g) {i : Nat} {c : SpareEntry} (hc : x.slotEntry i = some c) :
    x.pool[g.trackPos c.alt]? = some .inUse := (h.named _).mpr ⟨c, (Drive.slotEntry_slot hc).2, rfl⟩

theorem getElem?_set_of {l : List PoolState} {p : Nat} {st st' : PoolState} (h : l[p]? = some st) : (l.set p st')[p]? = some st' :=
  List.getElem?_set_self (List.getElem?_eq_some_iff.mp h).1

/-- A PUT of what the slot holds changes nothing. -/
theorem SlotPut.refl (h : x.mapLaw g) (i : Nat) : SlotPut x x g i (x.slotEntry i) where
  slot := rfl
  stored _ hn := h.inUse hn
  freed c hc hne := absurd rfl (hne c hc)
  slots _ _ := rfl
  pool _ _ _ := rfl
  mapState := (if_pos rfl).symm

theorem SlotPut.removeSlot (hg : x.geom = some g) (h : x.mapLaw g) {o : SpareEntry} (ho : x.slotEntry o.slot = some o) :
    SlotPut x (x.removeSlot o).mapChanged g o.slot none := by
  have hpool : ((x.removeSlot o).mapChanged).pool = x.pool.set (g.trackPos o.alt) .free := Drive.pool_markTrack hg _ _
  have hslot : ∀ j, ((x.removeSlot o).mapChanged).slotEntry j = if j = o.slot then none else x.slotEntry j := x.slotEntry_removeSlot o
  refine ⟨by rw [hslot, if_pos rfl], nofun, fun c hc _ => ?_, fun j hj => by rw [hslot, if_neg hj], fun p _ hpo => ?_, ?_⟩
  · rw [ho] at hc
    cases hc
    rw [hpool]
    exact getElem?_set_of (h.inUse ho)
  · rw [hpool, List.getElem?_set_ne (hpo o ho).symm]
  · rw [hslot, if_pos rfl, ho, if_neg nofun]
    rfl

/-- R67: the alternate of an entry that is stored is FREE, or the one its slot holds. -/
theorem Drive.entryBad_alt {n : SpareEntry} (h : x.entryBad g n = false) :
    x.pool[g.trackPos n.alt]? = some .free ∨ ∃ o, x.slotEntry n.slot = some o ∧ o.alt = n.alt := by
  simp only [Drive.entryBad, Bool.or_eq_false_iff, Bool.and_eq_false_iff, decide_eq_false_iff_not, not_not] at h
  exact h.2.imp id fun hs => Option.map_eq_some_iff.mp hs

theorem SlotPut.storeEntry (hg : x.geom = some g) (h : x.mapLaw g) {n : SpareEntry} (hn : x.slotEntry n.slot ≠ some n)
    (hbad : x.entryBad g n = false) : SlotPut x (x.storeEntry n).mapChanged g n.slot (some n) := by
  have hslot : ∀ j, ((x.storeEntry n).mapChanged).slotEntry j = if j = n.slot then some n else x.slotEntry j := x.slotEntry_storeEntry n
  have hmap : ((x.storeEntry n).mapChanged).mapState =
      if ((x.storeEntry n).mapChanged).slotEntry n.slot = x.slotEntry n.slot then x.mapState else .dirty := by
    rw [hslot, if_pos rfl, if_neg fun h => hn h.symm]
    rfl
  by_cases hsame : ∀ o, x.slotEntry n.slot = some o → o.alt = n.alt
  · have hpool : ((x.storeEntry n).mapChanged).pool = x.pool.set (g.trackPos n.alt) .inUse := Drive.pool_storeEntry_same hg n hsame
    obtain ⟨st, hst⟩ : ∃ st, x.pool[g.trackPos n.alt]? = some st := by
      rcases Drive.entryBad_alt hbad with hs | ⟨o, ho, halt⟩
      · exact ⟨_, hs⟩
      · exact ⟨_, halt ▸ h.inUse ho⟩
    refine ⟨by rw [hslot, if_pos rfl], fun _ hm => ?_, fun c hc hne => absurd (hsame c hc) (hne n rfl), fun j hj => by rw [hslot, if_neg hj],
      fun p hp _ => ?_, hmap⟩
    · cases hm
      rw [hpool]
      exact getElem?_set_of hst
    · rw [hpool, List.getElem?_set_ne (hp n rfl).symm]
  · push Not at hsame
    obtain ⟨o, hoe, hne⟩ := hsame
    have hpool : ((x.storeEntry n).mapChanged).pool = (x.pool.set (g.trackPos o.alt) .free).set (g.trackPos n.alt) .inUse :=
      Drive.pool_storeEntry_other hg n hoe hne
    have hfree : x.pool[g.trackPos n.alt]? = some .free := (Drive.entryBad_alt hbad).resolve_right fun ⟨o', ho', halt⟩ => by
      rw [hoe] at ho'
      exact hne (Option.some.inj ho' ▸ halt)
    have hpos : g.trackPos n.alt ≠ g.trackPos o.alt := fun heq => by
      have := h.inUse hoe
      rw [← heq, hfree] at this
      cases this
    refine ⟨by rw [hslot, if_pos rfl], fun _ hm => ?_, fun c hc _ => ?_, fun j hj => by rw [hslot, if_neg hj], fun p hp hpo => ?_, hmap⟩
    · cases hm
      rw [hpool]
      exact getElem?_set_of ((List.getElem?_set_ne hpos.symm).trans hfree)
    · rw [hoe] at hc
      cases hc
      rw [hpool, List.getElem?_set_ne hpos]
      exact getElem?_set_of (h.inUse hoe)
    · rw [hpool, List.getElem?_set_ne (hp n rfl).symm, List.getElem?_set_ne (hpo o hoe).symm]

/-- R67: the entry a PUT carries, none with an empty body. -/
def putEntryOf (i : Nat) (b : List Byte) : Option SpareEntry := if b = [] then none else some (loadedEntry i b)

theorem SlotPut.putSlot (hg : x.geom = some g) (h : x.mapLaw g) (i : Nat) (b : List Byte)
    (hb : b ≠ [] → x.entryBad g (loadedEntry i b) = false) : SlotPut x (x.putSlot i b) g i (putEntryOf i b) := by
  unfold putEntryOf
  rcases x.putSlot_cases i b with ⟨hb0, ho, hp⟩ | ⟨o, hb0, ho, hp⟩ | ⟨hb0, ho, hp⟩ | ⟨hb0, ho, hp⟩ <;> rw [hp]
  · rw [if_pos hb0, ← ho]
    exact .refl h i
  · obtain ⟨rfl, -⟩ := Drive.slotEntry_slot ho
    rw [if_pos hb0]
    exact .removeSlot hg h ho
  · rw [if_neg hb0, ← ho]
    exact .refl h i
  · rw [if_neg hb0]
    exact .storeEntry hg h ho (hb hb0)

end Sys2Proof.Machine
end


section
/-! TABLE PUT (R164 to R168): what an accepted PUT has found, and what its effect changes. -/

namespace Sys2Proof.Machine

-- One declaration after the other: in parallel the one compile of the whole text runs out of threads.
set_option Elab.async false

variable {s t u z : State} {d e : DriveId} {f : OrderFrame} {tag : Tag} {k : TableId} {w : Window} {b : List Byte} {x : Drive} {g : Geometry}

/-! ## What the checks of an accepted PUT have found (R164 to R168) -/

theorem Accepted.putRefusal (h : Accepted s .tablePut f tag) :
    ∃ k, (s.port f.port).window.table = some k ∧ s.putRefusal (s.port f.port).window k f.body = none := by
  have hj := h.checks
  unfold State.judge at hj
  split at hj
  · cases hj
  split at hj
  · cases hj
  split at hj
  · cases hj
  rw [if_neg (by decide)] at hj
  simp only [State.judgeTable, State.tablePutRefusal] at hj
  split at hj
  · cases hj
  · next k hk =>
    split at hj
    · cases hj
    split at hj
    · cases hj
    exact ⟨k, hk, hj⟩

/-- R166: the drive is FENCED or its geometry unset, nothing is current, no MAP WRITE pending and no SURFACE VERIFY queued. -/
theorem State.putRefusal_geometry (h : s.putRefusal w .geometry b = none) :
    ((s.drive (driveOf w.index)).state = .fenced ∨ (s.drive (driveOf w.index)).geom = none) ∧
      (s.drive (driveOf w.index)).cur = none ∧ (s.drive (driveOf w.index)).pendWrite = false ∧
      s.surfaceQueued (driveOf w.index) = false := by
  simp only [State.putRefusal, State.geometryRefusal] at h
  split at h
  · cases h
  next ho =>
  simp only [State.geometryOpen, Bool.not_eq_true', Bool.not_eq_false, Bool.and_eq_true, Bool.or_eq_true, decide_eq_true_eq,
    Option.isNone_iff_eq_none] at ho
  obtain ⟨⟨⟨hs, hc⟩, hw⟩, hq⟩ := ho
  exact ⟨hs, hc, hw, hq⟩

/-- R67: the drive is FENCED or MAP LOST, has a geometry, and no SURFACE VERIFY is queued on it. -/
theorem State.mapEditable_spec (h : s.mapEditable d = true) :
    ((s.drive d).state = .fenced ∨ (s.drive d).state = .mapLost) ∧ s.surfaceQueued d = false := by
  simp only [State.mapEditable, Bool.and_eq_true, Bool.or_eq_true, decide_eq_true_eq, Bool.not_eq_true'] at h
  obtain ⟨⟨⟨hs, -⟩, -⟩, hq⟩ := h
  exact ⟨hs, hq⟩

theorem State.putRefusal_spareMap (h : s.putRefusal w .spareMap b = none) :
    s.mapEditable w.drive = true ∧
      ∀ g, (s.drive w.drive).geom = some g → b ≠ [] → (s.drive w.drive).entryBad g (loadedEntry w.index b) = false := by
  simp only [State.putRefusal, State.spareRefusal] at h
  split at h
  · cases h
  next hm =>
  refine ⟨by simpa using hm, fun g hg hb => ?_⟩
  rw [hg] at h
  dsimp only at h
  split at h
  · cases h
  · next hbad => simpa [hb] using hbad

theorem State.putRefusal_alternatePool (h : s.putRefusal w .alternatePool b = none) :
    s.mapEditable w.drive = true ∧ ∃ st, poolPutState b = some st := by
  simp only [State.putRefusal, State.poolRefusal] at h
  split at h
  · cases h
  next hm =>
  refine ⟨by simpa using hm, ?_⟩
  split at h
  · cases h
  · split at h
    · cases h
    · next hbad =>
      simp only [not_or, Bool.not_eq_true, Option.isNone_eq_false_iff] at hbad
      exact Option.isSome_iff_exists.mp hbad.2.2.2

theorem State.putRefusal_portAccess (h : s.putRefusal w .portAccess b = none) : ∃ a, PortAccess.decode b = some a := by
  simp only [State.putRefusal] at h
  split at h
  · cases h
  · next a ha => exact ⟨a, ha⟩

theorem State.noSurface_of (hn : s.numberLaw) (h : s.surfaceQueued d = false) : s.noSurface d := by
  intro p g o ho hq hk
  have hf := State.findOrder_of hn ho
  have : s.surfaceQueued d = true := List.any_eq_true.mpr ⟨o.oid, hq, by simp [hf, hk]⟩
  rw [h] at this
  cases this

/-! ## What each table's entry changes -/

theorem State.drive_putPortAccess (s : State) (q : Port) (a : PortAccess) (d : DriveId) : (s.putPortAccess q a).drive d =
    if (s.drive d).holder = some q ∧ d ∉ a.names then { s.drive d with holder := none } else s.drive d := Oct.get_of _ _

theorem State.access_putPortAccess (s : State) (q : Port) (a : PortAccess) (p : Port) :
    ((s.putPortAccess q a).port p).access = if p = q then a else (s.port p).access := by
  split
  · next hp => subst hp; simp [State.putPortAccess, State.port, State.modPort]
  · next hp => simp [State.putPortAccess, State.port, State.modPort, Quad.get_set_ne _ _ hp]

/-- R44, R47, R166: a drive with a channel whose geometry has been stored. -/
def Drive.geometryPut (g : Geometry) (x : Drive) : Drive :=
  let y := { x with chan := x.chan.stop, pendRecal := false, geom := some g, geomLater := false, policy := x.policy.within g.s }
  if (x.geom.map fun h => g.sameDivision h).getD false = true then y else y.emptyMap

theorem State.drive_newGeometry (s : State) (d e : DriveId) (g : Geometry) :
    (s.newGeometry d g).drive e = if e = d then (s.drive d).geometryPut g else s.drive e := by
  unfold State.newGeometry State.stopChannel State.modChan Drive.geometryPut State.forgetDrive
  dsimp only
  by_cases he : e = d
  · subst he
    split <;> simp [State.drive, State.modDrive]
  · rw [if_neg he]
    split <;> simp [State.drive, State.modDrive, Oct.get_set_ne _ _ he]

/-- R47: the watch list a stored geometry leaves. -/
theorem State.watch_newGeometry (s : State) (d : DriveId) (g : Geometry) : (s.newGeometry d g).watch =
    if ((s.drive d).geom.map fun h => g.sameDivision h).getD false = true then s.watch else (s.forgetDrive d).watch := by
  unfold State.newGeometry
  dsimp only
  split <;> rfl

theorem Geometry.sameDivision_iff : (x.geom.map fun h => g.sameDivision h).getD false = true ↔
    ∃ h, x.geom = some h ∧ g.type = h.type ∧ g.c = h.c ∧ g.h = h.h ∧ g.s = h.s ∧ g.a = h.a := by
  cases hx : x.geom with
  | none => simp
  | some h => simp [Geometry.sameDivision, and_assoc]

/-- What a stored entry leaves of the controller beside its table. -/
structure PutKeeps (s v : State) : Prop where
  media : v.media = s.media
  plugs : v.plugs = s.plugs
  clock : v.clock = s.clock
  startCause : v.startCause = s.startCause
  nextOid : v.nextOid = s.nextOid
  reassign : v.reassign = s.reassign
  counter : ∀ d, (v.drive d).counter = (s.drive d).counter
  port : ∀ p, ∃ a n, v.port p = { s.port p with access := a, notices := n }

theorem PutKeeps.refl (s : State) : PutKeeps s s := ⟨rfl, rfl, rfl, rfl, rfl, rfl, fun _ => rfl, fun _ => ⟨_, _, rfl⟩⟩

theorem PutKeeps.modDrive (s : State) (d : DriveId) (f : Drive → Drive) (hf : (f (s.drive d)).counter = (s.drive d).counter := by rfl) :
    PutKeeps s (s.modDrive d f) :=
  ⟨rfl, rfl, rfl, rfl, rfl, rfl, fun e => by rw [State.drive_modDrive]; split <;> [(next he => subst he; exact hf); rfl], fun _ => ⟨_, _, rfl⟩⟩

theorem PutKeeps.trans (h1 : PutKeeps s t) (h2 : PutKeeps t u) : PutKeeps s u :=
  ⟨h2.media.trans h1.media, h2.plugs.trans h1.plugs, h2.clock.trans h1.clock, h2.startCause.trans h1.startCause,
   h2.nextOid.trans h1.nextOid, h2.reassign.trans h1.reassign, fun d => (h2.counter d).trans (h1.counter d), fun p => by
    obtain ⟨a1, n1, h1⟩ := h1.port p
    obtain ⟨a2, n2, h2⟩ := h2.port p
    exact ⟨a2, n2, by rw [h2, h1]⟩⟩

theorem PutKeeps.watch (h : PutKeeps s t) (l : List WatchSlot) : PutKeeps s { t with watch := l } :=
  ⟨h.media, h.plugs, h.clock, h.startCause, h.nextOid, h.reassign, h.counter, h.port⟩

/-- An update of the map and what a change of it raises. -/
def Drive.MapOnly (x y : Drive) : Prop :=
  ∃ sp po ms pw, y = { x with spare := sp, pool := po, mapState := ms, pendWrite := pw } ∧ (pw = true → x.pendWrite = true ∨ x.state = .ready)

theorem Drive.MapOnly.mapChanged {y : Drive} (h : ∃ sp po, y = { x with spare := sp, pool := po }) : x.MapOnly y.mapChanged := by
  obtain ⟨sp, po, rfl⟩ := h
  exact ⟨sp, po, _, _, rfl, fun hw => by simpa using hw⟩

theorem Drive.markTrack_eq (x : Drive) (k : Track) (st : PoolState) : ∃ po, x.markTrack k st = { x with pool := po } := by
  unfold Drive.markTrack
  split <;> exact ⟨_, rfl⟩

theorem Drive.MapOnly.putSlot (x : Drive) (i : Nat) (b : List Byte) : x.MapOnly (x.putSlot i b) := by
  have same : x.MapOnly x := ⟨_, _, _, _, rfl, .inl⟩
  rcases x.putSlot_cases i b with ⟨-, -, h⟩ | ⟨o, -, -, h⟩ | ⟨-, -, h⟩ | ⟨-, -, h⟩ <;> rw [h]
  · exact same
  · refine .mapChanged ?_
    obtain ⟨po, hp⟩ := x.markTrack_eq o.alt .free
    exact ⟨_, po, by unfold Drive.removeSlot; rw [hp]⟩
  · exact same
  · refine .mapChanged ?_
    have key : ∀ y : Drive, (∃ po, y = { x with pool := po }) → ∃ sp po,
        { y.markTrack (loadedEntry i b).alt .inUse with spare := putEntry x.spare (loadedEntry i b) } = { x with spare := sp, pool := po } := by
      rintro y ⟨po, rfl⟩
      obtain ⟨po', hp⟩ := Drive.markTrack_eq { x with pool := po } (loadedEntry i b).alt .inUse
      exact ⟨_, po', by rw [hp]⟩
    refine key _ ?_
    split
    · split
      · exact ⟨_, rfl⟩
      · exact x.markTrack_eq _ _
    · exact ⟨_, rfl⟩

theorem Drive.MapOnly.putPool (x : Drive) (i : Nat) (st : PoolState) : x.MapOnly (x.putPool i st) := by
  unfold Drive.putPool
  split
  · exact ⟨_, _, _, _, rfl, .inl⟩
  · exact .mapChanged ⟨_, _, rfl⟩

theorem PutKeeps.mapOnly (s : State) (d : DriveId) {f : Drive → Drive} (h : (s.drive d).MapOnly (f (s.drive d))) :
    PutKeeps s (s.modDrive d f) := by
  obtain ⟨_, _, _, _, he, -⟩ := h
  exact .modDrive s d f (by rw [he])

theorem PutKeeps.putPortAccess (s : State) (q : Port) (a : PortAccess) : PutKeeps s (s.putPortAccess q a) := by
  refine ⟨rfl, rfl, rfl, rfl, rfl, rfl, fun d => ?_, fun p => ?_⟩
  · rw [State.drive_putPortAccess]
    split <;> rfl
  · by_cases hp : p = q
    · subst hp
      have : (s.putPortAccess p a).port p = _ := Quad.get_set_self ..
      exact ⟨_, _, this⟩
    · exact ⟨_, _, (Quad.get_set_ne _ _ hp).trans rfl⟩

theorem PutKeeps.newGeometry (s : State) (d : DriveId) (g : Geometry) : PutKeeps s (s.newGeometry d g) := by
  have h1 : PutKeeps s ((s.stopChannel d).modDrive d fun x =>
      { x with pendRecal := false, geom := some g, geomLater := false, policy := x.policy.within g.s }) :=
    (PutKeeps.modDrive s d fun x => { x with chan := x.chan.stop }).trans (.modDrive _ d _)
  unfold State.newGeometry
  dsimp only
  split
  · exact h1
  · exact (h1.trans (.modDrive _ d Drive.emptyMap)).watch _

theorem PutKeeps.storePut (s : State) (w : Window) (k : TableId) (b : List Byte) : PutKeeps s (s.storePut w k b).1 := by
  cases k <;> simp only [State.storePut]
  case portAccess =>
    split
    · exact .refl s
    · exact .putPortAccess s _ _
  case geometry =>
    unfold State.putGeometry
    split
    · exact .newGeometry s _ _
    · exact .modDrive s _ _
  case motionProfile => exact .modDrive s _ _
  case sparingPolicy => exact (PutKeeps.modDrive s _ _).watch _
  case spareMap => exact .mapOnly s _ (.putSlot _ _ _)
  case alternatePool =>
    split
    · exact .refl s
    · next st _ => exact .mapOnly s _ (f := fun x => x.putPool w.index st) (.putPool _ _ _)
  case watchList => exact .refl s

/-! ## The table entries a PUT leaves (R164) -/

/-- The entries of the four settings tables, the reservations and the channels that a PUT to a table leaves. -/
structure EntriesKeep (w : Window) (k : TableId) (d : DriveId) (x y : Drive) : Prop where
  holder : k ≠ .portAccess → y.holder = x.holder
  geom : ¬(k = .geometry ∧ d = driveOf w.index) → y.geom = x.geom
  profile : ¬(k = .motionProfile ∧ d = driveOf w.index) → y.profile = x.profile
  policy : ¬((k = .geometry ∨ k = .sparingPolicy) ∧ d = driveOf w.index) → y.policy = x.policy

theorem EntriesKeep.refl (x : Drive) : EntriesKeep w k d x x := ⟨fun _ => rfl, fun _ => rfl, fun _ => rfl, fun _ => rfl⟩

theorem EntriesKeep.mapOnly {y : Drive} (h : x.MapOnly y) : EntriesKeep w k d x y := by
  obtain ⟨_, _, _, _, rfl, -⟩ := h
  exact ⟨fun _ => rfl, fun _ => rfl, fun _ => rfl, fun _ => rfl⟩

theorem EntriesKeep.modDrive {c : DriveId} {h : Drive → Drive} (hc : d = c → EntriesKeep w k d (s.drive c) (h (s.drive c))) :
    EntriesKeep w k d (s.drive d) ((s.modDrive c h).drive d) := by
  rw [State.drive_modDrive]
  split
  · next hd => subst hd; exact hc rfl
  · exact .refl _

theorem EntriesKeep.storePut (s : State) (w : Window) (k : TableId) (b : List Byte) (d : DriveId) :
    EntriesKeep w k d (s.drive d) ((s.storePut w k b).1.drive d) := by
  cases k <;> simp only [State.storePut]
  case portAccess =>
    split
    · exact .refl _
    · rw [State.drive_putPortAccess]
      split <;> exact ⟨fun h => absurd rfl h, fun _ => rfl, fun _ => rfl, fun _ => rfl⟩
  case geometry =>
    unfold State.putGeometry
    split
    · rw [State.drive_newGeometry]
      split
      · next hd =>
        subst hd
        unfold Drive.geometryPut
        dsimp only
        split <;> exact ⟨fun _ => rfl, fun h => absurd ⟨rfl, rfl⟩ h, fun _ => rfl, fun h => absurd ⟨.inl rfl, rfl⟩ h⟩
      · exact .refl _
    · exact .modDrive fun hd => ⟨fun _ => rfl, fun h => absurd ⟨rfl, hd⟩ h, fun _ => rfl, fun _ => rfl⟩
  case motionProfile => exact .modDrive fun hd => ⟨fun _ => rfl, fun _ => rfl, fun h => absurd ⟨rfl, hd⟩ h, fun _ => rfl⟩
  case sparingPolicy =>
    exact EntriesKeep.modDrive (s := s) (h := fun x =>
      { x with policy := (Policy.decode b).clamped (s.drive (driveOf w.index)).sectors, policyLater := !served s.plugs.mode8 (driveOf w.index) })
      fun hd => ⟨fun _ => rfl, fun _ => rfl, fun _ => rfl, fun h => absurd ⟨.inr rfl, hd⟩ h⟩
  case spareMap => exact .modDrive fun _ => .mapOnly (.putSlot _ _ _)
  case alternatePool =>
    split
    · exact .refl _
    · next st _ => exact .modDrive (h := fun x => x.putPool w.index st) fun _ => .mapOnly (.putPool _ _ _)
  case watchList => exact .refl _

end Sys2Proof.Machine
end


section
/-! TABLE PUT (R164 to R168): the state an accepted PUT ends in, and the statement. -/

namespace Sys2Proof.Machine

-- One declaration after the other: in parallel the one compile of the whole text runs out of threads.
set_option Elab.async false

variable {s t u z : State} {d e : DriveId} {f : OrderFrame} {tag : Tag} {k : TableId} {w : Window} {b : List Byte} {x : Drive} {g : Geometry}

/-! ## The answer of a PUT -/

/-- The state an accepted PUT leaves before the immediate actions: the entry stored, the window moved on and the order answered. -/
structure PutAt (u : State) (w : Window) (k : TableId) (b : List Byte) (z : State) : Prop where
  drive : ∀ d, z.drive d = (u.storePut w k b).1.drive d
  watch : z.watch = (u.storePut w k b).1.watch
  reassign : z.reassign = u.reassign
  clock : z.clock = u.clock
  access : ∀ p, (z.port p).access = ((u.storePut w k b).1.port p).access
  orders : OrdersFrom u z

theorem putTable_eq {n : Nat} (hk : (u.port f.port).window.table = some k) : putTable f n d u =
    (((u.storePut (u.port f.port).window k f.body).1.stepWindow f.port).modOrder n fun o =>
      { o with clamped := (u.storePut (u.port f.port).window k f.body).2 }).endOrder n .complete := by
  unfold putTable State.tablePut
  dsimp only
  rw [hk]

theorem OrdersFrom.work (h : Work s t) : OrdersFrom s t := fun p g o ho => by
  have hi := h.ident p g
  rw [ho] at hi
  obtain ⟨o', ho', he⟩ := Option.map_eq_some_iff.mp hi.symm
  exact ⟨o', ho', (congrArg Order.oid he :), (congrArg Order.kind he :)⟩

theorem OrdersFrom.trans (h1 : OrdersFrom s t) (h2 : OrdersFrom t u) : OrdersFrom s u := fun p g o ho => by
  obtain ⟨o1, ho1, h1o, h1k⟩ := h2 p g o ho
  obtain ⟨o2, ho2, h2o, h2k⟩ := h1 p g o1 ho1
  exact ⟨o2, ho2, h2o.trans h1o, h2k.trans h1k⟩

/-- R164: the state with the entry stored and the window moved on. -/
def State.stored (u : State) (w : Window) (k : TableId) (b : List Byte) (p : Port) : State := (u.storePut w k b).1.stepWindow p

theorem State.stored_port (u : State) (w : Window) (k : TableId) (b : List Byte) (p q : Port) :
    ∃ a n, (u.stored w k b p).port q =
      { u.port q with access := a, notices := n, window := if q = p then (u.port q).window.step else (u.port q).window } := by
  obtain ⟨a, n, h⟩ := (PutKeeps.storePut u w k b).port q
  refine ⟨a, n, ?_⟩
  unfold State.stored State.stepWindow
  by_cases hq : q = p
  · subst hq
    rw [State.port_modPort_self, h, if_pos rfl]
  · rw [State.port_modPort_ne _ _ hq, h, if_neg hq]

/-- The part of a port that a stored entry leaves. -/
theorem State.stored_kept (u : State) (w : Window) (k : TableId) (b : List Byte) (p q : Port) :
    ((u.stored w k b p).port q).slots = (u.port q).slots ∧ ((u.stored w k b p).port q).toSend = (u.port q).toSend ∧
      ((u.stored w k b p).port q).refusals = (u.port q).refusals ∧ (q ≠ p → PortKept u (u.stored w k b p) q) ∧
      ((u.stored w k b p).port p).window = (u.port p).window.step := by
  obtain ⟨a, n, h⟩ := u.stored_port w k b p q
  obtain ⟨a', n', h'⟩ := u.stored_port w k b p p
  refine ⟨by rw [h], by rw [h]; rfl, by rw [h], fun hq => ?_, by rw [h', if_pos rfl]⟩
  rw [if_neg hq] at h
  exact ⟨by rw [h], by rw [h], by rw [h], by rw [h]⟩

/-- R153, R164: the answer of a PUT is work on the state with the entry stored. -/
theorem putTable_work {n : Nat} (hk : (u.port f.port).window.table = some k) :
    Work (u.stored (u.port f.port).window k f.body f.port) (putTable f n d u) := by
  rw [putTable_eq hk]
  exact ((Work.refl _).modOrder _ _).endOrder _ _

theorem putTable_at {n : Nat} (hk : (u.port f.port).window.table = some k) :
    PutAt u (u.port f.port).window k f.body (putTable f n d u) := by
  have hw : Work (u.stored (u.port f.port).window k f.body f.port) (putTable f n d u) := putTable_work hk
  have hsp : (putTable f n d u).sparing = (u.storePut (u.port f.port).window k f.body).1.sparing := by
    rw [putTable_eq hk, State.sparing_endOrder]
    rfl
  refine ⟨fun d => ?_, (congrArg Prod.fst hsp :), (congrArg Prod.snd hsp :).trans (PutKeeps.storePut ..).reassign,
    hw.clock.trans (PutKeeps.storePut ..).clock, fun p => (hw.port p).access.trans ?_, OrdersFrom.trans (fun p g o ho => ?_) (.work hw)⟩
  · rw [putTable_eq hk, State.drive_endOrder]
    rfl
  · unfold State.stored State.stepWindow
    by_cases hp : p = f.port
    · subst hp; rw [State.port_modPort_self]
    · rw [State.port_modPort_ne _ _ hp]
  · rw [(u.stored_kept _ k f.body f.port p).1] at ho
    exact ⟨o, ho, rfl, rfl⟩

/-- An order taken stays taken through the work that follows. -/
theorem Taken.work {m : OrderKind} {c : Option DriveId} {o : Order} (h : Taken s t m f tag c o) (hw : Work t u) {o' : Order}
    (ho : (u.port f.port).slots.get tag = some o') : Taken s u m f tag c o' := by
  have hi := hw.ident f.port tag
  rw [h.slot, ho] at hi
  have he : o'.ident = o.ident := Option.some.inj hi
  obtain ⟨h1, h2, h3, h4⟩ := h.names
  obtain ⟨h5, h6, h7⟩ := h.fields
  exact ⟨ho, (congrArg Order.oid he :).trans h.oid, hw.nextOid.trans h.next,
    ⟨(congrArg Order.tag he :).trans h1, (congrArg Order.kind he :).trans h2, (congrArg Order.logical he :).trans h3,
      (congrArg Order.drive he :).trans h4⟩, (congrArg Order.start he :).trans h.start,
    ⟨(congrArg Order.count he :).trans h5, (congrArg Order.flags he :).trans h6, (congrArg Order.parameter he :).trans h7⟩,
    (hw.link f.port).frames _ h.reply, fun g hg => (hw.slotsKept f.port g).trans (h.others g hg)⟩

theorem Taken.stored {m : OrderKind} {c : Option DriveId} {o : Order} (h : Taken s t m f tag c o) (w : Window) (k : TableId) (b : List Byte) :
    Taken s (t.stored w k b f.port) m f tag c o := by
  obtain ⟨hs, hf, -⟩ := t.stored_kept w k b f.port f.port
  exact ⟨by rw [hs]; exact h.slot, h.oid, (PutKeeps.storePut t w k b).nextOid.trans h.next, h.names, h.start, h.fields, by rw [hf]; exact h.reply,
    fun g hg => by rw [hs]; exact h.others g hg⟩

/-- What a PUT leaves of the controller beside the tables (R153, R164). -/
structure PutDone (s : State) (f : OrderFrame) (tag : Tag) (w : Window) (k : TableId) (t : State) (o : Order) : Prop where
  taken : Taken s t .tablePut f tag none o
  result : o.result = some .complete
  clamped : o.clamped = ((s.accept .tablePut f tag none).storePut w k f.body).2
  window : (t.port f.port).window = w.step
  media : t.media = s.media
  plugs : t.plugs = s.plugs
  clock : t.clock = s.clock
  startCause : t.startCause = s.startCause
  refusals : (t.port f.port).refusals = (s.port f.port).refusals
  others : ∀ p, p ≠ f.port → PortKept s t p ∧ SlotsKept s t p
  counter : ∀ d, (t.drive d).counter = (s.drive d).counter

theorem Accepted.put (h : Accepted s .tablePut f tag) (hn : s.numberLaw) (hk : (s.port f.port).window.table = some k) :
    ∃ z o, exec (.tablePut f) s = .next (settle settleFuel z) ∧
      PutAt (s.accept .tablePut f tag none) (s.port f.port).window k f.body z ∧
      PutDone s f tag (s.port f.port).window k (settle settleFuel z) o := by
  have hu := s.untouched_accept .tablePut f tag none
  have hwin := (s.accept_window .tablePut f tag none f.port).1
  have hk' : ((s.accept .tablePut f tag none).port f.port).window.table = some k := by rw [hwin]; exact hk
  have hx : exec (.tablePut f) s = .next (settle settleFuel (putTable f s.nextOid ((s.accessOf f).phys.getD 0) (s.accept .tablePut f tag none))) :=
    (State.run_powered h.power fun s => s.receiveOrder .tablePut f (putTable f)).trans (by rw [h.receive]; rfl)
  have hat := putTable_at (n := s.nextOid) (d := (s.accessOf f).phys.getD 0) hk'
  have heq := putTable_eq (n := s.nextOid) (d := (s.accessOf f).phys.getD 0) hk'
  have hwork := (putTable_work (n := s.nextOid) (d := (s.accessOf f).phys.getD 0) hk').settle settleFuel
  generalize putTable f s.nextOid ((s.accessOf f).phys.getD 0) (s.accept .tablePut f tag none) = z at *
  rw [hwin] at hat heq hwork
  generalize hw : (s.port f.port).window = w at *
  have keeps := PutKeeps.storePut (s.accept .tablePut f tag none) w k f.body
  obtain ⟨hslots, -, href, -, hstep⟩ := (s.accept .tablePut f tag none).stored_kept w k f.body f.port f.port
  have hslot : ((State.stored (s.accept .tablePut f tag none) w k f.body f.port).port f.port).slots.get tag =
      some (newOrder s.nextOid tag .tablePut f none) := by
    rw [hslots]
    exact s.slot_accept ..
  have hnum : (State.stored (s.accept .tablePut f tag none) w k f.body f.port).numberLaw :=
    numberLaw_of (State.numberLaw_accept none h.free hn) keeps.nextOid.ge fun p g o ho => by
      rw [((s.accept .tablePut f tag none).stored_kept w k f.body f.port p).1] at ho
      exact ⟨o, ho, rfl⟩
  have hans := State.slot_answer hnum hslot rfl (newOrder_live _ _ _ _)
    (fun o => { o with clamped := ((s.accept .tablePut f tag none).storePut w k f.body).2 }) (fun _ => ⟨rfl, rfl⟩) .complete
  obtain ⟨o, ho, hb, hr⟩ := settle_answered settleFuel hans rfl
  have hz : settle settleFuel z = _ := congrArg (settle settleFuel) heq
  obtain ⟨o1, ht1⟩ := (Work.refl (s.accept .tablePut f tag none)).taken
  refine ⟨z, o, hx, hat, (ht1.stored w k f.body).work hwork (by rw [hz]; exact ho), hr, (congrArg Order.clamped hb :),
    (hwork.portKept f.port).window.trans (hstep.trans (by rw [hwin])), hwork.laid.trans keeps.media, hwork.plugs.trans keeps.plugs,
    hwork.clock.trans keeps.clock, hwork.startCause.trans keeps.startCause,
    (hwork.portKept f.port).refusals.trans (href.trans (s.portKept_accept .tablePut f tag none).refusals), fun p hp => ?_,
    fun d => (hwork.bus d).counter.trans (keeps.counter d)⟩
  obtain ⟨hps, -, -, hpk, -⟩ := (s.accept .tablePut f tag none).stored_kept w k f.body f.port p
  obtain ⟨k1, k2⟩ := hu.port p (by simpa using hp)
  exact ⟨k1.trans ((hpk hp).trans (hwork.portKept p)), k2.trans (SlotsKept.trans (fun g => by rw [hps]) (hwork.slotsKept p))⟩

end Sys2Proof.Machine
end


section
/-! TABLE PUT (R164 to R168): each table's entry after the immediate actions, and the statement. -/

namespace Sys2Proof.Machine

-- One declaration after the other: in parallel the one compile of the whole text runs out of threads.
set_option Elab.async false

variable {s t u z : State} {d e : DriveId} {f : OrderFrame} {tag : Tag} {k : TableId} {w : Window} {b : List Byte} {x : Drive} {g : Geometry}
  {n : Nat}

/-! ## PORT ACCESS (R165) -/

theorem State.storePut_portAccess {a : PortAccess} (ha : PortAccess.decode b = some a) :
    (u.storePut w .portAccess b).1 = u.putPortAccess (portOf w.index) a := by
  simp [State.storePut, ha]

theorem PutAt.portAccess (h : PutAt u w .portAccess b z) {a : PortAccess} (ha : PortAccess.decode b = some a) (n : Nat) :
    (∀ q, ((settle n z).port q).access = if q = portOf w.index then a else (u.port q).access) ∧
      ∀ d, ((settle n z).drive d).holder =
        if (u.drive d).holder = some (portOf w.index) ∧ d ∉ a.names then none else (u.drive d).holder := by
  refine ⟨fun q => ?_, fun d => ?_⟩
  · rw [settle_access, h.access, State.storePut_portAccess ha, State.access_putPortAccess]
  · rw [settle_holder, h.drive, State.storePut_portAccess ha, State.drive_putPortAccess]
    split <;> rfl

theorem State.storePut_access (u : State) (w : Window) (b : List Byte) (hk : k ≠ .portAccess) (p : Port) :
    ((u.storePut w k b).1.port p).access = (u.port p).access := by
  cases k <;> simp only [State.storePut]
  case portAccess => exact absurd rfl hk
  case geometry => rw [State.putGeometry_port]
  case alternatePool => split <;> rfl
  all_goals rfl

/-! ## MOTION PROFILE (R27, R167) -/

/-- R27: the channel of a stored profile. -/
theorem Channel.takeProfile_rest {ch : Channel} (h : ch.phase = .idle ∨ ch.phase = .stopped) (p : Profile) :
    ch.takeProfile p = { ch with profile := p, staged := none } := by
  unfold Channel.takeProfile
  rcases h with h | h <;> rw [h]

theorem Channel.takeProfile_flight {ch : Channel} (h1 : ch.phase ≠ .idle) (h2 : ch.phase ≠ .stopped) (p : Profile) :
    ch.takeProfile p = { ch with staged := some p } := by
  unfold Channel.takeProfile
  cases hp : ch.phase <;> first | rfl | exact absurd hp h1 | exact absurd hp h2

/-- R27, R167: the channel of the drive whose profile has been put, after the immediate actions. -/
theorem PutAt.motionProfile (h : PutAt u w .motionProfile b z) (n : Nat) :
    ((settle n z).drive (driveOf w.index)).profile = (Profile.decode b).clamped ∧
      (served u.plugs.mode8 (driveOf w.index) = true →
        ((u.drive (driveOf w.index)).chan.phase = .idle ∨ (u.drive (driveOf w.index)).chan.phase = .stopped →
          ((settle n z).drive (driveOf w.index)).chan.profile = (Profile.decode b).clamped ∧
            ((settle n z).drive (driveOf w.index)).chan.staged = none) ∧
        ((u.drive (driveOf w.index)).chan.phase ≠ .idle → (u.drive (driveOf w.index)).chan.phase ≠ .stopped →
          ((settle n z).drive (driveOf w.index)).chan =
            { (u.drive (driveOf w.index)).chan with staged := some (Profile.decode b).clamped })) ∧
      (served u.plugs.mode8 (driveOf w.index) = false → (u.drive (driveOf w.index)).takesNoWork = true →
        ((settle n z).drive (driveOf w.index)).chan = (u.drive (driveOf w.index)).chan) := by
  generalize hd : driveOf w.index = d
  generalize hp : (Profile.decode b).clamped = p
  have hz : z.drive d = { u.drive d with
      profile := p, profileLater := !served u.plugs.mode8 d,
      chan := if served u.plugs.mode8 d then (u.drive d).chan.takeProfile p else (u.drive d).chan } := by
    rw [h.drive, ← hd, ← hp]
    exact State.drive_modDrive_self ..
  refine ⟨by rw [settle_profile, hz], fun hs => ⟨fun hph => ?_, fun h1 h2 => ?_⟩, fun hs hno => ?_⟩
  · rw [if_pos hs, Channel.takeProfile_rest hph] at hz
    have hf := (Fits.settle (s := z) (d := d) (a := False) n False.elim).2 (by rw [hz])
    rw [hz] at hf
    exact hf
  · rw [if_pos hs, Channel.takeProfile_flight h1 h2] at hz
    rw [settle_chan (by
      rw [hz]
      exact Bool.not_eq_false _ ▸ fun hf => ((Phase.inFlight_eq_false _).mp hf).elim h1 h2), hz]
  · rw [hs] at hz
    have hk := settle_busy n z d (by rw [hz]; exact hno)
    exact (congrArg Drive.chan hk :).trans (by rw [hz]; rfl)

/-! ## GEOMETRY (R44, R47, R166) -/

theorem Channel.stop_spec (ch : Channel) : ch.stop.phase = .stopped ∧ (ch.phase = .stopped → ch.stop = ch) ∧
    (ch.phase ≠ .stopped → ch.stop.vel = 0 ∧ ch.stop.known = false) := by
  unfold Channel.stop
  split
  · next h => exact ⟨h, fun _ => rfl, fun hn => absurd h hn⟩
  · next h => exact ⟨rfl, fun h' => absurd h' h, fun _ => ⟨rfl, rfl⟩⟩

/-- What a stored geometry leaves of the drive beside its map. -/
theorem Drive.geometryPut_fields (g : Geometry) (x : Drive) :
    (x.geometryPut g).chan = x.chan.stop ∧ (x.geometryPut g).pendRecal = false ∧ (x.geometryPut g).pendWrite = x.pendWrite ∧
      (x.geometryPut g).queue = x.queue ∧ (x.geometryPut g).state = x.state ∧ (x.geometryPut g).geom = some g ∧
      (x.geometryPut g).policy = x.policy.within g.s := by
  unfold Drive.geometryPut
  dsimp only
  split <;> exact ⟨rfl, rfl, rfl, rfl, rfl, rfl, rfl⟩

theorem Drive.stock_geometryPut (g : Geometry) (x : Drive) : (x.geometryPut g).stock =
    if (x.geom.map fun h => g.sameDivision h).getD false = true then x.stock else ([], g.freshPool, .clean) := by
  unfold Drive.geometryPut
  dsimp only
  split <;> rfl

theorem State.storePut_served (hs : served u.plugs.mode8 (driveOf w.index) = true) :
    (u.storePut w .geometry b).1 = u.newGeometry (driveOf w.index) (Geometry.decode b) := if_pos hs

theorem State.storePut_unserved (hs : served u.plugs.mode8 (driveOf w.index) = false) : (u.storePut w .geometry b).1 =
    u.modDrive (driveOf w.index) fun x => { x with geom := some (Geometry.decode b), geomLater := true } :=
  State.putGeometry_unserved hs _

/-- R44, R166: the table entry, and the verify threshold clamped where the address has a channel. -/
theorem PutAt.geometry_entry (h : PutAt u w .geometry b z) (n : Nat) :
    ((settle n z).drive (driveOf w.index)).geom = some (Geometry.decode b) ∧
      ((settle n z).drive (driveOf w.index)).policy = if served u.plugs.mode8 (driveOf w.index) = true then
        (u.drive (driveOf w.index)).policy.within (Geometry.decode b).s else (u.drive (driveOf w.index)).policy := by
  rw [settle_geom, settle_policy, h.drive]
  cases hs : served u.plugs.mode8 (driveOf w.index)
  · rw [State.storePut_unserved hs, State.drive_modDrive_self, if_neg nofun]
    exact ⟨rfl, rfl⟩
  · obtain ⟨-, -, -, -, -, hg, hp⟩ := (u.drive (driveOf w.index)).geometryPut_fields (Geometry.decode b)
    rw [State.storePut_served hs, State.drive_newGeometry, if_pos rfl, if_pos rfl]
    exact ⟨hg, hp⟩

/-- R166: nothing may run on a drive whose geometry has been put. -/
theorem PutAt.geometry_rests (h : PutAt u w .geometry b z) (hs : served u.plugs.mode8 (driveOf w.index) = true) (hl : u.engineLaw)
    (hst : (u.drive (driveOf w.index)).state = .fenced ∨ (u.drive (driveOf w.index)).geom = none)
    (hw : (u.drive (driveOf w.index)).pendWrite = false) (hq : u.noSurface (driveOf w.index)) : z.Rests (driveOf w.index) := by
  obtain ⟨-, h2, h3, h4, h5, -, -⟩ := (u.drive (driveOf w.index)).geometryPut_fields (Geometry.decode b)
  have hz : z.drive (driveOf w.index) = (u.drive (driveOf w.index)).geometryPut (Geometry.decode b) := by
    rw [h.drive, State.storePut_served hs, State.drive_newGeometry, if_pos rfl]
  refine ⟨?_, by rw [hz, h2], by rw [hz, h3, hw], hq.of_orders h.orders (by rw [hz, h4]), fun hwait => ?_⟩
  · rw [hz, h5]
    rcases hst with hst | hst
    · rw [hst]; decide
    · have hin := (hl.geometry _ hst).1
      revert hin
      cases (u.drive (driveOf w.index)).state <;> decide
  · rw [hz, h5] at hwait
    have hno : (u.drive (driveOf w.index)).geom = none := hst.resolve_left (by rw [hwait]; decide)
    rw [hz]
    simp [Drive.geometryPut, hno, Drive.stock, Drive.emptyMap, Drive.freshPool]

/-- R44, R47, R166: the channel and the map of a drive whose geometry has been put. -/
theorem PutAt.geometry_served (h : PutAt u w .geometry b z) (n : Nat) (hs : served u.plugs.mode8 (driveOf w.index) = true) (hl : u.engineLaw)
    (hst : (u.drive (driveOf w.index)).state = .fenced ∨ (u.drive (driveOf w.index)).geom = none)
    (hw : (u.drive (driveOf w.index)).pendWrite = false) (hq : u.noSurface (driveOf w.index)) :
    ((settle n z).drive (driveOf w.index)).pendRecal = false ∧
      ((settle n z).drive (driveOf w.index)).chan = (u.drive (driveOf w.index)).chan.stop ∧
      ((settle n z).drive (driveOf w.index)).stock =
        (if ((u.drive (driveOf w.index)).geom.map fun h => (Geometry.decode b).sameDivision h).getD false = true then
          (u.drive (driveOf w.index)).stock else ([], (Geometry.decode b).freshPool, .clean)) ∧
      (((u.drive (driveOf w.index)).geom.map fun h => (Geometry.decode b).sameDivision h).getD false ≠ true →
        ∀ c : WatchEntry, .entry c ∈ (settle n z).watch → c.drive ≠ driveOf w.index) := by
  obtain ⟨h1, h2, -⟩ := (u.drive (driveOf w.index)).geometryPut_fields (Geometry.decode b)
  have hz : z.drive (driveOf w.index) = (u.drive (driveOf w.index)).geometryPut (Geometry.decode b) := by
    rw [h.drive, State.storePut_served hs, State.drive_newGeometry, if_pos rfl]
  obtain ⟨hc, hp, hk⟩ := (h.geometry_rests hs hl hst hw hq).settle n
  refine ⟨by rw [hp, hz, h2], by rw [hc, hz, h1], by rw [hk, hz, Drive.stock_geometryPut], fun hsame c hc => ?_⟩
  obtain ⟨c', hc', hd⟩ := settle_named n z c hc
  rw [h.watch, State.storePut_served hs, State.watch_newGeometry, if_neg hsame] at hc'
  obtain ⟨a, -, ha⟩ := List.mem_map.mp hc'
  rw [← hd]
  rintro hcd
  split at ha
  · split at ha
    · cases ha
    · next hne => cases ha; exact hne hcd
  all_goals cases ha

/-- R44: at an address without a channel the table entry alone changes. -/
theorem PutAt.geometry_unserved (h : PutAt u w .geometry b z) (n : Nat) (hs : served u.plugs.mode8 (driveOf w.index) = false)
    (hl : u.engineLaw) (hc : (u.drive (driveOf w.index)).cur = none) (hno : (u.drive (driveOf w.index)).takesNoWork = true) :
    ((settle n z).drive (driveOf w.index)).kept =
        ({ u.drive (driveOf w.index) with geom := some (Geometry.decode b), geomLater := true } : Drive).kept ∧
      ∀ (i : Nat) (c : WatchEntry), u.watch[i]? = some (.entry c) → c.drive = driveOf w.index →
        (settle n z).watch[i]? = some (.entry c) := by
  have hz : z.drive (driveOf w.index) = { u.drive (driveOf w.index) with geom := some (Geometry.decode b), geomLater := true } := by
    rw [h.drive, State.storePut_unserved hs, State.drive_modDrive_self]
  refine ⟨by rw [← hz]; exact settle_busy n z _ (by rw [hz]; exact hno), fun i c hi hcd => ?_⟩
  have hpl : z.Pledged := fun d hd => by
    rw [h.reassign, h.watch, State.storePut_unserved hs]
    rw [h.drive, State.storePut_unserved hs, State.drive_modDrive] at hd
    refine hl.pledged d ?_
    split at hd <;> [(next he => subst he; exact hd); exact hd]
  refine settle_stands n hpl (by rw [h.watch, State.storePut_unserved hs]; exact hi) (.inr ?_)
  rw [hcd, hz]
  intro hr
  have hr' : (u.drive (driveOf w.index)).state = .ready := hr
  simp [Drive.takesNoWork, hc, hr', DriveState.dormant] at hno

/-! ## SPARING POLICY (R123, R167) -/

/-- R123: COUNTING entries whose window has passed by the new policy leave the list, and no other COUNTING entry does. -/
theorem PutAt.sparingPolicy (h : PutAt u w .sparingPolicy b z) (n : Nat) :
    ((settle n z).drive (driveOf w.index)).policy = (Policy.decode b).clamped (u.drive (driveOf w.index)).sectors ∧
      (u.engineLaw → ∀ (i : Nat) (c : WatchEntry), u.watch[i]? = some (.entry c) → c.state = .counting →
        (settle n z).watch[i]? =
          some (if c.windowStart + ((settle n z).drive c.drive).policy.window * 1000 ≤ u.stringTime then .empty else .entry c)) := by
  generalize hd : driveOf w.index = d
  generalize hv : (u.modDrive d fun x =>
    { x with policy := (Policy.decode b).clamped (u.drive d).sectors, policyLater := !served u.plugs.mode8 d }) = v
  have hzd : ∀ e, z.drive e = v.drive e := fun e => by rw [h.drive, ← hv, ← hd]; rfl
  have hzw : z.watch = v.expireAll.watch := by rw [h.watch, ← hv, ← hd]; rfl
  have hvw : v.watch = u.watch := by rw [← hv]; rfl
  refine ⟨by rw [settle_policy, hzd, ← hv, State.drive_modDrive_self], fun hl i c hi hc => ?_⟩
  have hpl : z.Pledged := fun e he => by
    rw [hzd, ← hv, State.drive_modDrive] at he
    obtain ⟨hst, j, c', hj, hc', hcand, hcd⟩ := hl.pledged e (by split at he <;> [(next he' => subst he'; exact he); exact he])
    obtain ⟨c'', hc'', hcand', hcd'⟩ := (Calm.refl v).expireAll.watch j c' (hvw ▸ hc') hcand
    rw [h.reassign]
    exact ⟨hst, j, c'', hj, hzw ▸ hc'', hcand', hcd'.trans hcd⟩
  have hpass : v.windowPassed c = true ↔ c.windowStart + ((settle n z).drive c.drive).policy.window * 1000 ≤ u.stringTime := by
    have htime : v.stringTime = u.stringTime := by rw [← hv]; rfl
    rw [settle_policy, hzd, State.windowPassed, hc, htime]
    simp
  have hzi : z.watch[i]? = some (if v.windowPassed c = true then .empty else .entry c) := by
    rw [hzw, State.expireAll, List.getElem?_map, hvw, hi]
    rfl
  rw [← if_congr hpass rfl rfl]
  split
  · next hp =>
    rw [if_pos hp] at hzi
    exact (settle_sparing n z).empty i hzi
  · next hp =>
    rw [if_neg hp] at hzi
    exact settle_stands n hpl hzi (.inl (by rw [hc]; decide))

/-! ## SPARE MAP and ALTERNATE POOL (R57, R67, R68) -/

/-- R67, R100: the immediate actions leave an edited map as it is, and its state where no internal operation would start. -/
theorem settle_edited (n : Nat) (hm : x.MapOnly (z.drive d)) (hst : x.state = .fenced ∨ x.state = .mapLost) (hq : z.noSurface d) :
    ((settle n z).drive d).spare = (z.drive d).spare ∧ ((settle n z).drive d).pool = (z.drive d).pool ∧
      (x.cur.isSome = true ∨ (x.pendRecal = false ∧ x.pendLoad = false ∧ x.pendWrite = false) →
        ((settle n z).drive d).mapState = (z.drive d).mapState) := by
  obtain ⟨sp, po, ms, pw, hz, hpw⟩ := hm
  have hzst : (z.drive d).state = x.state := by rw [hz]
  have hnot : (z.drive d).state ≠ .ready ∧ (z.drive d).state ≠ .waitingSpin := by
    rw [hzst]
    rcases hst with h | h <;> rw [h] <;> decide
  obtain ⟨h1, h2⟩ := (Fits.settle (a := True) n fun _ => hnot).1 trivial
  refine ⟨h1, h2, fun hor => ?_⟩
  rcases hor with hc | ⟨hr, -, hw⟩
  · have hno : (z.drive d).takesNoWork = true := by
      have hcz : (z.drive d).cur.isSome = true := by rw [hz]; exact hc
      simp [Drive.takesNoWork, hcz, hnot.2]
    exact (congrArg Drive.mapState (settle_busy n z d hno) :)
  · have hwrite : pw = false := Bool.eq_false_iff.mpr fun hp => by
      rcases hpw hp with h | h
      · rw [hw] at h; cases h
      · exact hnot.1 (hzst.trans h)
    have hrest : z.Rests d := by
      refine ⟨?_, by rw [hz]; exact hr, by rw [hz]; exact hwrite, hq, fun hwait => absurd hwait hnot.2⟩
      rw [hzst]
      rcases hst with h | h <;> rw [h] <;> decide
    exact (congrArg (fun y => y.2.2) (hrest.settle n).2.2 :)

theorem Drive.MapOnly.queue {y : Drive} (h : x.MapOnly y) : y.queue = x.queue := by
  obtain ⟨_, _, _, _, rfl, -⟩ := h
  rfl

/-- R67: a slot of the map of a drive, after the immediate actions. -/
theorem PutAt.spareMap (h : PutAt u w .spareMap b z) (n : Nat)
    (hst : (u.drive w.drive).state = .fenced ∨ (u.drive w.drive).state = .mapLost) (hq : u.noSurface w.drive) :
    ((settle n z).drive w.drive).spare = ((u.drive w.drive).putSlot w.index b).spare ∧
      ((settle n z).drive w.drive).pool = ((u.drive w.drive).putSlot w.index b).pool ∧
      ((u.drive w.drive).cur.isSome = true ∨ ((u.drive w.drive).pendRecal = false ∧ (u.drive w.drive).pendLoad = false ∧
          (u.drive w.drive).pendWrite = false) →
        ((settle n z).drive w.drive).mapState = ((u.drive w.drive).putSlot w.index b).mapState) := by
  have hz : z.drive w.drive = (u.drive w.drive).putSlot w.index b := by
    rw [h.drive]
    exact State.drive_modDrive_self ..
  have hm : (u.drive w.drive).MapOnly (z.drive w.drive) := by rw [hz]; exact .putSlot _ _ _
  have he := settle_edited n hm hst (hq.of_orders h.orders hm.queue)
  rwa [hz] at he

/-- R68: the pool of a drive, after the immediate actions. -/
theorem PutAt.alternatePool (h : PutAt u w .alternatePool b z) (n : Nat)
    (hst : (u.drive w.drive).state = .fenced ∨ (u.drive w.drive).state = .mapLost) (hq : u.noSurface w.drive) {st : PoolState}
    (hp : poolPutState b = some st) : ((settle n z).drive w.drive).pool = (u.drive w.drive).pool.set w.index st := by
  have hz : z.drive w.drive = (u.drive w.drive).putPool w.index st := by
    rw [h.drive]
    simp [State.storePut, hp]
  have hm : (u.drive w.drive).MapOnly (z.drive w.drive) := by rw [hz]; exact .putPool _ _ _
  rw [(settle_edited n hm hst (hq.of_orders h.orders hm.queue)).2.1, hz]
  unfold Drive.putPool
  split
  · next hi =>
    obtain ⟨hlt, heq⟩ := List.getElem?_eq_some_iff.mp hi
    rw [← heq, List.set_getElem_self]
  · rfl

/-! ## The statement -/

/-- The new order is no SURFACE VERIFY. -/
theorem State.noSurface.accept (h : s.noSurface d) : (s.accept .tablePut f tag none).noSurface d := by
  intro p c o ho hq
  by_cases hp : p = f.port
  · subst hp
    rw [State.port_accept_self] at ho
    by_cases hc : c = tag
    · subst hc
      rw [Quad.get_set_self] at ho
      cases ho
      exact nofun
    · rw [Quad.get_set_ne _ _ hc] at ho
      exact h _ c o ho hq
  · rw [State.port_accept_ne _ _ _ _ _ hp] at ho
    exact h p c o ho hq

/-- R164: an entry of the four settings tables, or a reservation, that a PUT leaves. -/
theorem PutAt.kept (h : PutAt u w k b z) (n : Nat) (d : DriveId) : EntriesKeep w k d (u.drive d) ((settle n z).drive d) := by
  have he := EntriesKeep.storePut u w k b d
  rw [← h.drive] at he
  exact ⟨fun hk => (settle_holder n z d).trans (he.holder hk), fun hk => (settle_geom n z d).trans (he.geom hk),
    fun hk => (settle_profile n z d).trans (he.profile hk), fun hk => (settle_policy n z d).trans (he.policy hk)⟩

theorem State.engineLaw.accept (h : s.engineLaw) : (s.accept .tablePut f tag none).engineLaw := ⟨h.geometry, h.queued, h.current, h.surface⟩

/-- R44, R47, R166: the statement of a GEOMETRY PUT, of a drive with a channel and of one without. -/
theorem PutAt.geometry (h : PutAt u w .geometry b z) (n : Nat) (hl : u.engineLaw)
    (hst : (u.drive (driveOf w.index)).state = .fenced ∨ (u.drive (driveOf w.index)).geom = none)
    (hc : (u.drive (driveOf w.index)).cur = none) (hw : (u.drive (driveOf w.index)).pendWrite = false)
    (hq : u.noSurface (driveOf w.index)) :
    let x := u.drive (driveOf w.index)
    let y := (settle n z).drive (driveOf w.index)
    let g := Geometry.decode b
    let kept := ∃ h, x.geom = some h ∧ g.type = h.type ∧ g.c = h.c ∧ g.h = h.h ∧ g.s = h.s ∧ g.a = h.a
    (served u.plugs.mode8 (driveOf w.index) = true →
      y.pendRecal = false ∧ y.chan.phase = .stopped ∧ (x.chan.phase = .stopped → y.chan = x.chan) ∧
      (x.chan.phase ≠ .stopped → y.chan.vel = 0 ∧ y.chan.known = false) ∧
      (kept → y.spare = x.spare ∧ y.pool = x.pool ∧ y.mapState = x.mapState) ∧
      (¬kept → y.spare = [] ∧ y.pool = g.freshPool ∧ y.mapState = .clean ∧
        ∀ e : WatchEntry, .entry e ∈ (settle n z).watch → e.drive ≠ driveOf w.index)) ∧
    (served u.plugs.mode8 (driveOf w.index) = false → x.takesNoWork = true →
      y.chan = x.chan ∧ y.pendRecal = x.pendRecal ∧ y.spare = x.spare ∧ y.pool = x.pool ∧ y.mapState = x.mapState ∧
        ∀ (i : Nat) (e : WatchEntry), u.watch[i]? = some (.entry e) → e.drive = driveOf w.index →
          (settle n z).watch[i]? = some (.entry e)) := by
  intro x y g kept
  have hkept : (x.geom.map fun h => g.sameDivision h).getD false = true ↔ kept := Geometry.sameDivision_iff
  refine ⟨fun hs => ?_, fun hs hno => ?_⟩
  · obtain ⟨h1, h2, h3, h4⟩ := h.geometry_served n hs hl hst hw hq
    obtain ⟨c1, c2, c3⟩ := x.chan.stop_spec
    have h2' : y.chan = x.chan.stop := h2
    refine ⟨h1, by rw [h2', c1], fun hph => by rw [h2', c2 hph], fun hph => by rw [h2']; exact c3 hph, fun hk => ?_, fun hk => ?_⟩
    · have h3' : y.stock = x.stock := h3.trans (if_pos (hkept.mpr hk))
      exact ⟨congrArg Prod.fst h3', congrArg (fun v => v.2.1) h3', congrArg (fun v => v.2.2) h3'⟩
    · have h3' : y.stock = ([], g.freshPool, .clean) := h3.trans (if_neg fun hs => hk (hkept.mp hs))
      exact ⟨congrArg Prod.fst h3', congrArg (fun v => v.2.1) h3', congrArg (fun v => v.2.2) h3', h4 fun hs => hk (hkept.mp hs)⟩
  · obtain ⟨h1, h2⟩ := h.geometry_unserved n hs hl hc hno
    exact ⟨(congrArg Drive.chan h1 :), (congrArg Drive.pendRecal h1 :), (congrArg Drive.spare h1 :), (congrArg Drive.pool h1 :),
      (congrArg Drive.mapState h1 :), h2⟩

/-- R67: the statement of a SPARE MAP PUT on a map that keeps its laws. -/
theorem SlotPut.spec {x y y' : Drive} {i : Nat} (h : SlotPut x y' g i (putEntryOf i b)) (hs : y.spare = y'.spare) (hp : y.pool = y'.pool) :
    let alt := (loadedEntry i b).alt
    (b = [] → y.slotEntry i = none) ∧
      (b ≠ [] → y.pool[g.trackPos alt]? = some .inUse ∧ y.slotEntry i = some (loadedEntry i b)) ∧
      (∀ e, x.slotEntry i = some e → b = [] ∨ e.alt ≠ alt → y.pool[g.trackPos e.alt]? = some .free) ∧
      (∀ j, j ≠ i → y.slotEntry j = x.slotEntry j) ∧
      (∀ p, (b ≠ [] → p ≠ g.trackPos alt) → (∀ e, x.slotEntry i = some e → p ≠ g.trackPos e.alt) → y.pool[p]? = x.pool[p]?) := by
  have hslot : ∀ j, y.slotEntry j = y'.slotEntry j := fun j => by rw [Drive.slotEntry, Drive.slotEntry, hs]
  have put : ∀ m, putEntryOf i b = some m → b ≠ [] ∧ loadedEntry i b = m := fun m hm => by
    unfold putEntryOf at hm
    split at hm
    · cases hm
    · next hb => exact ⟨hb, Option.some.inj hm⟩
  refine ⟨fun hb => ?_, fun hb => ⟨?_, ?_⟩, fun c hc hor => ?_, fun j hj => ?_, fun p hpa hpo => ?_⟩
  · rw [hslot, h.slot, putEntryOf, if_pos hb]
  · rw [hp]
    exact h.stored _ (if_neg hb)
  · rw [hslot, h.slot, putEntryOf, if_neg hb]
  · rw [hp]
    refine h.freed c hc fun m hm => ?_
    obtain ⟨hb, rfl⟩ := put m hm
    exact hor.resolve_left hb
  · rw [hslot]
    exact h.slots j hj
  · rw [hp]
    refine h.pool p (fun m hm => ?_) hpo
    obtain ⟨hb, rfl⟩ := put m hm
    exact hpa hb

/-- Settles O52: each table's entry stands in the state the PUT leaves, and the immediate actions keep it. -/
theorem tablePutStores : Obligations.TablePutStores := by
  unfold Obligations.TablePutStores
  intro f tag s h hnum
  dsimp only
  obtain ⟨k, hk, href⟩ := h.putRefusal
  obtain ⟨z, o, hx, hat, done⟩ := h.put hnum hk
  generalize (s.port f.port).window = w at *
  have table : ∀ {c : TableId}, w.table = some c → k = c := fun hc => Option.some.inj (hk.symm.trans hc)
  refine ⟨_, o, hx, done.taken, done.result, done.window, done.media, done.plugs, done.clock, done.startCause, done.refusals, done.others,
    done.counter, fun d => ?_, fun ht => ?_, fun ht q => ?_, fun ht => ?_, fun d hd => ?_, fun ht => ?_, fun d hd => ?_, fun ht => ?_,
    fun ht hl => ?_, fun ht => ?_, fun d hd => ?_, fun ht => ?_, fun ht => ?_⟩
  case refine_1 =>
    by_cases hp : k = .portAccess
    · subst hp
      obtain ⟨a, ha⟩ := State.putRefusal_portAccess href
      obtain ⟨hacc, hhold⟩ := hat.portAccess ha settleFuel
      rw [hhold, hacc, if_pos rfl]
      exact if_congr (by simp only [hk, true_and]; rfl) rfl rfl
    · rw [if_neg fun hc => hp (table hc.1)]
      exact (hat.kept settleFuel d).holder hp
  case refine_2 =>
    cases table ht
    obtain ⟨a, ha⟩ := State.putRefusal_portAccess href
    obtain ⟨hacc, -⟩ := hat.portAccess ha settleFuel
    refine ⟨by rw [hacc, if_pos rfl, ha], fun q hq => ?_, done.clamped.trans (by simp [State.storePut, ha])⟩
    rw [hacc, if_neg hq]
    exact (s.accept_window ..).2
  case refine_3 =>
    rw [settle_access, hat.access, State.storePut_access _ _ _ fun hc => ht (hc ▸ hk)]
    exact (s.accept_window ..).2
  case refine_4 =>
    cases table ht
    obtain ⟨h1, h2⟩ := hat.geometry_entry settleFuel
    exact ⟨h1, done.clamped, h2⟩
  case refine_5 => exact (hat.kept settleFuel d).geom fun hc => hd ⟨hc.1 ▸ hk, hc.2⟩
  case refine_6 =>
    cases table ht
    exact ⟨(hat.motionProfile settleFuel).1, by rw [done.clamped]; exact decide_eq_true_iff⟩
  case refine_7 => exact (hat.kept settleFuel d).profile fun hc => hd ⟨hc.1 ▸ hk, hc.2⟩
  case refine_8 =>
    cases table ht
    exact (hat.motionProfile settleFuel).2
  case refine_9 =>
    cases table ht
    obtain ⟨hst, hc, hw, hq⟩ := State.putRefusal_geometry href
    exact hat.geometry settleFuel hl.accept hst hc hw (State.noSurface_of hnum hq).accept
  case refine_10 =>
    cases table ht
    obtain ⟨h1, h2⟩ := hat.sparingPolicy settleFuel
    exact ⟨h1, by rw [done.clamped]; exact decide_eq_true_iff, fun hl => h2 hl.accept⟩
  case refine_11 =>
    refine (hat.kept settleFuel d).policy fun hc => hd ⟨?_, hc.2⟩
    rw [hk]
    exact hc.1.imp (congrArg some) (congrArg some)
  case refine_12 =>
    cases table ht
    obtain ⟨hm, hbad⟩ := State.putRefusal_spareMap href
    obtain ⟨hst, hq⟩ := State.mapEditable_spec hm
    obtain ⟨h1, h2, h3⟩ := hat.spareMap settleFuel hst (State.noSurface_of hnum hq).accept
    refine ⟨done.clamped, h1, h2, fun g hg _ hlaw => ?_⟩
    have hput := SlotPut.putSlot hg hlaw w.index f.body (hbad g hg)
    obtain ⟨c1, c2, c3, c4, c5⟩ := hput.spec h1 h2
    refine ⟨c1, c2, c3, c4, c5, fun hor => ?_⟩
    rw [h3 hor]
    refine hput.mapState.trans (if_congr ?_ rfl rfl)
    rw [Drive.slotEntry, Drive.slotEntry, Drive.slotEntry, h1]
    rfl
  case refine_13 =>
    cases table ht
    obtain ⟨hm, st, hp⟩ := State.putRefusal_alternatePool href
    obtain ⟨hst, hq⟩ := State.mapEditable_spec hm
    exact ⟨done.clamped.trans (by simp [State.storePut, hp]), st, hp,
      hat.alternatePool settleFuel hst (State.noSurface_of hnum hq).accept hp⟩

end Sys2Proof.Machine
end


section
/-! Sitting of the family 03 (track addressing and the spare map), part 1: lookup and allocation (R48, R53). -/

namespace Sys2Proof.Machine

-- One declaration after the other: in parallel the one compile of the whole text runs out of threads.
set_option Elab.async false

variable {spare : List SpareEntry} {t : Track}

/-! ## Lookup (R53) -/

/-- In a list whose keys differ, the search for a member's key finds that member. -/
theorem find_of_nodup_map {α β : Type} [DecidableEq β] (key : α → β) {l : List α} (hn : (l.map key).Nodup) {a : α} (ha : a ∈ l) :
    l.find? (fun b => key b = key a) = some a := by
  induction l with
  | nil => cases ha
  | cons b l ih =>
    obtain ⟨hb, hl⟩ := List.nodup_cons.mp hn
    rcases List.mem_cons.mp ha with rfl | ha
    · exact List.find?_cons_of_pos (by simp)
    · have hne : key b ≠ key a := fun h => hb (h ▸ List.mem_map_of_mem ha)
      rw [List.find?_cons_of_neg (by simpa using hne), ih hl ha]

theorem lookupTrack_of_forall_ne (h : ∀ e ∈ spare, e.home ≠ t) : lookupTrack spare t = (t, .home) := by
  have hf : spare.find? (fun e => e.home = t) = none := List.find?_eq_none.mpr fun e he => by simpa using h e he
  unfold lookupTrack
  rw [hf]

theorem lookupTrack_of_find {e : SpareEntry} (h : spare.find? (fun e => e.home = t) = some e) : lookupTrack spare t =
    if e.pending = true ∧ e.replacement = none then (t, .home) else (e.alt, .alternate t.cyl t.head) := by
  unfold lookupTrack
  rw [h]
  simp [Bool.and_eq_true]

/-! ## Allocation (R48) -/

theorem lowestFree_eq_some {pool : List PoolState} {p : Nat} :
    lowestFree pool = some p ↔ pool[p]? = some .free ∧ ∀ q, q < p → pool[q]? ≠ some .free := by
  unfold lowestFree
  rw [List.findIdx?_eq_some_iff_getElem]
  constructor
  · rintro ⟨hp, hf, hlow⟩
    refine ⟨List.getElem?_eq_some_iff.mpr ⟨hp, by simpa using hf⟩, fun q hq hfree => ?_⟩
    obtain ⟨_, hq'⟩ := List.getElem?_eq_some_iff.mp hfree
    exact hlow q hq (by simpa using hq')
  · rintro ⟨hf, hlow⟩
    obtain ⟨hp, hf⟩ := List.getElem?_eq_some_iff.mp hf
    refine ⟨hp, by simpa using hf, fun q hq hfree => ?_⟩
    exact hlow q hq (List.getElem?_eq_some_iff.mpr ⟨by omega, by simpa using hfree⟩)

theorem lowestFree_eq_none {pool : List PoolState} : lowestFree pool = none ↔ .free ∉ pool := by
  unfold lowestFree
  rw [List.findIdx?_eq_none_iff]
  constructor
  · intro h hm
    simpa using h _ hm
  · intro h p hp
    have hne : p ≠ .free := fun he => h (he ▸ hp)
    simpa using hne

/-- Settles O21: the lookup is the search for the home track, and the allocation the search for the first FREE position. -/
theorem lookupAndAllocation : Obligations.LookupAndAllocation := by
  unfold Obligations.LookupAndAllocation
  refine ⟨fun spare t hn => ⟨lookupTrack_of_forall_ne, fun e he ht => ?_⟩, fun pool => ⟨fun p => lowestFree_eq_some, lowestFree_eq_none⟩⟩
  subst ht
  exact lookupTrack_of_find (find_of_nodup_map SpareEntry.home hn he)

end Sys2Proof.Machine
end


section
/-! Sitting of the family 03 (track addressing and the spare map), part 2: a reassignment undone (R52, R131, R135). -/

namespace Sys2Proof.Machine

-- One declaration after the other: in parallel the one compile of the whole text runs out of threads.
set_option Elab.async false

variable {s : State} {d : DriveId} {x z : Drive} {g : Geometry} {home t u : Track}

/-! ## An entry put into an empty slot (R50) -/

section PutEntry

variable {l : List SpareEntry} {n : SpareEntry}

theorem lowestSlot_fresh {i : Nat} (h : lowestSlot l = some i) : ∀ e ∈ l, e.slot ≠ i := by
  have := List.find?_some h
  simpa using this

/-- The search for the home track of an entry just put finds it, where no entry had that track. -/
theorem find_home_putEntry (hl : ∀ e ∈ l, e.home ≠ n.home) : (putEntry l n).find? (fun e => e.home = n.home) = some n := by
  induction l with
  | nil => simp [putEntry]
  | cons a l ih =>
    obtain ⟨ha, hl⟩ := List.forall_mem_cons.mp hl
    unfold putEntry
    split
    · simp
    · split
      · simp
      · rw [List.find?_cons_of_neg (by simpa using ha), ih hl]

/-- An entry put into an empty slot leaves the map by its home track, where no other entry has it. -/
theorem filter_home_putEntry (hl : ∀ e ∈ l, e.home ≠ n.home) (hs : ∀ e ∈ l, e.slot ≠ n.slot) :
    (putEntry l n).filter (fun e => e.home ≠ n.home) = l := by
  have keep : ∀ l : List SpareEntry, (∀ e ∈ l, e.home ≠ n.home) → l.filter (fun e => e.home ≠ n.home) = l := fun l hl =>
    List.filter_eq_self.mpr fun e he => by simpa using hl e he
  induction l with
  | nil => simp [putEntry]
  | cons a l ih =>
    obtain ⟨ha, hl'⟩ := List.forall_mem_cons.mp hl
    obtain ⟨has, hs'⟩ := List.forall_mem_cons.mp hs
    unfold putEntry
    split
    · rw [List.filter_cons_of_neg (by simp), keep _ hl]
    · rw [if_neg fun h => has h.symm, List.filter_cons_of_pos (by simpa using ha), ih hl' hs']

/-- A change of the entry just put alone. -/
theorem map_putEntry (f : SpareEntry → SpareEntry) (hl : ∀ e ∈ l, f e = e) (hn : (f n).slot = n.slot) :
    (putEntry l n).map f = putEntry l (f n) := by
  induction l with
  | nil => simp [putEntry]
  | cons a l ih =>
    obtain ⟨ha, hl'⟩ := List.forall_mem_cons.mp hl
    have hmap : l.map f = l := (List.map_congr_left hl').trans (List.map_id _)
    unfold putEntry
    rw [hn]
    split
    · simp [ha, hmap]
    · split
      · simp [hmap]
      · simp [ha, ih hl']

end PutEntry

/-! ## The map during a trial (R51, R130) -/

/-- R50, R51: the entry under which a track with none is spared. -/
def pendingEntry (slot : Nat) (home alt : Track) : SpareEntry :=
  { slot := slot, home := home, alt := alt, pending := true, origin := .auto, replacement := none }

/-- R51: an entry of the home track takes track `t` as its pending replacement. -/
def SpareEntry.replacedBy (home t : Track) (e : SpareEntry) : SpareEntry :=
  if e.home = home then { e with pending := true, replacement := some t } else e

/-- R51: the spare map while the home track is being spared, with track `t` under trial. -/
def Drive.trialSpare (x : Drive) (home t : Track) : List SpareEntry :=
  match x.entryFor home, lowestSlot x.spare with
  | none, some n => putEntry x.spare (pendingEntry n home t)
  | none, none => x.spare
  | some _, _ => x.spare.map (SpareEntry.replacedBy home t)

/-- R51, R131: the step from the trial of one track to that of the next, for an entry of the home track. -/
def SpareEntry.nextTrial (home t : Track) (e : SpareEntry) : SpareEntry :=
  if e.home = home then (if e.replacement.isSome then { e with replacement := some t } else { e with alt := t }) else e

/-- R52: an entry of the home track reverts to its old alternate. -/
def SpareEntry.reverted (home : Track) (e : SpareEntry) : SpareEntry :=
  if e.home = home then { e with pending := false, replacement := none } else e

theorem Drive.entryFor_none (h : x.entryFor home = none) : ∀ e ∈ x.spare, e.home ≠ home := by
  simpa [Drive.entryFor, List.find?_eq_none] using h

/-- The two forms of a sparing: by a new entry in an empty slot, or by a replacement in the entry of the home track. -/
theorem Drive.trialSpare_cases (x : Drive) (home : Track) (hs : (lowestSlot x.spare).isSome = true) :
    (∃ n, lowestSlot x.spare = some n ∧ x.entryFor home = none ∧ ∀ t, x.trialSpare home t = putEntry x.spare (pendingEntry n home t)) ∨
      ∃ e, x.entryFor home = some e ∧ ∀ t, x.trialSpare home t = x.spare.map (SpareEntry.replacedBy home t) := by
  obtain ⟨n, hn⟩ := Option.isSome_iff_exists.mp hs
  cases he : x.entryFor home with
  | none => exact .inl ⟨n, hn, rfl, fun t => by unfold Drive.trialSpare; rw [he, hn]⟩
  | some e => exact .inr ⟨e, rfl, fun t => by unfold Drive.trialSpare; rw [he]⟩

theorem find_replacedBy (home t : Track) (l : List SpareEntry) : (l.map (SpareEntry.replacedBy home t)).find? (fun e => e.home = home) =
    (l.find? fun e => e.home = home).map (SpareEntry.replacedBy home t) := by
  rw [List.find?_map]
  congr 2
  funext e
  by_cases h : e.home = home <;> simp [SpareEntry.replacedBy, h]

/-- R130: the track under trial is the one the entry of the home track names last. -/
theorem Drive.trialSpare_entry (hs : (lowestSlot x.spare).isSome = true) (ht : z.spare = x.trialSpare home t) :
    ∃ e, z.entryFor home = some e ∧ e.pending = true ∧ e.replacement.getD e.alt = t := by
  unfold Drive.entryFor
  rw [ht]
  rcases x.trialSpare_cases home hs with ⟨n, -, he, htr⟩ | ⟨e, he, htr⟩ <;> rw [htr]
  · exact ⟨_, find_home_putEntry (n := pendingEntry n home t) (Drive.entryFor_none he), rfl, rfl⟩
  · have hhome : e.home = home := by simpa using List.find?_some he
    unfold Drive.entryFor at he
    rw [find_replacedBy, he]
    exact ⟨_, rfl, by simp [SpareEntry.replacedBy, hhome], by simp [SpareEntry.replacedBy, hhome]⟩

theorem Drive.underTrial_trialSpare (hs : (lowestSlot x.spare).isSome = true) (ht : z.spare = x.trialSpare home t) :
    z.underTrial home = some t := by
  obtain ⟨e, he, -, htr⟩ := Drive.trialSpare_entry hs ht
  unfold Drive.underTrial
  rw [he, Option.map_some, htr]

/-- R131: the next track under trial takes the place of the last. -/
theorem Drive.map_nextTrial_trialSpare (hs : (lowestSlot x.spare).isSome = true) :
    (x.trialSpare home t).map (SpareEntry.nextTrial home u) = x.trialSpare home u := by
  rcases x.trialSpare_cases home hs with ⟨n, -, he, htr⟩ | ⟨e, -, htr⟩ <;> rw [htr, htr]
  · have hnext : SpareEntry.nextTrial home u (pendingEntry n home t) = pendingEntry n home u := by
      simp [SpareEntry.nextTrial, pendingEntry]
    have hkeep : ∀ e ∈ x.spare, SpareEntry.nextTrial home u e = e := fun e h => if_neg (Drive.entryFor_none he e h)
    rw [map_putEntry _ hkeep (by rw [hnext]; rfl), hnext]
  · rw [List.map_map]
    refine List.map_congr_left fun e _ => ?_
    by_cases h : e.home = home <;> simp [SpareEntry.nextTrial, SpareEntry.replacedBy, h]

/-! ## The pool during the trials (R48, R131) -/

/-- R131: the pool once the positions listed have gone DEAD. -/
def killedPool (pool : List PoolState) (dead : List Nat) : List PoolState := dead.foldl (fun pool p => pool.set p .dead) pool

theorem killedPool_concat (pool : List PoolState) (dead : List Nat) (p : Nat) :
    killedPool pool (dead ++ [p]) = (killedPool pool dead).set p .dead := by simp [killedPool]

theorem killedPool_getElem? {dead : List Nat} {p : Nat} (h : p ∉ dead) (pool : List PoolState) :
    (killedPool pool dead)[p]? = pool[p]? := by
  induction dead generalizing pool with
  | nil => rfl
  | cons q dead ih =>
    have hq : q ≠ p := fun hq => h (hq ▸ List.mem_cons_self)
    exact (ih (fun hm => h (List.mem_cons_of_mem _ hm)) _).trans (List.getElem?_set_ne hq)

theorem Geometry.trackPos_posTrack (g : Geometry) (p : Nat) : g.trackPos (g.posTrack p) = p := by
  simp [Geometry.trackPos, Geometry.posTrack, Nat.div_add_mod']

theorem Drive.posTrack_eq (hg : x.geom = some g) (p : Nat) : x.posTrack p = g.posTrack p := by
  simp [Drive.posTrack, hg]

/-! ## A drive with another map and pool -/

/-- A drive with its spare map and pool replaced. -/
def Drive.withMap (x : Drive) (spare : List SpareEntry) (pool : List PoolState) : Drive := { x with spare := spare, pool := pool }

variable {spare : List SpareEntry} {pool : List PoolState}

theorem Drive.markTrack_withMap (hg : x.geom = some g) (p : Nat) (st : PoolState) :
    (x.withMap spare pool).markTrack (x.posTrack p) st = x.withMap spare (pool.set p st) := by
  unfold Drive.markTrack
  rw [Drive.posTrack_eq hg, show (x.withMap spare pool).geom = some g from hg]
  dsimp only
  rw [Geometry.trackPos_posTrack, ← hg]
  rfl

/-- R48, R52: only a position IN USE is given back. -/
theorem Drive.releaseTrack_withMap (hg : x.geom = some g) (p : Nat) : (x.withMap spare pool).releaseTrack (x.posTrack p) =
    x.withMap spare (if pool[p]? = some .inUse then pool.set p .free else pool) := by
  have hpos : g.trackPos (x.posTrack p) = p := by rw [Drive.posTrack_eq hg, Geometry.trackPos_posTrack]
  unfold Drive.releaseTrack
  rw [show (x.withMap spare pool).geom = some g from hg]
  simp only [hpos, ← hg]
  change (if pool[p]? = some .inUse then _ else _) = _
  split <;> rfl

/-- R52: with the track under trial given back, the spare map is as it was before the sparing. -/
theorem Drive.sparingUndone_withMap (hg : x.geom = some g) (hs : (lowestSlot x.spare).isSome = true)
    (hx : ∀ e ∈ x.spare, e.pending = false ∧ e.replacement = none) (p : Nat) :
    (x.withMap (x.trialSpare home (x.posTrack p)) pool).sparingUndone home =
      x.withMap x.spare (if pool[p]? = some .inUse then pool.set p .free else pool) := by
  have hentry : (x.withMap (x.trialSpare home (x.posTrack p)) pool).entryFor home =
      (x.trialSpare home (x.posTrack p)).find? fun e => e.home = home := rfl
  unfold Drive.sparingUndone
  rcases x.trialSpare_cases home hs with ⟨n, hn, he, htr⟩ | ⟨e, he, htr⟩
  · rw [hentry, htr]
    have hfind : (putEntry x.spare (pendingEntry n home (x.posTrack p))).find? (fun e => e.home = home) = some (pendingEntry n home (x.posTrack p)) :=
      find_home_putEntry (n := pendingEntry n home (x.posTrack p)) (Drive.entryFor_none he)
    have hdrop : (putEntry x.spare (pendingEntry n home (x.posTrack p))).filter (fun e => e.home ≠ home) = x.spare :=
      filter_home_putEntry (n := pendingEntry n home (x.posTrack p)) (Drive.entryFor_none he) (lowestSlot_fresh hn)
    rw [hfind]
    change Drive.dropEntry (Drive.releaseTrack _ (x.posTrack p)) home = _
    rw [Drive.releaseTrack_withMap hg]
    exact congrArg (fun l => x.withMap l _) hdrop
  · have hhome : e.home = home := by simpa using List.find?_some he
    have hrepl : SpareEntry.replacedBy home (x.posTrack p) e = { e with pending := true, replacement := some (x.posTrack p) } := if_pos hhome
    unfold Drive.entryFor at he
    rw [hentry, htr, find_replacedBy, he, Option.map_some, hrepl]
    change Drive.modEntry (Drive.releaseTrack _ (x.posTrack p)) home (fun e => { e with pending := false, replacement := none }) = _
    have hback : (x.spare.map (SpareEntry.replacedBy home (x.posTrack p))).map (SpareEntry.reverted home) = x.spare := by
      rw [List.map_map]
      refine (List.map_congr_left fun e hm => ?_).trans (List.map_id _)
      obtain ⟨hp, hr⟩ := hx e hm
      obtain ⟨slot, h, alt, p, o, r⟩ := e
      dsimp only at hp hr
      subst hp hr
      by_cases hh : h = home <;> simp [SpareEntry.reverted, SpareEntry.replacedBy, hh]
    rw [Drive.releaseTrack_withMap hg]
    exact congrArg (fun l => x.withMap l _) hback

/-! ## A drive with a track under trial -/

/-- R51, R131: the drive while position `pos` is under trial for a home track, the trials of the positions `dead` having failed. -/
def Drive.onTrial (x : Drive) (home : Track) (dead : List Nat) (pos : Nat) : Drive :=
  x.withMap (x.trialSpare home (x.posTrack pos)) ((killedPool x.pool dead).set pos .inUse)

theorem Drive.beginSparing_eq_onTrial (hg : x.geom = some g) (hs : (lowestSlot x.spare).isSome = true) (pos : Nat) :
    x.beginSparing home pos = x.onTrial home [] pos := by
  have hmark : x.markTrack (x.posTrack pos) .inUse = x.withMap x.spare (x.pool.set pos .inUse) :=
    Drive.markTrack_withMap (spare := x.spare) (pool := x.pool) hg pos .inUse
  unfold Drive.beginSparing Drive.onTrial
  dsimp only
  rw [hmark]
  rcases x.trialSpare_cases home hs with ⟨n, hn, he, htr⟩ | ⟨e, he, htr⟩ <;> rw [he, htr]
  · unfold Drive.addEntry
    rw [show lowestSlot (x.withMap x.spare (x.pool.set pos .inUse)).spare = some n from hn]
    rfl
  · rfl

/-- R131: a failed trial. -/
theorem Drive.killTrial_onTrial (hg : x.geom = some g) (hs : (lowestSlot x.spare).isSome = true) (dead : List Nat) (pos : Nat) :
    (x.onTrial home dead pos).killTrial home =
      x.withMap (x.trialSpare home (x.posTrack pos)) (killedPool x.pool (dead ++ [pos])) := by
  unfold Drive.killTrial
  rw [Drive.underTrial_trialSpare (x := x) hs rfl]
  refine (Drive.markTrack_withMap hg pos .dead).trans ?_
  rw [List.set_set, killedPool_concat]

theorem Drive.nextTrial_onTrial (hg : x.geom = some g) (hs : (lowestSlot x.spare).isSome = true) (dead : List Nat) (pos q : Nat) :
    ((x.onTrial home dead pos).killTrial home).nextTrial home q = x.onTrial home (dead ++ [pos]) q := by
  rw [Drive.killTrial_onTrial hg hs]
  change Drive.modEntry (Drive.markTrack _ (x.posTrack q) .inUse) home
    (fun e => if e.replacement.isSome then { e with replacement := some (x.posTrack q) } else { e with alt := x.posTrack q }) = _
  rw [Drive.markTrack_withMap hg]
  exact congrArg (fun l => x.withMap l _) (Drive.map_nextTrial_trialSpare hs)

/-- R131: trial follows trial. -/
theorem Drive.foldl_trials (hg : x.geom = some g) (hs : (lowestSlot x.spare).isSome = true) (more dead : List Nat) (pos : Nat) :
    more.foldl (fun z q => (z.killTrial home).nextTrial home q) (x.onTrial home dead pos) =
      x.onTrial home (dead ++ (pos :: more).dropLast) ((pos :: more).getLast (List.cons_ne_nil _ _)) := by
  induction more generalizing dead pos with
  | nil => simp
  | cons q more ih =>
    rw [List.foldl_cons, Drive.nextTrial_onTrial hg hs, ih]
    simp

section Undone

variable {dead : List Nat} {pos : Nat}

/-- R52: undone during a trial, the drive is as it was but for the positions whose trials failed. -/
theorem Drive.sparingUndone_onTrial (hg : x.geom = some g) (hs : (lowestSlot x.spare).isSome = true)
    (hx : ∀ e ∈ x.spare, e.pending = false ∧ e.replacement = none) (hpos : x.pool[pos]? = some .free) (hd : pos ∉ dead) :
    (x.onTrial home dead pos).sparingUndone home = x.withMap x.spare (killedPool x.pool dead) := by
  obtain ⟨hlt, hget⟩ := List.getElem?_eq_some_iff.mp ((killedPool_getElem? hd _).trans hpos)
  unfold Drive.onTrial
  rw [Drive.sparingUndone_withMap hg hs hx, if_pos (List.getElem?_set_self hlt), List.set_set, ← hget, List.set_getElem_self]

/-- R52, R131: undone after a failed trial, its position is DEAD too. -/
theorem Drive.sparingUndone_killTrial (hg : x.geom = some g) (hs : (lowestSlot x.spare).isSome = true)
    (hx : ∀ e ∈ x.spare, e.pending = false ∧ e.replacement = none) (hpos : x.pool[pos]? = some .free) (hd : pos ∉ dead) :
    ((x.onTrial home dead pos).killTrial home).sparingUndone home = x.withMap x.spare (killedPool x.pool (dead ++ [pos])) := by
  obtain ⟨hlt, -⟩ := List.getElem?_eq_some_iff.mp ((killedPool_getElem? hd _).trans hpos)
  rw [Drive.killTrial_onTrial hg hs, Drive.sparingUndone_withMap hg hs hx, if_neg]
  rw [killedPool_concat, List.getElem?_set_self hlt]
  decide

end Undone

/-! ## The abort (R135) -/

theorem State.abortReassign_other (h : s.engineDrive ≠ some d) : s.abortReassign d = s := if_neg h

/-- R135: the abort from TAKEN. -/
theorem State.abortReassign_taken (h : s.engineDrive = some d) (ht : s.reassign.state ≠ .copying) :
    s.abortReassign d = (s.modDrive d fun x => { x with pendReassign := false }).engineFree := by
  unfold State.abortReassign
  rw [if_pos h]
  split
  · next hc _ _ => exact absurd hc ht
  · rfl

/-- R135: the abort from COPYING. -/
theorem State.abortReassign_copying (h : s.engineDrive = some d) (hc : s.reassign.state = .copying) {i : Nat} {e : WatchEntry}
    (hi : s.reassign.slot = some i) (he : s.reassign.held = some e) :
    s.abortReassign d = ((s.modDrive d fun x => x.sparingUndone e.home).setWatch i e).engineFree := by
  unfold State.abortReassign
  rw [if_pos h, hc, hi, he]

/-- The abort on the engine's drive, in either state: the engine FREE, the ports and the other drives as they were. -/
theorem State.abortReassign_frame (h : s.engineDrive = some d) : (s.abortReassign d).reassign = ReassignEngine.initial ∧
    (s.abortReassign d).ports = s.ports ∧ ∀ e, e ≠ d → (s.abortReassign d).drive e = s.drive e := by
  unfold State.abortReassign
  rw [if_pos h]
  split
  · next i w _ _ _ => exact ⟨rfl, rfl, fun e he => (State.drive_modDrive_ne s (fun x => x.sparingUndone w.home) he :)⟩
  · exact ⟨rfl, rfl, fun e he => (State.drive_modDrive_ne s (fun x => { x with pendReassign := false }) he :)⟩

/-- Settles O22: each trial is `Drive.onTrial`, from which the map is restored; the abort is one of two, by the state of the engine. -/
theorem abortRestoresMap : Obligations.AbortRestoresMap := by
  unfold Obligations.AbortRestoresMap
  refine ⟨fun x g home pos more hg _ hx hs hfree hnodup => ?_, fun s d => ⟨State.abortReassign_other, fun h => ?_⟩⟩
  · have hne : pos :: more ≠ [] := List.cons_ne_nil _ _
    have hlast : (pos :: more).getLast hne ∉ (pos :: more).dropLast := by
      have hd := hnodup
      rw [← List.dropLast_append_getLast hne, List.nodup_append] at hd
      exact fun hm => hd.2.2 _ hm _ (List.mem_singleton.mpr rfl) rfl
    have hlfree := hfree _ (List.getLast_mem hne)
    dsimp only
    rw [Drive.beginSparing_eq_onTrial hg hs, Drive.foldl_trials hg hs, List.nil_append]
    refine ⟨Drive.sparingUndone_onTrial hg hs hx.settled hlfree hlast, ?_⟩
    rw [Drive.sparingUndone_killTrial hg hs hx.settled hlfree hlast, List.dropLast_append_getLast]
    rfl
  · obtain ⟨hfree, hports, hothers⟩ := State.abortReassign_frame h
    refine ⟨hfree, hports, hothers, fun ht => ?_, fun i e hc hi he => ?_⟩
    · rw [State.abortReassign_taken h (by rw [ht]; decide)]
      exact ⟨rfl, (State.drive_modDrive_self s d fun x => { x with pendReassign := false } :)⟩
    · rw [State.abortReassign_copying h hc hi he]
      exact ⟨rfl, (State.drive_modDrive_self s d fun x => x.sparingUndone e.home :)⟩

end Sys2Proof.Machine
end


section
/-! Sitting of the family 03 (track addressing and the spare map), part 3: PUTs of the spare map and the pool keep their laws (R49, R50,
R67, R68). -/

namespace Sys2Proof.Machine

-- One declaration after the other: in parallel the one compile of the whole text runs out of threads.
set_option Elab.async false

variable {x y : Drive} {g : Geometry} {t u : Track}

/-! ## Tracks and positions of the pool (R46) -/

/-- R46: what a consistent geometry meets. -/
theorem Geometry.consistent_spec (h : g.consistent = true) : (g.c ≤ 1024 ∧ 1 ≤ g.h ∧ g.h ≤ 16 ∧ g.s ≤ 32) ∧
    (1 ≤ g.a ∧ g.a ≤ 16 ∧ g.a * g.h ≤ 129) ∧ g.a + 1 ≤ g.c := by
  simp only [Geometry.consistent, Bool.and_eq_true, decide_eq_true_eq] at h
  omega

theorem Geometry.isPool_iff : g.isPool t = true ↔ (g.c - g.a ≤ t.cyl ∧ t.cyl < g.c) ∧ t.head < g.h := by
  simp [Geometry.isPool]

theorem Geometry.posTrack_trackPos (h : g.isPool t = true) : g.posTrack (g.trackPos t) = t := by
  obtain ⟨⟨hlo, -⟩, hh⟩ := Geometry.isPool_iff.mp h
  have hpos : 0 < g.h := by omega
  have hdiv : ((t.cyl - (g.c - g.a)) * g.h + t.head) / g.h = t.cyl - (g.c - g.a) := by
    rw [Nat.add_comm, Nat.add_mul_div_right _ _ hpos, Nat.div_eq_of_lt hh, Nat.zero_add]
  have hmod : ((t.cyl - (g.c - g.a)) * g.h + t.head) % g.h = t.head := by
    rw [Nat.add_comm, Nat.add_mul_mod_self_right, Nat.mod_eq_of_lt hh]
  unfold Geometry.posTrack Geometry.trackPos
  rw [hdiv, hmod, Nat.add_sub_cancel' hlo]

/-- R46: the alternate tracks have positions of their own. -/
theorem Geometry.trackPos_inj (ht : g.isPool t = true) (hu : g.isPool u = true) (h : g.trackPos t = g.trackPos u) : t = u := by
  rw [← Geometry.posTrack_trackPos ht, h, Geometry.posTrack_trackPos hu]

theorem Geometry.trackPos_lt (hg : g.consistent = true) (h : g.isPool t = true) : g.trackPos t < g.poolSize := by
  obtain ⟨⟨hlo, hhi⟩, hh⟩ := Geometry.isPool_iff.mp h
  have hc := (Geometry.consistent_spec hg).2.2
  calc g.trackPos t < (t.cyl - (g.c - g.a)) * g.h + g.h := Nat.add_lt_add_left hh _
    _ = (t.cyl - (g.c - g.a) + 1) * g.h := (Nat.succ_mul _ _).symm
    _ ≤ g.a * g.h := Nat.mul_le_mul_right _ (by omega)

theorem Geometry.isPool_mapTrack (hg : g.consistent = true) : g.isPool g.mapTrack = true := by
  obtain ⟨⟨-, hh, -⟩, ⟨ha, -⟩, hc⟩ := Geometry.consistent_spec hg
  exact Geometry.isPool_iff.mpr ⟨⟨by simp only [Geometry.mapTrack]; omega, by simp only [Geometry.mapTrack]; omega⟩, hh⟩

theorem Geometry.trackPos_mapTrack (hg : g.consistent = true) : g.trackPos g.mapTrack = g.mapPos := by
  obtain ⟨-, ⟨ha, -⟩, hc⟩ := Geometry.consistent_spec hg
  have : g.c - 1 - (g.c - g.a) = g.a - 1 := by omega
  simp [Geometry.trackPos, Geometry.mapTrack, Geometry.mapPos, this]

theorem Geometry.trackPos_ne_mapPos (hg : g.consistent = true) (h : g.isPool t = true) (ht : t ≠ g.mapTrack) :
    g.trackPos t ≠ g.mapPos := fun he =>
  ht (Geometry.trackPos_inj h (Geometry.isPool_mapTrack hg) (he.trans (Geometry.trackPos_mapTrack hg).symm))

/-! ## The entry put into a slot (R50) -/

section PutEntry

variable {l : List SpareEntry} {n e : SpareEntry}

/-- The slots of a spare map, strictly rising. -/
def SlotsRise (l : List SpareEntry) : Prop := l.Pairwise fun a b => a.slot < b.slot

theorem SlotsRise.nodup (h : SlotsRise l) : (l.map SpareEntry.slot).Nodup :=
  List.pairwise_map.mpr (List.Pairwise.imp Nat.ne_of_lt h)

theorem mem_putEntry (h : SlotsRise l) : e ∈ putEntry l n ↔ e = n ∨ (e ∈ l ∧ e.slot ≠ n.slot) := by
  induction l with
  | nil => simp [putEntry]
  | cons a l ih =>
    obtain ⟨ha, hl⟩ := List.pairwise_cons.mp h
    have above : ∀ f ∈ l, n.slot ≤ a.slot → f.slot ≠ n.slot := fun f hf hle => by have := ha f hf; omega
    unfold putEntry
    split
    · next hlt =>
      rw [List.mem_cons]
      refine or_congr_right ⟨fun he => ⟨he, ?_⟩, And.left⟩
      rcases List.mem_cons.mp he with rfl | he
      · omega
      · exact above e he (by omega)
    · split
      · next heq =>
        simp only [List.mem_cons]
        refine or_congr_right ⟨fun he => ⟨.inr he, above e he heq.le⟩, fun ⟨he, hne⟩ => he.resolve_left ?_⟩
        rintro rfl
        exact hne heq.symm
      · next hne =>
        have hane : a.slot ≠ n.slot := fun h => hne h.symm
        simp only [List.mem_cons, ih hl]
        constructor
        · rintro (rfl | rfl | ⟨he, hs⟩)
          · exact .inr ⟨.inl rfl, hane⟩
          · exact .inl rfl
          · exact .inr ⟨.inr he, hs⟩
        · rintro (rfl | ⟨rfl | he, hs⟩)
          · exact .inr (.inl rfl)
          · exact .inl rfl
          · exact .inr (.inr ⟨he, hs⟩)

theorem SlotsRise.putEntry (h : SlotsRise l) : SlotsRise (putEntry l n) := by
  induction l with
  | nil => exact List.pairwise_singleton _ _
  | cons a l ih =>
    obtain ⟨ha, hl⟩ := List.pairwise_cons.mp h
    unfold Machine.putEntry
    split
    · next hlt =>
      refine List.pairwise_cons.mpr ⟨fun e he => ?_, h⟩
      rcases List.mem_cons.mp he with rfl | he
      · exact hlt
      · exact hlt.trans (ha e he)
    · split
      · next heq => exact List.pairwise_cons.mpr ⟨fun e he => heq ▸ ha e he, hl⟩
      · refine List.pairwise_cons.mpr ⟨fun e he => ?_, ih hl⟩
        rcases (mem_putEntry hl).mp he with rfl | ⟨he, -⟩
        · omega
        · exact ha e he

/-- The map after a PUT to a slot: its entry, and those of the other slots. -/
theorem putEntry_perm (h : SlotsRise l) : (putEntry l n).Perm (n :: l.filter fun e => e.slot ≠ n.slot) := by
  have hrest : (n :: l.filter fun e => e.slot ≠ n.slot).Nodup :=
    List.nodup_cons.mpr ⟨by simp, h.nodup.of_map.filter _⟩
  refine (List.perm_ext_iff_of_nodup h.putEntry.nodup.of_map hrest).mpr fun e => ?_
  rw [mem_putEntry h]
  simp

end PutEntry

/-! ## A slot's entry replaced (R67) -/

theorem Drive.mapLaw.slotEntry_of_mem (h : x.mapLaw g) {e : SpareEntry} (he : e ∈ x.spare) : x.slotEntry e.slot = some e :=
  find_of_nodup_map SpareEntry.slot (SlotsRise.nodup (List.pairwise_map.mp h.slots)) he

/-- R49: the alternate of an entry is that of no other. -/
theorem Drive.mapLaw.alt_inj (h : x.mapLaw g) {e f : SpareEntry} (he : e ∈ x.spare) (hf : f ∈ x.spare) (ha : e.alt = f.alt) : e = f :=
  List.inj_on_of_nodup_map h.alts he hf ha

/-- R50, R67: an entry that may be put into its slot: of a user track and an alternate that no other slot names. -/
structure SpareEntry.Fits (n : SpareEntry) (x : Drive) (g : Geometry) (i : Nat) : Prop where
  slot : n.slot = i
  settled : n.pending = false ∧ n.replacement = none
  place : g.isUser n.home = true ∧ g.isPool n.alt = true ∧ n.alt ≠ g.mapTrack
  home : ∀ e ∈ x.spare, e.slot ≠ i → e.home ≠ n.home
  alt : ∀ e ∈ x.spare, e.slot ≠ i → e.alt ≠ n.alt

/-- R49, R50: a PUT to a slot keeps the laws, where what is put may be put. -/
theorem Drive.mapLaw.slotPut (h : x.mapLaw g) (hg : g.consistent = true) {i : Nat} {put : Option SpareEntry} (hp : SlotPut x y g i put)
    (hsize : y.pool.length = x.pool.length) (hrise : SlotsRise y.spare)
    (hspare : y.spare.Perm (put.toList ++ x.spare.filter fun e => e.slot ≠ i)) (hput : ∀ n, put = some n → n.Fits x g i) :
    y.mapLaw g := by
  have hmem : ∀ e, e ∈ y.spare ↔ put = some e ∨ (e ∈ x.spare ∧ e.slot ≠ i) := fun e => by
    rw [hspare.mem_iff]
    simp
  have hkeep : ∀ f : SpareEntry → Track, (x.spare.map f).Nodup → (∀ n, put = some n → ∀ e ∈ x.spare, e.slot ≠ i → f e ≠ f n) →
      (y.spare.map f).Nodup := fun f hf hne => by
    rw [(hspare.map f).nodup_iff]
    have hrest := hf.sublist (List.filter_sublist (p := fun e => e.slot ≠ i) |>.map f)
    cases hn : put with
    | none => simpa using hrest
    | some n =>
      refine List.nodup_cons.mpr ⟨fun hm => ?_, hrest⟩
      obtain ⟨e, he, heq⟩ := List.mem_map.mp hm
      obtain ⟨he, hs⟩ := List.mem_filter.mp he
      exact hne n hn e he (by simpa using hs) heq
  have hpos : ∀ p, (∃ n, put = some n ∧ p = g.trackPos n.alt) ∨
      (∃ c, x.slotEntry i = some c ∧ p = g.trackPos c.alt ∧ y.pool[p]? = some .free) ∨
      ((∀ n, put = some n → p ≠ g.trackPos n.alt) ∧ (∀ c, x.slotEntry i = some c → p ≠ g.trackPos c.alt) ∧ y.pool[p]? = x.pool[p]?) :=
    fun p => by
      by_cases h1 : ∃ n, put = some n ∧ p = g.trackPos n.alt
      · exact .inl h1
      have h1' : ∀ n, put = some n → p ≠ g.trackPos n.alt := fun n hn he => h1 ⟨n, hn, he⟩
      by_cases h2 : ∃ c, x.slotEntry i = some c ∧ p = g.trackPos c.alt
      · obtain ⟨c, hc, rfl⟩ := h2
        exact .inr (.inl ⟨c, hc, rfl, hp.freed c hc fun n hn he => h1' n hn (by rw [he])⟩)
      · have h2' : ∀ c, x.slotEntry i = some c → p ≠ g.trackPos c.alt := fun c hc he => h2 ⟨c, hc, he⟩
        exact .inr (.inr ⟨h1', h2', hp.pool p h1' h2'⟩)
  have hold : ∀ c, x.slotEntry i = some c → c.slot = i ∧ c ∈ x.spare := fun c hc => Drive.slotEntry_slot hc
  refine ⟨hsize.trans h.size, fun p => ?_, fun e he => ?_, fun e he => ?_, List.pairwise_map.mpr hrise,
    hkeep _ h.homes fun n hn => (hput n hn).home, hkeep _ h.alts fun n hn => (hput n hn).alt, fun p => ?_⟩
  · rcases hpos p with ⟨n, hn, rfl⟩ | ⟨c, hc, rfl, hfree⟩ | ⟨-, -, hsame⟩
    · obtain ⟨-, hpool, hmap⟩ := (hput n hn).place
      rw [hp.stored n hn]
      exact ⟨nofun, fun he => absurd he (Geometry.trackPos_ne_mapPos hg hpool hmap)⟩
    · obtain ⟨-, hpool, hmap⟩ := h.place c (hold c hc).2
      rw [hfree]
      exact ⟨nofun, fun he => absurd he (Geometry.trackPos_ne_mapPos hg hpool hmap)⟩
    · rw [hsame]
      exact h.map p
  · rcases (hmem e).mp he with hn | ⟨he, -⟩
    · exact (hput e hn).settled
    · exact h.settled e he
  · rcases (hmem e).mp he with hn | ⟨he, -⟩
    · exact (hput e hn).place
    · exact h.place e he
  · constructor
    · intro hin
      rcases hpos p with ⟨n, hn, rfl⟩ | ⟨c, hc, rfl, hfree⟩ | ⟨-, h2, hsame⟩
      · exact ⟨n, (hmem n).mpr (.inl hn), rfl⟩
      · rw [hfree] at hin
        cases hin
      · rw [hsame] at hin
        obtain ⟨e, he, rfl⟩ := (h.named p).mp hin
        exact ⟨e, (hmem e).mpr (.inr ⟨he, fun hs => h2 e (hs ▸ h.slotEntry_of_mem he) rfl⟩), rfl⟩
    · rintro ⟨e, he, rfl⟩
      rcases (hmem e).mp he with hn | ⟨he, hs⟩
      · exact hp.stored e hn
      rcases hpos (g.trackPos e.alt) with ⟨n, hn, heq⟩ | ⟨c, hc, heq, -⟩ | ⟨-, -, hsame⟩
      · exact absurd (Geometry.trackPos_inj (h.place e he).2.1 (hput n hn).place.2.1 heq) ((hput n hn).alt e he hs)
      · obtain ⟨hcs, hcm⟩ := hold c hc
        have hec := h.alt_inj he hcm (Geometry.trackPos_inj (h.place e he).2.1 (h.place c hcm).2.1 heq)
        exact absurd (hec ▸ hcs) hs
      · rw [hsame]
        exact (h.named _).mpr ⟨e, he, rfl⟩

/-! ## The PUTs (R67, R68) -/

/-- R67: an entry that is not refused may be put. -/
theorem Drive.entryBad_fits (h : x.mapLaw g) {i : Nat} {b : List Byte} (hb : x.entryBad g (loadedEntry i b) = false) :
    (loadedEntry i b).Fits x g i := by
  have halt := Drive.entryBad_alt hb
  simp only [Drive.entryBad, Bool.or_eq_false_iff, Bool.not_eq_false', decide_eq_false_iff_not, List.any_eq_false, Bool.and_eq_true,
    decide_eq_true_eq, not_and] at hb
  obtain ⟨⟨⟨⟨huser, hhome⟩, hpool⟩, hmap⟩, -⟩ := hb
  refine ⟨rfl, ⟨rfl, rfl⟩, ⟨huser, hpool, hmap⟩, hhome, fun e he hs heq => ?_⟩
  rcases halt with hfree | ⟨o, ho, hoalt⟩
  · have hin := (h.named _).mpr ⟨e, he, rfl⟩
    rw [heq, hfree] at hin
    cases hin
  · obtain ⟨hos, hom⟩ := Drive.slotEntry_slot ho
    have heo := h.alt_inj he hom (heq.trans hoalt.symm)
    exact hs (heo ▸ hos)

theorem Drive.length_markTrack (x : Drive) (k : Track) (st : PoolState) : (x.markTrack k st).pool.length = x.pool.length := by
  unfold Drive.markTrack
  split
  · rfl
  · exact List.length_set

theorem Drive.length_storeEntry (x : Drive) (n : SpareEntry) : (x.storeEntry n).pool.length = x.pool.length := by
  unfold Drive.storeEntry
  dsimp only
  rw [Drive.length_markTrack]
  split
  · split
    · rfl
    · exact x.length_markTrack _ _
  · rfl

theorem Drive.mapLaw.mapChanged (h : x.mapLaw g) : x.mapChanged.mapLaw g := 
  ⟨h.size, h.map, h.settled, h.place, h.slots, h.homes, h.alts, h.named⟩

/-- R67: a PUT of the spare map that is not refused keeps the laws. -/
theorem Drive.mapLaw.putSlot (h : x.mapLaw g) (hx : x.geom = some g) (hg : g.consistent = true) (i : Nat) (b : List Byte)
    (hb : b ≠ [] → x.entryBad g (loadedEntry i b) = false) : (x.putSlot i b).mapLaw g := by
  have hput := SlotPut.putSlot hx h i b hb
  have hrise : SlotsRise x.spare := List.pairwise_map.mp h.slots
  rcases x.putSlot_cases i b with ⟨-, -, hp⟩ | ⟨o, hb0, ho, hp⟩ | ⟨-, -, hp⟩ | ⟨hb0, ho, hp⟩
  · rw [hp]
    exact h
  · obtain ⟨rfl, -⟩ := Drive.slotEntry_slot ho
    rw [putEntryOf, if_pos hb0] at hput
    rw [hp] at hput ⊢
    exact h.slotPut hg hput (x.length_markTrack _ _) (hrise.filter _) (.refl _) nofun
  · rw [hp]
    exact h
  · rw [putEntryOf, if_neg hb0] at hput
    rw [hp] at hput ⊢
    refine h.slotPut hg hput (x.length_storeEntry _) hrise.putEntry (putEntry_perm hrise) fun n hn => ?_
    cases hn
    exact Drive.entryBad_fits h (hb hb0)

/-- R68: a PUT of the pool to FREE or DEAD, of a position neither IN USE nor the map track, keeps the laws. -/
theorem Drive.mapLaw.putPool (h : x.mapLaw g) {i : Nat} {st : PoolState} (hst : st = .free ∨ st = .dead) (hi : i < g.poolSize)
    (hm : i ≠ g.mapPos) (hu : x.pool[i]? ≠ some .inUse) : (x.putPool i st).mapLaw g := by
  unfold Drive.putPool
  split
  · exact h
  have hat : (x.pool.set i st)[i]? = some st := List.getElem?_set_self (by rw [h.size]; exact hi)
  have hset : ∀ p q, q ≠ st → ((x.pool.set i st)[p]? = some q ↔ p ≠ i ∧ x.pool[p]? = some q) := fun p q hq => by
    by_cases hp : p = i
    · subst hp
      rw [hat]
      exact ⟨fun he => absurd (Option.some.inj he).symm hq, fun he => absurd rfl he.1⟩
    · rw [List.getElem?_set_ne fun h => hp h.symm]
      exact ⟨fun he => ⟨hp, he⟩, And.right⟩
  refine Drive.mapLaw.mapChanged ⟨List.length_set.trans h.size, fun p => ?_, h.settled, h.place, h.slots, h.homes, h.alts, fun p => ?_⟩
  · refine (hset p .map (by rcases hst with rfl | rfl <;> decide)).trans ?_
    rw [h.map p]
    exact ⟨And.right, fun hp => ⟨fun hpi => hm (hpi ▸ hp), hp⟩⟩
  · refine (hset p .inUse (by rcases hst with rfl | rfl <;> decide)).trans ?_
    rw [← h.named p]
    exact ⟨And.right, fun hp => ⟨fun hpi => hu (hpi ▸ hp), hp⟩⟩

/-- Settles O27: a slot takes an entry that may be put into it, and a pool position neither IN USE nor the map's may change. -/
theorem mapEditsKeepLaw : Obligations.MapEditsKeepLaw := by
  unfold Obligations.MapEditsKeepLaw
  exact fun x g i hx hg h _ => ⟨h.putSlot hx hg i, fun st hst => h.putPool hst⟩

end Sys2Proof.Machine
end


section
/-! Sitting of the family 03 (track addressing and the spare map), part 4: the map record, composed and loaded back (R59, R63). -/

namespace Sys2Proof.Machine

-- One declaration after the other: in parallel the one compile of the whole text runs out of threads.
set_option Elab.async false

variable {x y : Drive} {g : Geometry} {r : MapRecord}

/-! ## A composed record passes the checks (R59, R63) -/

/-- R59: what the record carries of an entry. -/
def SpareEntry.toRecord (e : SpareEntry) : RecordEntry := { home := e.home, alt := e.alt, origin := e.origin }

/-- R59: with nothing PENDING, every entry is carried. -/
theorem composeRecord_entries (g : Geometry) (h : ∀ e ∈ x.spare, e.pending = false) :
    (composeRecord g x).entries = x.spare.map SpareEntry.toRecord := by
  have hf : x.spare.filter (fun e => !e.pending) = x.spare := List.filter_eq_self.mpr fun e he => by simp [h e he]
  unfold composeRecord
  dsimp only
  rw [hf]
  rfl

theorem Drive.mapLaw.entries (h : x.mapLaw g) : (composeRecord g x).entries = x.spare.map SpareEntry.toRecord :=
  composeRecord_entries g fun e he => (h.settled e he).1

/-- R49: there are fewer entries than positions: each has one of its own, and none has the map track. -/
theorem Drive.mapLaw.length_spare (h : x.mapLaw g) (hg : g.consistent = true) : x.spare.length ≤ g.poolSize - 1 := by
  have hnodup : (x.spare.map fun e => g.trackPos e.alt).Nodup := by
    refine (List.nodup_map_iff_inj_on h.homes.of_map).mpr fun e he f hf heq => ?_
    exact h.alt_inj he hf (Geometry.trackPos_inj (h.place e he).2.1 (h.place f hf).2.1 heq)
  have hsub : x.spare.map (fun e => g.trackPos e.alt) ⊆ (List.range g.poolSize).erase g.mapPos := fun p hp => by
    obtain ⟨e, he, rfl⟩ := List.mem_map.mp hp
    obtain ⟨-, hpool, hmap⟩ := h.place e he
    exact (List.mem_erase_of_ne (Geometry.trackPos_ne_mapPos hg hpool hmap)).mpr (List.mem_range.mpr (Geometry.trackPos_lt hg hpool))
  have hmem : g.mapPos ∈ List.range g.poolSize := by
    rw [List.mem_range, ← Geometry.trackPos_mapTrack hg]
    exact Geometry.trackPos_lt hg (Geometry.isPool_mapTrack hg)
  have hle := (List.subperm_of_subset hnodup hsub).length_le
  rwa [List.length_map, List.length_erase_of_mem hmem, List.length_range] at hle

theorem poolNamesMap_iff {pool : List PoolState} :
    poolNamesMap g pool = true ↔ pool.length = g.poolSize ∧ ∀ p, p < g.poolSize → (pool[p]? = some .map ↔ p = g.mapPos) := by
  simp [poolNamesMap]

theorem namesInUse_iff : namesInUse g r = true ↔ (∀ e ∈ r.entries, r.pool[g.trackPos e.alt]? = some .inUse) ∧
    ∀ p, p < g.poolSize → r.pool[p]? = some .inUse → ∃ e ∈ r.entries, g.trackPos e.alt = p := by
  simp [namesInUse, imp_iff_not_or]

/-- R63: the record composed from a lawful map is accepted. -/
theorem Drive.mapLaw.recordAcceptable (h : x.mapLaw g) (hg : g.consistent = true) :
    recordAcceptable g (composeRecord g x) = true := by
  have hlen : (composeRecord g x).entries.length ≤ g.poolSize - 1 := by
    rw [h.entries, List.length_map]
    exact h.length_spare hg
  have hplace : ∀ e ∈ (composeRecord g x).entries, entryInPlace g e = true := by
    rw [h.entries]
    intro e he
    obtain ⟨f, hf, rfl⟩ := List.mem_map.mp he
    obtain ⟨huser, hpool, hmap⟩ := h.place f hf
    simp [entryInPlace, SpareEntry.toRecord, huser, hpool, hmap]
  have hnodup : ((composeRecord g x).entries.map RecordEntry.home).Nodup ∧ ((composeRecord g x).entries.map RecordEntry.alt).Nodup := by
    rw [h.entries, List.map_map, List.map_map]
    exact ⟨h.homes, h.alts⟩
  have hnames : namesInUse g (composeRecord g x) = true := by
    rw [namesInUse_iff, h.entries]
    refine ⟨fun e he => ?_, fun p _ hp => ?_⟩
    · obtain ⟨f, hf, rfl⟩ := List.mem_map.mp he
      exact (h.named _).mpr ⟨f, hf, rfl⟩
    · obtain ⟨f, hf, rfl⟩ := (h.named p).mp hp
      exact ⟨_, List.mem_map_of_mem hf, rfl⟩
  have hmap : poolNamesMap g (composeRecord g x).pool = true := poolNamesMap_iff.mpr ⟨h.size, fun p _ => h.map p⟩
  unfold Machine.recordAcceptable
  simp only [Bool.and_eq_true, decide_eq_true_eq, List.all_eq_true]
  exact ⟨⟨⟨⟨⟨⟨rfl, ⟨⟨⟨⟨rfl, rfl⟩, rfl⟩, rfl⟩, rfl⟩⟩, hmap⟩, ⟨⟨hlen, rfl⟩, rfl⟩⟩, hplace⟩, hnodup⟩, hnames⟩

/-- R46: no consistent geometry has more than 128 pool positions. -/
theorem Geometry.poolSize_le (hg : g.consistent = true) : g.poolSize ≤ 128 := by
  obtain ⟨⟨-, -, hh, -⟩, ⟨-, ha, hle⟩, -⟩ := Geometry.consistent_spec hg
  unfold Geometry.poolSize
  generalize g.a = a at *
  generalize g.h = h at *
  interval_cases a <;> omega

/-- R59: the record of a lawful map fits the three sectors. -/
theorem Drive.mapLaw.storable (h : x.mapLaw g) (hg : g.consistent = true) (ht : g.type < 16) : (composeRecord g x).storable = true := by
  obtain ⟨⟨hc, -, hh, hs⟩, ⟨-, ha, -⟩, -⟩ := Geometry.consistent_spec hg
  have hpool : x.pool.length = g.poolSize := h.size
  have hsize := Geometry.poolSize_le hg
  have hlen : (composeRecord g x).entries.length ≤ 128 := by
    rw [h.entries, List.length_map]
    have := h.length_spare hg
    omega
  have hdead : deadCount x.pool ≤ 128 := List.countP_le_length.trans (by omega)
  have hplace : ∀ e ∈ (composeRecord g x).entries, e.home.cyl < 1024 ∧ e.home.head < 16 ∧ e.alt.cyl < 1024 ∧ e.alt.head < 16 := by
    rw [h.entries]
    intro e he
    obtain ⟨f, hf, rfl⟩ := List.mem_map.mp he
    obtain ⟨huser, halt, -⟩ := h.place f hf
    obtain ⟨⟨-, h1⟩, h2⟩ := Geometry.isPool_iff.mp halt
    simp only [Geometry.isUser, Bool.and_eq_true, decide_eq_true_eq] at huser
    simp only [SpareEntry.toRecord]
    omega
  unfold MapRecord.storable
  simp only [Bool.and_eq_true, decide_eq_true_eq, List.all_eq_true]
  exact ⟨⟨⟨⟨⟨⟨⟨⟨⟨⟨ht, hc⟩, hh⟩, hs⟩, ha.trans (by omega)⟩, hpool⟩, hpool.trans_le hsize⟩, rfl⟩, hlen⟩, hdead⟩, fun e he => by
    obtain ⟨h1, h2, h3, h4⟩ := hplace e he
    exact ⟨⟨⟨h1, h2⟩, h3⟩, h4⟩⟩

/-! ## The lookups after a load (R53, R63) -/

theorem lookupTrack_cons (e : SpareEntry) (l : List SpareEntry) (t : Track) : lookupTrack (e :: l) t =
    if e.home = t then (if e.pending && e.replacement.isNone then (t, .home) else (e.alt, .alternate t.cyl t.head))
    else lookupTrack l t := by
  unfold lookupTrack
  by_cases h : e.home = t <;> simp [h]

/-- R63: an entry as a load puts it into a slot. -/
def RecordEntry.loaded (e : RecordEntry × Nat) : SpareEntry :=
  { slot := e.2, home := e.1.home, alt := e.1.alt, pending := false, origin := e.1.origin, replacement := none }

/-- R53, R63: the slots in which entries stand do not matter to the lookup of an ASSIGNED track. -/
theorem lookupTrack_loaded {l : List SpareEntry} (h : ∀ e ∈ l, e.pending = false) (n : Nat) (t : Track) :
    lookupTrack (((l.map SpareEntry.toRecord).zipIdx n).map RecordEntry.loaded) t = lookupTrack l t := by
  induction l generalizing n with
  | nil => rfl
  | cons e l ih =>
    obtain ⟨he, hl⟩ := List.forall_mem_cons.mp h
    rw [List.map_cons, List.zipIdx_cons, List.map_cons, lookupTrack_cons, lookupTrack_cons, ih hl, he]
    rfl

theorem Drive.mapLaw.lookup_loadRecord (h : x.mapLaw g) (y : Drive) (t : Track) :
    lookupTrack (y.loadRecord (composeRecord g x)).spare t = lookupTrack x.spare t := by
  change lookupTrack ((composeRecord g x).entries.zipIdx.map RecordEntry.loaded) t = _
  rw [h.entries]
  exact lookupTrack_loaded (fun e he => (h.settled e he).1) 0 t

/-! ## Three sectors that hold a record (R59, R63) -/

theorem length_recordSector (n : Nat) (r : MapRecord) (filler : List Byte) : (payloadBytes (.record n r filler)).length = 512 := by
  simp [payloadBytes]

/-- R59: a sector of a record gives the record's bytes, as far as they reach. -/
theorem recordSector_getElem? {i n : Nat} (hi : i < 512) {b : Byte} (hb : (recordCode.bytes r)[n * 512 + i]? = some b) (filler : List Byte) :
    (payloadBytes (.record n r filler))[i]? = some b := by
  simp [payloadBytes, hi, recordSectorByte, hb]

/-- R59: the three sectors of a record begin with its bytes, whatever filler stands behind them. -/
theorem recordSectors_prefix (hr : r.storable = true) (f0 f1 f2 : List Byte) : recordCode.bytes r <+:
    payloadBytes (.record 0 r f0) ++ (payloadBytes (.record 1 r f1) ++ payloadBytes (.record 2 r f2)) := by
  have hfit := recordCode.fits r hr
  refine List.prefix_iff_getElem?.mpr fun i hi => ?_
  have hb : ∀ n j, n * 512 + j = i → (recordCode.bytes r)[n * 512 + j]? = some ((recordCode.bytes r)[i]) := fun n j h => by
    rw [h]
    exact List.getElem?_eq_getElem hi
  by_cases h0 : i < 512
  · rw [List.getElem?_append_left (by rw [length_recordSector]; exact h0)]
    exact recordSector_getElem? h0 (hb 0 i (by omega)) f0
  rw [List.getElem?_append_right (by rw [length_recordSector]; omega), length_recordSector]
  by_cases h1 : i < 1024
  · rw [List.getElem?_append_left (by rw [length_recordSector]; omega)]
    exact recordSector_getElem? (by omega) (hb 1 (i - 512) (by omega)) f1
  · rw [List.getElem?_append_right (by rw [length_recordSector]; omega), length_recordSector]
    exact recordSector_getElem? (by omega) (hb 2 (i - 512 - 512) (by omega)) f2

/-- R63 check 1: bytes that begin with a record give that record. -/
theorem find_of_prefix (hr : r.storable = true) {b : List Byte} (h : recordCode.bytes r <+: b) : recordCode.find b = some r := by
  obtain ⟨filler, rfl⟩ := h
  exact recordCode.finds r filler hr

theorem recordOf_of_prefix (hr : r.storable = true) (hs : r.sumOk = true) {b : List Byte} (h : recordCode.bytes r <+: b) :
    recordOf b = some r := by
  unfold recordOf
  rw [find_of_prefix hr h, Option.filter_some, hr, hs, List.isPrefixOf_iff_prefix.mpr h]
  rfl

/-- Three sectors met by their fields hold the record whose parts they carry. -/
theorem wholeRecord_spec {got : List Payload} (h : wholeRecord got = some r) :
    r.storable = true ∧ ∃ f0 f1 f2, got = [.record 0 r f0, .record 1 r f1, .record 2 r f2] := by
  unfold wholeRecord at h
  split at h
  · next r0 f0 r1 f1 r2 f2 =>
    split at h
    · next hc =>
      obtain ⟨h01, h12, hst, -⟩ := hc
      cases h
      subst h12 h01
      exact ⟨hst, f0, f1, f2, rfl⟩
    · cases h
  · cases h

/-- R63 check 1: sectors whose bytes begin with a record give it back. Sectors met by the fields of a record begin with that record. -/
theorem assembleRecord_of_prefix (hr : r.storable = true) (hs : r.sumOk = true) {got : List Payload}
    (h : recordCode.bytes r <+: got.flatMap payloadBytes) : assembleRecord got = some r := by
  unfold assembleRecord
  cases hw : wholeRecord got with
  | none => exact recordOf_of_prefix hr hs h
  | some q =>
    obtain ⟨hq, f0, f1, f2, rfl⟩ := wholeRecord_spec hw
    have hprefix := recordSectors_prefix hq f0 f1 f2
    have hflat : [Payload.record 0 q f0, .record 1 q f1, .record 2 q f2].flatMap payloadBytes =
        payloadBytes (.record 0 q f0) ++ (payloadBytes (.record 1 q f1) ++ payloadBytes (.record 2 q f2)) := by simp
    rw [hflat] at h
    exact (find_of_prefix hq hprefix).symm.trans (find_of_prefix hr h)

/-- A sector that holds a part of a record, met by its fields or as bytes, has the bytes of that part. -/
theorem sector_bytes {sectors : List Payload} {n : Nat} (h : ∃ filler, sectors[n]? = some (.record n r filler) ∨
    sectors[n]? = some (.bytes (payloadBytes (.record n r filler)))) :
    ∃ filler p, sectors[n]? = some p ∧ payloadBytes p = payloadBytes (.record n r filler) := by
  obtain ⟨filler, h | h⟩ := h
  · exact ⟨filler, _, h, rfl⟩
  · exact ⟨filler, _, h, rfl⟩

/-- R59, R63: three sectors that hold a record, each met by its fields or as bytes, give it back. -/
theorem assembleRecord_of_sectors {sectors : List Payload} (hr : r.storable = true) (hs : r.sumOk = true) (hl : sectors.length = 3)
    (h : ∀ n, n < 3 → ∃ filler, sectors[n]? = some (.record n r filler) ∨
      sectors[n]? = some (.bytes (payloadBytes (.record n r filler)))) : assembleRecord sectors = some r := by
  obtain ⟨a, b, c, rfl⟩ := List.length_eq_three.mp hl
  obtain ⟨f0, p0, h0, e0⟩ := sector_bytes (h 0 (by decide))
  obtain ⟨f1, p1, h1, e1⟩ := sector_bytes (h 1 (by decide))
  obtain ⟨f2, p2, h2, e2⟩ := sector_bytes (h 2 (by decide))
  cases h0
  cases h1
  cases h2
  refine assembleRecord_of_prefix hr hs ?_
  simpa [e0, e1, e2] using recordSectors_prefix hr f0 f1 f2

/-- Settles O23: the checks one by one, and the bytes the three sectors begin with. -/
theorem mapRecordRoundTrip : Obligations.MapRecordRoundTrip := by
  unfold Obligations.MapRecordRoundTrip
  refine ⟨fun x y g hg h => ?_, fun r sectors => assembleRecord_of_sectors,
    fun r sectors hr hs => assembleRecord_of_prefix hr hs⟩
  exact ⟨h.recordAcceptable hg, rfl, rfl, h.lookup_loadRecord y, h.storable hg⟩

end Sys2Proof.Machine
end


section
/-! Sitting of the family 03 (track addressing and the spare map), part 5: a MAP LOAD from its first sector to its end (R62 to R64). -/

namespace Sys2Proof.Machine

-- One declaration after the other: in parallel the one compile of the whole text runs out of threads.
set_option Elab.async false

variable {s t u : State} {d e : DriveId} {op : Op} {g : Geometry}

/-! ## What the end of orders leaves of the drives -/

/-- A drive but for its work: its operation, its request and its queue. -/
def Drive.unworked (x : Drive) : Drive := { x with cur := none, request := false, queue := [] }

/-- Every drive is as it was but for its work. -/
def WorkOnly (s t : State) : Prop := ∀ e, (t.drive e).unworked = (s.drive e).unworked

theorem WorkOnly.refl (s : State) : WorkOnly s s := fun _ => rfl

theorem WorkOnly.rest (h : WorkOnly s t) (hd : u.drives = t.drives := by rfl) : WorkOnly s u := fun e => by
  rw [State.drive_eq_of_drives hd]; exact h e

theorem WorkOnly.modDrive (h : WorkOnly s t) (d : DriveId) (f : Drive → Drive)
    (hf : ∀ x, (f x).unworked = x.unworked := by intro _; rfl) : WorkOnly s (t.modDrive d f) := fun e => by
  rw [State.drive_modDrive]
  split
  · exact (hf _).trans (h e)
  · exact h e

theorem WorkOnly.foldl {α : Type} (h : WorkOnly s t) (f : State → α → State) (hf : ∀ v i, WorkOnly s v → WorkOnly s (f v i)) (l : List α) :
    WorkOnly s (l.foldl f t) := by
  induction l generalizing t with
  | nil => exact h
  | cons i l ih => exact ih (hf _ _ h)

theorem WorkOnly.clearOp (h : WorkOnly s t) (d : DriveId) : WorkOnly s (t.clearOp d) := fun e => by
  rw [State.drive_clearOp]
  split <;> exact h e

theorem WorkOnly.windDown (h : WorkOnly s t) (d : DriveId) : WorkOnly s (t.windDown d) := by
  have h1 : WorkOnly s (t.modDrive d fun x => { x with cur := x.cur.map fun op => { op with ended := true }, request := false }) :=
    h.modDrive d _
  unfold State.windDown
  dsimp only
  split
  · split
    · split
      · exact h1.rest.clearOp d
      · exact h1.rest
    · exact h1
  · exact h.clearOp d

theorem WorkOnly.stopOps (h : WorkOnly s t) (l : List Nat) (soft : Bool) : WorkOnly s (t.stopOps l soft) := by
  refine h.foldl _ (fun v e hv => ?_) _
  split
  · split
    · split
      · exact hv.modDrive e _
      · exact hv.windDown e
    · exact hv
  · exact hv

/-- R91, R97, R117: orders that end together leave of every drive all but its work. -/
theorem WorkOnly.endTogether (s : State) (l : List Nat) (r : Result) (soft : Bool) : WorkOnly s (s.endTogether l r soft) := by
  have h1 : WorkOnly s (l.foldl (fun s n => s.endOrder n r) s) :=
    WorkOnly.foldl (.refl s) _ (fun _ _ hv => hv.rest (State.drives_endOrder _ _ _)) l
  unfold State.endTogether
  dsimp only
  generalize l.foldl (fun s n => s.endOrder n r) s = v at h1 ⊢
  have h2 : WorkOnly s ((v.leaveWaitList l).leaveQueues l) := fun e => by
    have hd : ((v.leaveWaitList l).leaveQueues l).drive e = { v.drive e with queue := (v.drive e).queue.filter fun o => o ∉ l } :=
      Oct.get_map _ _ _
    rw [hd]
    exact h1 e
  exact ((h2.rest (u := (((v.leaveWaitList l).leaveQueues l).ringDiscard l).dropRequests l)).stopOps l soft).rest
    (State.drives_freeSlots _ l)

/-! ## The orders that an entry to a state ends -/

/-- An order that stands where it stood is among the orders picked by where they stand. -/
theorem MarksKept.mem_ordersOf (k : MarksKept s t) {p : Port} {n : Tag} {o : Order} {q : Order → Bool}
    (ho : (s.port p).slots.get n = some o) (hd : o.drive = some d) (hl : o.live = true) (hq : ∀ r : Order, r.mark = o.mark → q r = true) :
    o.oid ∈ t.ordersOf d q := by
  have hk := k p n
  rw [ho] at hk
  obtain ⟨r, hr, e⟩ := Option.map_eq_some_iff.mp hk
  have hm := e
  simp only [Order.mark, Prod.mk.injEq] at e
  obtain ⟨e1, -, e3, e4, e5⟩ := e
  exact State.mem_ordersOf.mpr ⟨p, n, r, hr, e3.trans hd, by simpa [Order.live, e4, e5] using hl, hq r hm, e1⟩

/-- R11: the drive after its entry to READY. -/
theorem State.drive_enterReady (s : State) (d : DriveId) :
    (s.enterReady d).drive d = { (s.drive d).toState .ready s.clock with mapHeld := true } := by
  unfold State.enterReady
  dsimp only
  rw [State.drive_endStateOrders, State.drive_setNotice, State.drive_modDrive_self, State.drive_setDriveState_self]

/-- R11: nothing of an order changes before the orders that waited for READY end. -/
theorem MarksKept.readied (s : State) (d : DriveId) :
    MarksKept s (((s.setDriveState d .ready).modDrive d fun x => { x with mapHeld := true }).setNotice d noticeReady) :=
  .trans (b := (s.setDriveState d .ready).modDrive d fun x => { x with mapHeld := true }) (.of_ports rfl) (.mapPorts _ _ fun _ => rfl)

/-- R11, R17, R19: an UNFENCE or DRIVE RESET that waited for READY ends COMPLETE. -/
theorem State.enterReady_ended (w : Work s t) (k : MarksKept s t) {p : Port} {n : Tag} {o : Order} (h : s.numberLaw)
    (ho : (s.port p).slots.get n = some o) (hd : o.drive = some d) (hl : o.live = true)
    (hk : o.kind = .unfence ∨ o.kind = .driveReset) : Ended (t.enterReady d) p n o.oid .complete := by
  have hm := k.trans (.readied t d)
  have hw : Work s (((t.setDriveState d .ready).modDrive d fun x => { x with mapHeld := true }).setNotice d noticeReady) :=
    ((w.setDriveState d .ready).modDrive d _).setNotice d noticeReady
  refine Standing.foldl_endOrder .complete _ (hw.number h) (Standing.marks ⟨o, ho, rfl, hl⟩ hm) (hm.mem_ordersOf ho hd hl fun r e => ?_)
  have hkind : r.kind = o.kind := (congrArg (fun x => x.2.1) e :)
  simpa [hkind] using hk

/-! ## A map record refused (R14, R64) -/

/-- R14, R64: what stands after the map record of a drive has been refused. -/
structure MapRefused (s : State) (d : DriveId) (t : State) : Prop where
  state : (t.drive d).state = .mapLost
  spare : (t.drive d).spare = []
  pool : (t.drive d).pool = (s.drive d).freshPool
  mapState : (t.drive d).mapState = .clean
  mapHeld : (t.drive d).mapHeld = false
  cur : (t.drive d).cur = none
  media : t.media = s.media
  orders : s.numberLaw → ∀ p n o, (s.port p).slots.get n = some o → o.drive = some d → o.live = true →
    ((o.kind.driveQueued = true ∧ o.state = .queued) ∨ o.kind = .unfence ∨ o.kind = .driveReset) → Ended t p n o.oid .mapUnavailable

/-- The state of an entry to MAP LOST in which its orders end. -/
def State.mapLosing (s : State) (d : DriveId) : State :=
  (((s.setDriveState d .mapLost).modDrive d fun x => x.emptyMap).modDrive d fun x => { x with mapHeld := false }).setNotice d noticeMapLost

theorem State.drive_mapLosing (s : State) (d : DriveId) :
    (s.mapLosing d).drive d = { ((s.drive d).toState .mapLost s.clock).emptyMap with mapHeld := false } := by
  unfold State.mapLosing
  rw [State.drive_setNotice, State.drive_modDrive_self, State.drive_modDrive_self, State.drive_setDriveState_self]

theorem Work.mapLosing (h : Work s t) (d : DriveId) : Work s (t.mapLosing d) :=
  (((h.setDriveState d .mapLost).modDrive d _).modDrive d _).setNotice d noticeMapLost

theorem MarksKept.mapLosing (s : State) (d : DriveId) : MarksKept s (s.mapLosing d) :=
  .trans (b := ((s.setDriveState d .mapLost).modDrive d fun x => x.emptyMap).modDrive d fun x => { x with mapHeld := false })
    (.of_ports rfl) (.mapPorts _ _ fun _ => rfl)

/-- R64: the refusal of a record, from any state with the geometry, the media and the orders of `s`. -/
theorem State.mapRefused_refuseMap (w : Work s u) (hg : (u.drive d).geom = (s.drive d).geom) (hp : u.ports = s.ports) :
    MapRefused s d (u.refuseMap d) := by
  have hpool : ((u.clearOp d).drive d).freshPool = (s.drive d).freshPool := by
    simp only [Drive.freshPool, State.geom_clearOp, hg]
  have hcur := u.cur_clearOp d
  have hmarks : MarksKept s ((u.clearOp d).mapLosing d) := .trans (.of_ports hp) (.trans (.clearOp u d) (.mapLosing _ d))
  have hwork : Work s ((u.clearOp d).mapLosing d) := (w.clearOp d).mapLosing d
  have hdrive := (u.clearOp d).drive_mapLosing d
  have heq : u.refuseMap d = ((u.clearOp d).mapLosing d).endTogether (((u.clearOp d).mapLosing d).ordersOf d fun o =>
      o.kind.driveQueued && o.state = .queued || o.kind = .unfence || o.kind = .driveReset) .mapUnavailable false := rfl
  have hmedia : (u.refuseMap d).media = s.media := (w.refuseMap d).laid
  have hkeep := (WorkOnly.endTogether ((u.clearOp d).mapLosing d) (((u.clearOp d).mapLosing d).ordersOf d fun o =>
      o.kind.driveQueued && o.state = .queued || o.kind = .unfence || o.kind = .driveReset) .mapUnavailable false) d
  rw [← heq, hdrive] at hkeep
  refine ⟨(congrArg Drive.state hkeep :), (congrArg Drive.spare hkeep :), (congrArg Drive.pool hkeep :).trans hpool,
    (congrArg Drive.mapState hkeep :), (congrArg Drive.mapHeld hkeep :), ?_, hmedia, fun h p n o ho hd hl hq => ?_⟩
  · rw [heq]
    exact State.cur_endTogether_none _ _ _ (by rw [hdrive]; exact hcur)
  · rw [heq]
    refine (Standing.marks ⟨o, ho, rfl, hl⟩ hmarks).endTogether (hwork.number h) (hmarks.mem_ordersOf ho hd hl fun r e => ?_) _ _
    have hkind : r.kind = o.kind := (congrArg (fun x => x.2.1) e :)
    have hstate : r.state = o.state := (congrArg (fun x => x.2.2.2.1) e :)
    simpa [hkind, hstate, or_assoc] using hq

/-! ## A map record accepted (R63) -/

/-- R63: the slot and the fields of each entry a load takes. -/
theorem Drive.loadRecord_spare (x : Drive) (r : MapRecord) : (x.loadRecord r).spare.length = r.entries.length ∧
    ∀ n e, r.entries[n]? = some e → (x.loadRecord r).spare[n]? = some
      ({ slot := n, home := e.home, alt := e.alt, pending := false, origin := e.origin, replacement := none } : SpareEntry) := by
  refine ⟨by simp [Drive.loadRecord], fun n e he => ?_⟩
  simp [Drive.loadRecord, he]

/-- R62, R63: the check of a record that is not refused. -/
theorem State.checkMap_accepted {r : MapRecord} (hg : (s.drive d).geom = some g) (hr : assembleRecord op.got = some r)
    (ha : recordAcceptable g r = true) : s.checkMap d op = ((s.clearOp d).modDrive d fun x => x.loadRecord r).enterReady d := by
  unfold State.checkMap
  rw [hg, hr]
  exact if_pos ha

/-- R11, R63: the drive once its record has been accepted. -/
theorem State.drive_loaded (s : State) (d : DriveId) (r : MapRecord) :
    (((s.clearOp d).modDrive d fun x => x.loadRecord r).enterReady d).drive d =
      { ((({ s.drive d with cur := none, request := false } : Drive).loadRecord r).toState .ready (s.clearOp d).clock) with
        mapHeld := true } := by
  rw [State.drive_enterReady, State.drive_modDrive_self, State.drive_clearOp, if_pos rfl]
  rfl

theorem State.checkMap_refused (hg : (s.drive d).geom = some g)
    (hr : ∀ r, assembleRecord op.got = some r → recordAcceptable g r = false) : s.checkMap d op = s.refuseMap d := by
  unfold State.checkMap
  rw [hg]
  cases ha : assembleRecord op.got with
  | none => rfl
  | some r => exact if_neg (by simp [hr r ha])

/-! ## The outcomes of a read of MAP LOAD -/

section

variable (hk : op.kind = .mapLoad)
include hk

/-- R62: a good sector of the first read is kept, and the operation goes on. -/
theorem State.mapLoad_good (hp : op.pass = .read) (hl : op.ladder = none) (p : Payload) : s.readOutcome d op (.good p) =
    (s.setOp d { op with got := op.got ++ [p] }).mapLoadAdvance d { op with got := op.got ++ [p] } := by
  unfold State.readOutcome
  rw [if_neg (by rw [hp]; decide)]
  simp only [State.ladderRead, State.sectorGood, State.keepGood, State.advance, hk, hl, if_true]

/-- R62, R112, R113: a sector that stays failing has the record refused, where the arm stands on the centre. -/
theorem State.mapLoad_failed (hc : (s.drive d).chan.pos = centre op.phys.cyl) (r : Result) :
    s.sectorFailed d op r = (s.setOp d op).refuseMap d := by
  have hcount : (if r = .dataCheck then s.countUnrecovered d op else s) = s := by
    split
    · exact if_neg (by simp [Op.reports, hk])
    · rfl
  have hcentre : s.toCentre d op (.finish r) = (s.setOp d op).refuseMap d := by
    unfold State.toCentre
    dsimp only
    rw [if_pos hc]
    simp only [State.reachGoal, State.drive_setOp, State.finish, hk]
  unfold State.sectorFailed
  dsimp only
  rw [hcount, hk]
  exact hcentre

theorem State.mapLoad_ladderNext (hg : (s.drive d).geom = some g) {l : Ladder} (hl : op.ladder = some l) (h : 2 * l.k < l.step)
    (hc : (s.drive d).chan.pos = centre op.phys.cyl) : s.ladderNext d op = (s.setOp d op).refuseMap d := by
  unfold State.ladderNext
  simp only [hl, hg]
  rw [if_pos (by omega)]
  exact State.mapLoad_failed hk hc _

/-- R62, R112 to R114: an outcome that ends the load, where the arm stands on the centre. -/
theorem State.mapLoad_ends (hg : (s.drive d).geom = some g) (hp : op.pass = .read) (hc : (s.drive d).chan.pos = centre op.phys.cyl)
    {out : ReadOutcome} (ho : out = .incomplete ∨ out = .lost ∨
      ((out = .dataCheck ∨ out = .mismatch false) ∧ ∃ l, op.ladder = some l ∧ 2 * l.k < l.step)) :
    s.readOutcome d op out = (s.setOp d op).refuseMap d := by
  unfold State.readOutcome
  rw [if_neg (by rw [hp]; decide)]
  obtain rfl | rfl | ⟨rfl | rfl, l, hl, hlt⟩ := ho
  · exact State.mapLoad_failed hk hc _
  · exact State.mapLoad_failed hk hc _
  · exact State.mapLoad_ladderNext hk hg hl hlt hc
  · exact State.mapLoad_ladderNext hk hg hl hlt hc

/-- R114: the second seek check of a sector. -/
theorem State.mapLoad_seekCheck (hp : op.pass = .read) (hch : op.checked = true) :
    s.readOutcome d op (.mismatch true) = (s.tallyDrive d DriveTallies.raiseSeekChecks).refuseMap d := by
  unfold State.readOutcome
  rw [if_neg (by rw [hp]; decide)]
  simp only [State.ladderRead, State.seekCheck, hk, hch, if_true, reduceCtorEq, if_false]

end

/-- Settles O24: a good sector by `mapLoadAdvance`, the third by the check of the record, and every other end by `refuseMap`. -/
theorem mapLoadRuns : Obligations.MapLoadRuns := by
  unfold Obligations.MapLoadRuns
  intro s d op g hg hcur hk hp
  dsimp only
  have refused : ∀ u, Work s u → (u.drive d).geom = (s.drive d).geom → u.ports = s.ports → _ := fun u w h1 h2 =>
    State.mapRefused_refuseMap w h1 h2
  refine ⟨fun p hl hlt => ?_, fun p hl hge => ?_, fun out hc ho => ?_, fun hch => ?_⟩
  · rw [State.mapLoad_good hk hp hl, State.mapLoadAdvance, if_pos (Nat.succ_lt_succ hlt), State.drive_setOp]
    simp [Op.wants, hl, hp]
  · rw [State.mapLoad_good hk hp hl, State.mapLoadAdvance, if_neg (by simp; omega)]
    have hw : Work s (s.setOp d { op with got := op.got ++ [p] }) := (Work.refl s).setOp d _
    have hg1 : ((s.setOp d { op with got := op.got ++ [p] }).drive d).geom = some g := by rw [State.drive_setOp]; exact hg
    refine ⟨fun r hr ha => ?_, fun hr => ?_⟩
    · rw [State.checkMap_accepted hg1 hr ha]
      obtain ⟨hlen, hget⟩ := Drive.loadRecord_spare (s.drive d) r
      have hw1 : Work s (((s.setOp d { op with got := op.got ++ [p] }).clearOp d).modDrive d fun x => x.loadRecord r) :=
        (hw.clearOp d).modDrive d _
      have hm : MarksKept s (((s.setOp d { op with got := op.got ++ [p] }).clearOp d).modDrive d fun x => x.loadRecord r) :=
        .trans (b := s.setOp d { op with got := op.got ++ [p] }) (.of_ports rfl) (.trans (.clearOp _ d) (.of_ports rfl))
      rw [State.drive_loaded, State.drive_setOp]
      exact ⟨rfl, rfl, rfl, rfl, hlen, hget, rfl, (hw1.enterReady d).laid, fun h q n o ho hd hl hkind =>
        State.enterReady_ended hw1 hm h ho hd hl hkind⟩
    · rw [State.checkMap_refused hg1 hr]
      obtain ⟨h1, h2, h3, h4, h5, h6, h7, h8⟩ := refused _ hw (hg1.trans hg.symm) rfl
      exact ⟨h1, h2, h3, h4, h5, h6, h7, h8⟩
  · rw [State.mapLoad_ends hk hg hp hc ho]
    obtain ⟨h1, h2, h3, h4, h5, h6, h7, h8⟩ := refused _ ((Work.refl s).setOp d op) (by rw [State.drive_setOp]) rfl
    exact ⟨h1, h2, h3, h4, h5, h6, h7, h8⟩
  · rw [State.mapLoad_seekCheck hk hp hch]
    obtain ⟨h1, h2, h3, h4, h5, h6, h7, h8⟩ := refused _ ((Work.refl s).tallyDrive d up_seekChecks) (by rw [State.drive_tallyDrive]) rfl
    exact ⟨h1, h2, h3, h4, h5, h6, h7, h8⟩

end Sys2Proof.Machine
end


section
/-! Sitting of the family 03 (track addressing and the spare map), part 6: a MAP WRITE from its start to its end (R60, R65, R66). -/

namespace Sys2Proof.Machine

-- One declaration after the other: in parallel the one compile of the whole text runs out of threads.
set_option Elab.async false

variable {s t u : State} {d e : DriveId} {op : Op} {g : Geometry} {p : Port} {k : Tag} {o : Order} {q : Order → Bool} {r : MapRecord}

/-! ## What a request of the channel leaves (R29, R105) -/

/-- The drive after a request of its channel: the channel, the count of seeks, the head and the stage of the operation may differ. -/
def Drive.Requested (x : Drive) (op : Op) (y : Drive) : Prop :=
  ∃ ch tl hs st, y = { x with chan := ch, tally := tl, headSel := hs, cur := some { op with stage := st } }

theorem State.recalFor_requested (hc : (s.drive d).cur = some op) (n : Option Nat) :
    (s.drive d).Requested op ((s.recalFor d n).drive d) ∧ (s.recalFor d n).ports = s.ports := by
  unfold State.recalFor
  split
  · exact ⟨⟨_, _, _, .waiting (.recal n), by rw [State.drive_modOp, hc]; rfl⟩, rfl⟩
  · split
    · exact ⟨⟨_, _, _, op.stage, by rw [← hc]⟩, rfl⟩
    · exact ⟨⟨_, _, _, .moving (.recal n), by rw [State.drive_modOp, State.drive_modChan, hc]; rfl⟩, rfl⟩

theorem State.seekTo_requested (hc : (s.drive d).cur = some op) (hk : op.kind ≠ .seek) (n : Nat) :
    (s.drive d).Requested op ((s.seekTo d n).drive d) ∧ (s.seekTo d n).ports = s.ports := by
  unfold State.seekTo
  dsimp only
  split
  · exact ⟨⟨_, _, _, .waiting (.seek n .transfer), by rw [State.drive_modOp, hc]; rfl⟩, rfl⟩
  · split
    · split
      · rw [State.reachTransfer_eq (op := op) (by rw [State.drive_modChan, hc]) hk]
        exact ⟨⟨_, _, _, .transfer, by rw [State.drive_modDrive_self, State.drive_modChan]⟩, rfl⟩
      · refine ⟨⟨(s.drive d).chan.startSeek ((s.drive d).targetIn n), (s.drive d).tally.raiseSeeks, (s.drive d).headSel,
          .moving (.seek n .transfer), ?_⟩, rfl⟩
        unfold State.beginSeek
        rw [State.drive_modOp, State.drive_tallyDrive, State.drive_modDrive_self, hc]
        rfl
    · exact State.recalFor_requested hc _

/-! ## The orders a MAP WRITE binds (R65) -/

/-- An order in a slot is among the orders picked on a drive when it satisfies what picks them. -/
theorem State.oid_mem_ordersOf (h : s.numberLaw) (ho : (s.port p).slots.get k = some o) :
    o.oid ∈ s.ordersOf d q ↔ o.drive = some d ∧ o.live = true ∧ q o = true := by
  rw [State.mem_ordersOf]
  constructor
  · rintro ⟨p', k', o', ho', hd, hl, hq, he⟩
    obtain ⟨rfl, rfl⟩ := h.distinct p' k' o' p k o ho' ho he
    obtain rfl : o' = o := Option.some.inj (ho'.symm.trans ho)
    exact ⟨hd, hl, hq⟩
  · exact fun ⟨hd, hl, hq⟩ => ⟨p, k, o, ho, hd, hl, hq, rfl⟩

/-- An order bound to a MAP WRITE where it is one of a list. -/
def Order.boundIn (l : List Nat) (o : Order) : Order := if o.oid ∈ l then { o with bound := true } else o

theorem State.slot_foldl_bind (l : List Nat) (s : State) (p : Port) (k : Tag) :
    (((l.foldl (fun s n => s.modOrder n fun o => { o with bound := true }) s).port p).slots.get k) =
      ((s.port p).slots.get k).map (Order.boundIn l) := by
  induction l generalizing s with
  | nil =>
    have h : Order.boundIn [] = id := funext fun o => if_neg List.not_mem_nil
    rw [h, Option.map_id]
    rfl
  | cons n l ih =>
    rw [List.foldl_cons, ih, State.port_modOrder, PortCtl.slot_modOrder, Option.map_map]
    congr 1
    funext o
    by_cases hn : o.oid = n <;> by_cases hl : o.oid ∈ l <;> simp [Order.boundIn, hn, hl]

/-- R65: a MAP WRITE that starts binds the live COMMIT MAP orders of its drive, and changes no other. -/
theorem State.bindCommits_bound (h : s.numberLaw) (ho : (s.port p).slots.get k = some o) :
    ∃ o', ((s.bindCommits d).port p).slots.get k = some o' ∧ o'.oid = o.oid ∧
      (o'.bound = true ↔ o.bound = true ∨ (o.kind = .commitMap ∧ o.drive = some d ∧ o.live = true)) := by
  have hm := State.oid_mem_ordersOf (d := d) (q := fun o => o.kind = .commitMap) h ho
  refine ⟨_, by unfold State.bindCommits; rw [State.slot_foldl_bind, ho]; rfl, ?_⟩
  unfold Order.boundIn
  split
  · next hin =>
    obtain ⟨hd, hl, hk⟩ := hm.mp hin
    exact ⟨rfl, fun _ => .inr ⟨by simpa using hk, hd, hl⟩, fun _ => rfl⟩
  · next hin =>
    refine ⟨rfl, ⟨.inl, ?_⟩⟩
    rintro (hb | ⟨hk, hd, hl⟩)
    · exact hb
    · exact absurd (hm.mpr ⟨hd, hl, by simpa using hk⟩) hin

/-- R60: the operation with which a MAP WRITE starts. -/
def Geometry.mapWriteOp (g : Geometry) (x : Drive) : Op :=
  { Op.internal .mapWrite g.mapTrack g.mapTrack .map .write with record := some (composeRecord g x) }

/-- R60, R65: the start of a MAP WRITE. -/
theorem State.startMapWrite_requested (hg : (s.drive d).geom = some g) :
    ({ s.drive d with mapState := .writing, cur := some (g.mapWriteOp (s.drive d)) } : Drive).Requested (g.mapWriteOp (s.drive d))
      ((s.startMapWrite d).drive d) ∧ (s.startMapWrite d).ports = (s.bindCommits d).ports := by
  have hd : (((s.bindCommits d).modDrive d fun x => { x with mapState := .writing, cur := some (g.mapWriteOp (s.drive d)) }).drive d) =
      { s.drive d with mapState := .writing, cur := some (g.mapWriteOp (s.drive d)) } := by
    rw [State.drive_modDrive_self, State.drive_bindCommits]
  have := State.seekTo_requested (op := g.mapWriteOp (s.drive d)) (congrArg Drive.cur hd) (by exact fun h => by cases h) (centre g.mapTrack.cyl)
  rw [hd] at this
  unfold State.startMapWrite
  rw [hg]
  exact this

/-! ## Orders left alone -/

/-- The end of orders leaves an order that is none of them. -/
theorem State.slot_foldl_endOrder (ho : (s.port p).slots.get k = some o) {l : List Nat} (hn : o.oid ∉ l) (r : Result) :
    ((l.foldl (fun s n => s.endOrder n r) s).port p).slots.get k = some o := by
  induction l generalizing s with
  | nil => exact ho
  | cons m l ih =>
    obtain ⟨hm, hl⟩ := not_or.mp fun h => hn (List.mem_cons.mpr h)
    refine ih (s := s.endOrder m r) ?_ hl
    by_cases h : s.orderLive m = true
    · rw [State.port_endOrder_slot s m r p k h, ho, Option.map_some, if_neg hm]
    · unfold State.endOrder
      rwa [if_neg h]

theorem State.slot_endOrders (h : s.numberLaw) (ho : (s.port p).slots.get k = some o) (hq : q o = false) (r : Result) :
    ((s.endOrders d q r).port p).slots.get k = some o := by
  refine State.slot_foldl_endOrder ho (fun hm => ?_) r
  obtain ⟨-, -, h1⟩ := (State.oid_mem_ordersOf h ho).mp hm
  rw [hq] at h1
  cases h1

theorem State.slots_setNotice (s : State) (d : DriveId) (n : Byte) (p : Port) : ((s.setNotice d n).port p).slots = (s.port p).slots := by
  rw [State.port_setNotice]
  rfl

/-- R11: an entry to READY leaves every order but UNFENCE and DRIVE RESET. -/
theorem State.slot_enterReady (h : s.numberLaw) (ho : (s.port p).slots.get k = some o) (hk : o.kind ≠ .unfence ∧ o.kind ≠ .driveReset) :
    ((s.enterReady d).port p).slots.get k = some o := by
  have hw : Work s (((s.setDriveState d .ready).modDrive d fun x => { x with mapHeld := true }).setNotice d noticeReady) :=
    (((Work.refl s).setDriveState d .ready).modDrive d _).setNotice d noticeReady
  refine State.slot_endOrders (hw.number h) ?_ (by simpa using hk) _
  rw [State.slots_setNotice]
  exact ho

/-! ## The end of a MAP WRITE (R60 step 6, R66) -/

/-- What stands after a MAP WRITE of a drive has ended. -/
structure MapWriteEnded (s : State) (d : DriveId) (t : State) (ok : Bool) : Prop where
  cur : (t.drive d).cur = none
  mapState : (t.drive d).mapState = (s.drive d).mapState.afterWrite ok
  state : (t.drive d).state =
    if (s.drive d).state = .writingMap ∨ ((s.drive d).state = .mapLost ∧ ok = true) then .ready else (s.drive d).state
  spare : (t.drive d).spare = (s.drive d).spare
  pool : (t.drive d).pool = (s.drive d).pool
  media : t.media = s.media
  orders : s.numberLaw → ∀ p k o, (s.port p).slots.get k = some o → o.kind = .commitMap → o.drive = some d → o.live = true →
    (o.bound = true → Ended t p k o.oid (if ok = true then .complete else .dataCheck)) ∧
    (o.bound = false → (t.port p).slots.get k = some o)

/-- R60 step 6: the state in which the orders bound to a MAP WRITE end. -/
def State.mapWritten (s : State) (d : DriveId) (ok : Bool) : State :=
  let s1 := (s.clearOp d).modDrive d fun x => { x with mapState := x.mapState.afterWrite ok }
  if ok then s1 else s1.setNotice d noticeMapLost

theorem State.endMapWrite_eq (s : State) (d : DriveId) (ok : Bool) : s.endMapWrite d ok =
    let s3 := (s.mapWritten d ok).endOrders d (fun o => o.kind = .commitMap && o.bound) (if ok then .complete else .dataCheck)
    if (s3.drive d).state = .writingMap ∨ ((s3.drive d).state = .mapLost ∧ ok) then s3.enterReady d else s3 := rfl

theorem Work.mapWritten (h : Work s t) (d : DriveId) (ok : Bool) : Work s (t.mapWritten d ok) := by
  unfold State.mapWritten
  dsimp only
  split
  · exact (h.clearOp d).modDrive d _
  · exact ((h.clearOp d).modDrive d _).setNotice d noticeMapLost

theorem State.drive_mapWritten (s : State) (d : DriveId) (ok : Bool) : (s.mapWritten d ok).drive d =
    { s.drive d with cur := none, request := false, mapState := (s.drive d).mapState.afterWrite ok } := by
  have h1 : ((s.clearOp d).modDrive d fun x => { x with mapState := x.mapState.afterWrite ok }).drive d =
      { s.drive d with cur := none, request := false, mapState := (s.drive d).mapState.afterWrite ok } := by
    rw [State.drive_modDrive_self, State.drive_clearOp, if_pos rfl]
  unfold State.mapWritten
  dsimp only
  split
  · exact h1
  · rwa [State.drive_setNotice]

/-- R76: the end of an operation that is no SURFACE VERIFY changes no port. -/
theorem State.ports_clearOp (hc : (s.drive d).cur = some op) (hk : op.kind ≠ .surface) : (s.clearOp d).ports = s.ports := by
  unfold State.clearOp
  simp only [hc, if_neg hk]
  rfl

theorem State.slots_mapWritten (hc : (s.drive d).cur = some op) (hk : op.kind ≠ .surface) (ok : Bool) (p : Port) :
    ((s.mapWritten d ok).port p).slots = (s.port p).slots := by
  have h1 : ((s.clearOp d).modDrive d fun x => { x with mapState := x.mapState.afterWrite ok }).port p = s.port p :=
    congrArg (fun c => c.get p) (State.ports_clearOp hc hk)
  unfold State.mapWritten
  dsimp only
  split
  · rw [h1]
  · rw [State.slots_setNotice, h1]

theorem ResultsKept.enterReady (s : State) (d : DriveId) : ResultsKept s (s.enterReady d) :=
  ((ResultsKept.of_ports (t := (s.setDriveState d .ready).modDrive d fun x => { x with mapHeld := true }) rfl).trans
    (.setNotice _ d noticeReady)).trans (.endOrders _ d _ _)

/-- R60 step 6, R66: the end of a MAP WRITE, from a state that differs by the tallies of its drive. -/
theorem State.endMapWrite_ended (w : Work s u) (hp : u.ports = s.ports) {tl : DriveTallies}
    (hd : u.drive d = { s.drive d with tally := tl }) (hc : (s.drive d).cur = some op) (hk : op.kind = .mapWrite) (ok : Bool) :
    MapWriteEnded s d (u.endMapWrite d ok) ok ∧ ((u.endMapWrite d ok).drive d).tally = tl := by
  have hmedia : (u.endMapWrite d ok).media = s.media := (w.endMapWrite d ok).laid
  have hdw := u.drive_mapWritten d ok
  have hslots : ∀ p, ((u.mapWritten d ok).port p).slots = (s.port p).slots := fun p => by
    rw [State.slots_mapWritten (op := op) (by rw [hd, ← hc]) (by rw [hk]; decide), State.port, State.port, hp]
  have hw := w.mapWritten d ok
  rw [State.endMapWrite_eq] at hmedia ⊢
  dsimp only at hmedia ⊢
  generalize u.mapWritten d ok = v at *
  generalize hr : (if ok = true then Result.complete else Result.dataCheck) = r at *
  have hd3 : (v.endOrders d (fun o => o.kind = .commitMap && o.bound) r).drive d = v.drive d := State.drive_endOrders _ _ _ _ _
  have hw3 : Work s (v.endOrders d (fun o => o.kind = .commitMap && o.bound) r) := hw.endOrders d _ r
  have orders : s.numberLaw → ∀ p k o, (s.port p).slots.get k = some o → o.kind = .commitMap → o.drive = some d → o.live = true →
      (o.bound = true → Ended (v.endOrders d (fun o => o.kind = .commitMap && o.bound) r) p k o.oid r) ∧
      (o.bound = false → ((v.endOrders d (fun o => o.kind = .commitMap && o.bound) r).port p).slots.get k = some o) := by
    intro h p k o ho hkind hdr hl
    rw [← hslots] at ho
    refine ⟨fun hb => ?_, fun hb => State.slot_endOrders (hw.number h) ho (by simp [hb]) r⟩
    exact Standing.foldl_endOrder r _ (hw.number h) ⟨o, ho, rfl, hl⟩
      ((State.oid_mem_ordersOf (hw.number h) ho).mpr ⟨hdr, hl, by simp [hkind, hb]⟩)
  generalize v.endOrders d (fun o => o.kind = .commitMap && o.bound) r = z at *
  rw [hdw, hd] at hd3
  by_cases hst : (z.drive d).state = .writingMap ∨ ((z.drive d).state = .mapLost ∧ ok = true)
  · rw [if_pos hst] at hmedia ⊢
    have hz := z.drive_enterReady d
    rw [hd3] at hz hst
    refine ⟨⟨by rw [hz]; rfl, by rw [hz]; rfl, by rw [hz]; exact (if_pos hst).symm, by rw [hz]; rfl, by rw [hz]; rfl, hmedia,
      fun h p k o ho hkind hdr hl => ?_⟩, by rw [hz]; rfl⟩
    obtain ⟨h1, h2⟩ := orders h p k o ho hkind hdr hl
    exact ⟨fun hb => hr ▸ (h1 hb).kept ((Work.refl z).enterReady d) (.enterReady z d),
      fun hb => State.slot_enterReady (hw3.number h) (h2 hb) (by rw [hkind]; decide)⟩
  · rw [if_neg hst] at hmedia ⊢
    rw [hd3] at hst
    exact ⟨⟨by rw [hd3], by rw [hd3], by rw [hd3]; exact (if_neg hst).symm, by rw [hd3], by rw [hd3], hmedia, hr ▸ orders⟩,
      by rw [hd3]⟩

/-! ## The read-back (R60 steps 3 to 5) -/

/-- R60 step 4: the read-back of a sector of the record passes: GOOD, with the data written. -/
def Op.passes (op : Op) (r : MapRecord) (out : ReadOutcome) : Prop := ∃ p, out = .good p ∧ sameData (.record op.sector r []) p = true

/-- R72: the outcome that names another cylinder. -/
def ReadOutcome.elsewhere : ReadOutcome → Bool
  | .mismatch c => c
  | .good _ | .incomplete | .lost | .dataCheck => false

theorem ReadOutcome.elsewhere_iff (out : ReadOutcome) : out.elsewhere = true ↔ out = .mismatch true := by
  cases out <;> simp [ReadOutcome.elsewhere]

section

variable (hr : op.record = some r)
include hr

theorem State.mapReadBack_passed {out : ReadOutcome} (h : op.passes r out) : s.mapReadBack d op out =
    if op.sector + 1 < 3 then s.setOp d (op.wants (op.sector + 1) .readBack) else s.endMapWrite d true := by
  obtain ⟨p, rfl, hp⟩ := h
  simp [State.mapReadBack, hr, hp]

theorem State.mapReadBack_failed {out : ReadOutcome} (h : ¬op.passes r out) :
    s.mapReadBack d op out = s.mapReadBackFailed d op out.elsewhere := by
  cases out with
  | good p =>
    have hp : sameData (.record op.sector r []) p = false := by
      rw [← Bool.not_eq_true]
      exact fun hp => h ⟨p, rfl, hp⟩
    simp [State.mapReadBack, hr, hp, ReadOutcome.elsewhere]
  | mismatch c => rfl
  | incomplete => rfl
  | lost => rfl
  | dataCheck => rfl

end

theorem State.mapReadBackFailed_last (h : 2 ≤ op.attempt) (w : Bool) : s.mapReadBackFailed d op w =
    (if w then s.tallyDrive d DriveTallies.raiseSeekChecks else s).endMapWrite d false := by
  unfold State.mapReadBackFailed
  exact if_neg (Nat.not_lt.mpr h)

/-- R60 step 5: the whole record is written once more. -/
theorem State.mapReadBackFailed_again (h : op.attempt < 2) :
    s.mapReadBackFailed d op false = s.setOp d { op.wants 0 .write with attempt := op.attempt + 1 } := by
  unfold State.mapReadBackFailed
  exact if_pos h

theorem State.mapReadBackFailed_elsewhere (h : op.attempt < 2) : s.mapReadBackFailed d op true =
    ((s.tallyDrive d DriveTallies.raiseSeekChecks).setOp d { op.wants 0 .write with attempt := op.attempt + 1 }).recalFor d
      (some (centre op.phys.cyl)) := by
  unfold State.mapReadBackFailed
  exact if_pos h

theorem State.writeOutcome_mapWrite (hk : op.kind = .mapWrite) : s.writeOutcome d op = s.mapSectorWritten d op := by
  unfold State.writeOutcome
  rw [hk]

/-- Settles O25: the start by the request it makes of the channel, the sectors by their pass, and each end by `endMapWrite_ended`. -/
theorem mapWriteRuns : Obligations.MapWriteRuns := by
  unfold Obligations.MapWriteRuns
  refine ⟨fun s d g hg => ?_, fun s d op r hc hk hr => ?_⟩
  · obtain ⟨⟨ch, tl, hs, st, hd⟩, hp⟩ := State.startMapWrite_requested hg
    dsimp only
    rw [hd]
    refine ⟨rfl, rfl, rfl, ⟨_, rfl, rfl, rfl, rfl, rfl, rfl, rfl, rfl⟩, fun h p k o ho => ?_⟩
    rw [State.port, hp]
    exact State.bindCommits_bound h ho
  · intro again ends
    have hends : ∀ (u : State) (tl : DriveTallies) (ok : Bool), Work s u → u.ports = s.ports → u.drive d = { s.drive d with tally := tl } →
        ends (u.endMapWrite d ok) ok := fun u tl ok w hp hd => by
      obtain ⟨⟨h1, h2, h3, h4, h5, h6, h7⟩, -⟩ := State.endMapWrite_ended w hp hd hc hk ok
      exact ⟨h1, by rw [h2]; cases (s.drive d).mapState <;> rfl, h3, h4, h5, h6, h7⟩
    have hraise : Work s (s.tallyDrive d DriveTallies.raiseSeekChecks) := (Work.refl s).tallyDrive d up_seekChecks
    have hraised := s.drive_tallyDrive d DriveTallies.raiseSeekChecks
    refine ⟨fun hp => ⟨?_, fun hlt => ?_, fun hge => ?_⟩, fun hp out => ?_⟩
    · unfold State.frameFor
      rw [if_neg (by simp [hp]), hk]
      simp [hr]
    · rw [State.writeOutcome_mapWrite hk, State.mapSectorWritten, if_pos (Nat.succ_lt_succ hlt), State.drive_setOp]
      rfl
    · rw [State.writeOutcome_mapWrite hk, State.mapSectorWritten, if_neg (by omega), State.drive_setOp]
      rfl
    · have ho : s.readOutcome d op out = s.mapReadBack d op out := by
        unfold State.readOutcome
        rw [if_pos hp, hk]
      rw [ho]
      refine ⟨fun hpass hlt => ?_, fun hpass hge => ?_, fun hf hlt hne => ?_, fun hf he => ⟨?_, fun hlt hgeom hch => ?_⟩, fun hf hge => ?_⟩
      · rw [State.mapReadBack_passed hr hpass, if_pos (Nat.succ_lt_succ hlt), State.drive_setOp]
        rfl
      · rw [State.mapReadBack_passed hr hpass, if_neg (by omega)]
        exact hends s _ true (.refl s) rfl rfl
      · have hw : out.elsewhere = false := by rwa [← Bool.not_eq_true, ReadOutcome.elsewhere_iff]
        rw [State.mapReadBack_failed hr hf, hw, State.mapReadBackFailed_again hlt, State.drive_setOp]
        exact ⟨rfl, rfl⟩
      · rw [State.mapReadBack_failed hr hf, (ReadOutcome.elsewhere_iff out).mpr he]
        by_cases hlt : op.attempt < 2
        · rw [State.mapReadBackFailed_elsewhere hlt]
          have hsteady : Steady (s.tallyDrive d DriveTallies.raiseSeekChecks) _ :=
            ((Steady.refl (s.tallyDrive d DriveTallies.raiseSeekChecks)).modDrive d fun x =>
              { x with cur := some { op.wants 0 .write with attempt := op.attempt + 1 } }).recalFor d (some (centre op.phys.cyl))
          have h1 := congrArg DriveTallies.seekChecks (hsteady d)
          rw [hraised] at h1
          exact h1
        · rw [State.mapReadBackFailed_last (Nat.not_lt.mp hlt)]
          exact congrArg DriveTallies.seekChecks (State.endMapWrite_ended hraise rfl hraised hc hk false).2
      · obtain ⟨g, hg⟩ := Option.isSome_iff_exists.mp hgeom
        rw [State.mapReadBack_failed hr hf, (ReadOutcome.elsewhere_iff out).mpr he, State.mapReadBackFailed_elsewhere hlt]
        have hd := (s.tallyDrive d DriveTallies.raiseSeekChecks).drive_setOp d { op.wants 0 .write with attempt := op.attempt + 1 }
        rw [hraised] at hd
        rw [State.drive_recalFor (g := g) (op := { op.wants 0 .write with attempt := op.attempt + 1 }) (by rw [hd]; exact hg) (by rw [hd])
          (by rw [hd]; exact (Phase.inFlight_eq_false _).mpr (.inl hch))]
        exact ⟨rfl, rfl⟩
      · rw [State.mapReadBack_failed hr hf, State.mapReadBackFailed_last hge]
        split
        · exact hends _ _ false hraise rfl hraised
        · exact hends s _ false (.refl s) rfl rfl

end Sys2Proof.Machine
end


section
/-! Sitting of the family 03 (track addressing and the spare map), part 7: COMMIT MAP (R65). -/

namespace Sys2Proof.Machine

-- One declaration after the other: in parallel the one compile of the whole text runs out of threads.
set_option Elab.async false

variable {s t u : State} {d e : DriveId} {x y : Drive} {op : Op}

/-! ## A drive with a MAP WRITE ahead -/

/-- R65: a drive in a state in which COMMIT MAP is accepted, with a MAP WRITE pending or current. -/
structure Drive.WriteAhead (x : Drive) : Prop where
  state : x.state = .fenced ∨ x.state = .mapLost
  geom : x.geom.isSome = true
  write : x.pendWrite = true ∨ ∃ op, x.cur = some op ∧ op.kind = .mapWrite

/-- A grant and a REASSIGN placed keep the MAP WRITE ahead. -/
theorem Drive.WriteAhead.of_kept (h : x.WriteAhead) (hk : y.kept = x.kept) : y.WriteAhead := by
  have hs : y.state = x.state := (congrArg Drive.state hk :)
  have hg : y.geom = x.geom := (congrArg Drive.geom hk :)
  have hp : y.pendWrite = x.pendWrite := (congrArg Drive.pendWrite hk :)
  have hc : y.cur = x.cur := (congrArg Drive.cur hk :)
  exact ⟨hs ▸ h.state, hg ▸ h.geom, by rw [hp, hc]; exact h.write⟩

/-- R101: with a MAP WRITE pending the selection takes it, or the RECALIBRATE before it. -/
theorem Drive.WriteAhead.nextInternal (h : x.WriteAhead) (hp : x.pendWrite = true) :
    x.nextInternal = some .recalibrate ∨ x.nextInternal = some .mapWrite := by
  have hload : x.internalEligible .mapLoad = false := by
    rcases h.state with hs | hs <;> simp [Drive.internalEligible, hs]
  have hwrite : x.internalEligible .mapWrite = true := by
    rcases h.state with hs | hs <;> simp [Drive.internalEligible, hs]
  have hrecal : x.internalEligible .recalibrate = true := by
    rcases h.state with hs | hs <;> simp [Drive.internalEligible, hs]
  cases hr : x.pendRecal <;> simp [Drive.nextInternal, hload, hwrite, hrecal, hp, hr]

/-- R60, R101: the start of the operation selected leaves the MAP WRITE pending, or makes it current. -/
theorem State.select_writeAhead (h : (s.drive d).WriteAhead) (hs : s.select d = some t) : (t.drive d).WriteAhead := by
  unfold State.select at hs
  split at hs
  · cases hs
  next hc =>
  have hp : (s.drive d).pendWrite = true := h.write.resolve_right fun ⟨op, hop, _⟩ => hc (by rw [hop]; rfl)
  obtain ⟨g, hg⟩ := Option.isSome_iff_exists.mp h.geom
  rcases h.nextInternal hp with hn | hn <;> rw [hn] at hs <;> cases hs
  · have hd : ((s.modDrive d fun x => { x with pendRecal := false }).setOp d (Op.internal .recalibrate ⟨0, 0⟩ ⟨0, 0⟩ .home .read)).drive d =
        { s.drive d with pendRecal := false, cur := some (Op.internal .recalibrate ⟨0, 0⟩ ⟨0, 0⟩ .home .read) } := by
      rw [State.drive_setOp, State.drive_modDrive_self]
    obtain ⟨⟨ch, tl, hs, st, hy⟩, -⟩ := State.recalFor_requested (congrArg Drive.cur hd) none
    rw [hd] at hy
    have hstart : (s.startInternal d .recalibrate).drive d = _ := hy
    rw [hstart]
    exact ⟨h.state, h.geom, .inl hp⟩
  · have hd := State.drive_modDrive_self s d fun x => { x with pendWrite := false }
    obtain ⟨⟨ch, tl, hs, st, hy⟩, -⟩ := State.startMapWrite_requested ((congrArg Drive.geom hd).trans hg)
    rw [hd] at hy
    have hstart : (s.startInternal d .mapWrite).drive d = _ := hy
    rw [hstart]
    exact ⟨h.state, h.geom, .inr ⟨_, rfl, rfl⟩⟩

theorem State.act_writeAhead (h : (s.drive d).WriteAhead) (ha : s.act = some t) : (t.drive d).WriteAhead := by
  rcases State.act_drives ha with hd | ⟨e, hd⟩ | ⟨e, hs⟩ | ⟨e, f, hd⟩ | ⟨e, hw, rfl⟩
  · rwa [State.drive_eq_of_drives hd]
  · rw [State.drive_eq_of_drives hd]
    exact h.of_kept (State.kept_modDrive s e d _ fun _ => rfl)
  · by_cases he : d = e
    · exact he ▸ State.select_writeAhead (he ▸ h) (he ▸ hs)
    · rwa [State.drive_of_others (State.others_select hs) he]
  · rw [State.drive_eq_of_drives hd]
    exact h.of_kept (State.kept_modDrive s e d _ fun _ => rfl)
  · have he : d ≠ e := by
      rintro rfl
      rcases h.state with h | h <;> rw [h] at hw <;> cases hw
    unfold State.enterSpinningUp State.setDriveState
    rwa [State.drive_modDrive_ne _ _ he, State.drive_modDrive_ne _ _ he]

/-- R65: what follows at once leaves the MAP WRITE pending or current. -/
theorem settle_writeAhead (n : Nat) (h : (s.drive d).WriteAhead) : ((settle n s).drive d).WriteAhead :=
  settle_rel (P := fun a b => (a.drive d).WriteAhead → (b.drive d).WriteAhead) (fun _ => id) (fun _ _ _ h1 h2 => h2 ∘ h1)
    (fun _ _ ha h => State.act_writeAhead h ha) n s h

/-- R65, R150: an accepted COMMIT MAP leaves a drive with a MAP WRITE ahead. -/
theorem State.commitMap_writeAhead {f : OrderFrame} {tag : Tag} (h : Accepted s .commitMap f tag) (hd : (s.accessOf f).phys = some d) :
    ({ s.drive d with pendWrite := true } : Drive).WriteAhead := by
  have hst := (State.judge_drive h.checks rfl).2
  rw [hd, Option.getD_some] at hst
  simp only [State.stateAllows, Bool.and_eq_true, Bool.or_eq_true, decide_eq_true_eq] at hst
  exact ⟨hst.1, hst.2, .inl rfl⟩

/-- Settles O59: the drive has a MAP WRITE ahead once the order is accepted, and what follows at once keeps that. -/
theorem commitMapQueuesWrite : Obligations.CommitMapQueuesWrite := by
  unfold Obligations.CommitMapQueuesWrite
  intro f tag d s h hd
  have hexec := h.run hd rfl commitMapOf
  have hahead := State.commitMap_writeAhead h hd
  have hunt := s.untouched_accept .commitMap f tag (some d)
  have hport := s.portKept_accept .commitMap f tag (some d)
  have htaken : ∀ v, Work (s.accept .commitMap f tag (some d)) v → ∃ o, Taken s v .commitMap f tag (some d) o := fun v => Work.taken
  have hdrive : ∀ e, (s.accept .commitMap f tag (some d)).drive e = s.drive e := fun _ => rfl
  have hmedia : (s.accept .commitMap f tag (some d)).media = s.media := rfl
  generalize s.accept .commitMap f tag (some d) = u at *
  have hself : (commitMapOf s.nextOid d u).drive d = { s.drive d with pendWrite := true } := by
    rw [commitMapOf, State.drive_modDrive_self, hdrive]
  have w := (commitMapOf_work s.nextOid d u).settle settleFuel
  obtain ⟨o, ho⟩ := htaken _ w
  have hspin : (s.drive d).state ≠ .waitingSpin := fun hw => by
    rcases hahead.state with h | h <;> exact absurd (h.symm.trans hw) (by decide)
  refine ⟨_, o, hexec, ho, (settle_writeAhead settleFuel (hself ▸ hahead)).write, fun hc => ?_,
    (settle_state (by rw [hself]; exact hspin)).trans (by rw [hself]), hport.trans (w.portKept _), w.laid.trans hmedia, hunt.work w,
    BusyWhole.settle _ fun e he _ => ?_⟩
  · have hbusy : ((commitMapOf s.nextOid d u).drive d).takesNoWork = true := by
      rw [hself]
      simp [Drive.takesNoWork, hc, hspin]
    have := settle_busy settleFuel _ d hbusy
    rw [hself] at this
    exact (congrArg Drive.pendWrite this :)
  · rw [commitMapOf, State.drive_modDrive_ne _ _ (by simpa using he), hdrive]

end Sys2Proof.Machine
end


section
/-! Sitting of the family 03 (track addressing and the spare map), part 8: TABLE GET (R67, R68, R120, R164 to R168). -/

namespace Sys2Proof.Machine

-- One declaration after the other: in parallel the one compile of the whole text runs out of threads.
set_option Elab.async false

variable {s t u : State} {f : OrderFrame} {tag : Tag} {k : TableId} {w : Window} {b : List Byte}

/-! ## The entry of a window -/

theorem State.getBody_congr (hd : ∀ d, t.drive d = s.drive d) (ha : ∀ p, (t.port p).access = (s.port p).access) (hw : t.watch = s.watch)
    (w : Window) (k : TableId) : t.getBody w k = s.getBody w k := by
  cases k <;> simp only [State.getBody, hd, ha, hw]

theorem State.tableGet_ok {p : Port} (h : s.tableGet p = .ok b) :
    ∃ k, (s.port p).window.table = some k ∧ s.getBody (s.port p).window k = .ok b := by
  unfold State.tableGet at h
  dsimp only at h
  split at h
  · cases h
  · next k hk =>
    split at h
    · cases h
    · exact ⟨k, hk, h⟩

/-- R150, R164: an accepted GET finds an entry. -/
theorem Accepted.tableGet (h : Accepted s .tableGet f tag) : ∃ b, s.tableGet f.port = .ok b := by
  have hj := h.checks
  unfold State.judge at hj
  split at hj
  · cases hj
  split at hj
  · cases hj
  split at hj
  · cases hj
  rw [if_neg (by decide)] at hj
  simp only [State.judgeTable] at hj
  split at hj
  · cases hj
  · next b hb => exact ⟨b, hb⟩

/-- R164: the entry is the same once the order is accepted. -/
theorem State.tableGet_accept (s : State) (f : OrderFrame) (tag : Tag) (p : Port) :
    (s.accept .tableGet f tag none).tableGet p = s.tableGet p := by
  have hb := State.getBody_congr (s := s) (t := s.accept .tableGet f tag none) (fun _ => rfl)
    (fun p => (s.accept_window .tableGet f tag none p).2) rfl
  unfold State.tableGet
  dsimp only
  rw [(s.accept_window .tableGet f tag none p).1]
  simp only [hb]
  rfl

theorem watchEntry_of_slot {l : List WatchSlot} {i : Nat} {e : WatchEntry} (h : l[i]? = some (.entry e)) : watchEntry l i = some e := by
  unfold watchEntry
  rw [h]

theorem watchEntry_of_noSlot {l : List WatchSlot} {i : Nat} (h : ∀ e, l[i]? ≠ some (.entry e)) : watchEntry l i = none := by
  unfold watchEntry
  split
  · next e he => exact absurd he (h e)
  · rfl

/-! ## The lengths of the entries (9.10) -/

theorem PortAccess.encode_length (a : PortAccess) : a.encode.length = 10 := rfl

theorem Geometry.encode_length (g : Option Geometry) : (Geometry.encode g).length = 8 := by cases g <;> rfl

theorem SpareEntry.encode_length (e : SpareEntry) : e.encode.length = 11 := by
  unfold SpareEntry.encode
  cases e.replacement <;> rfl

theorem WatchEntry.encode_length (e : WatchEntry) : e.encode.length = 15 := by
  unfold WatchEntry.encode
  cases e.candTime <;> rfl

/-! ## The answer of a GET -/

/-- R164 step 5: the window that moves on is at one port, and no setting changes. -/
theorem Untouched.stepWindow {D : List DriveId} {P : List Port} (h : Untouched s u D P) {p : Port} (hp : p ∈ P) :
    Untouched s (u.stepWindow p) D P := by
  have hne : ∀ q, q ≠ p → (u.stepWindow p).port q = u.port q := fun q hq => State.port_modPort_ne _ _ hq
  refine ⟨h.powered, h.startCause, h.settings.trans ⟨rfl, rfl, fun q => ?_, fun _ => rfl, fun _ => rfl, fun _ => rfl⟩, h.bus, h.drive,
    fun q hq => ?_⟩
  · by_cases hqp : q = p
    · subst hqp
      rw [State.stepWindow, State.port_modPort_self]
    · rw [hne q hqp]
  · have heq := hne q fun hqp => hq (hqp ▸ hp)
    obtain ⟨hk, hs⟩ := h.port q hq
    exact ⟨hk.trans ⟨by rw [heq], by rw [heq], by rw [heq], by rw [heq]⟩, hs.trans fun g => by rw [heq]⟩

/-- What a GET leaves (R153, R164). -/
structure GetDone (s : State) (f : OrderFrame) (tag : Tag) (b : List Byte) (t : State) (o : Order) : Prop where
  taken : Taken s t .tableGet f tag none o
  result : o.result = some .complete
  body : o.body = b
  window : (t.port f.port).window = (s.port f.port).window.step
  refusals : (t.port f.port).refusals = (s.port f.port).refusals
  media : t.media = s.media
  untouched : Untouched s t [] [f.port]
  busy : BusyWhole s t []

theorem getTable_eq (h : u.tableGet f.port = .ok b) (n : Nat) (d : DriveId) : getTable f n d u =
    ((u.stepWindow f.port).modOrder n fun o => { o with body := b }).endOrder n .complete := by
  unfold getTable
  rw [h]

/-- R164: an accepted GET takes the entry of its window into its body, and the window moves on. -/
theorem Accepted.get (h : Accepted s .tableGet f tag) (hn : s.numberLaw) (hb : s.tableGet f.port = .ok b) :
    ∃ t o, exec (.tableGet f) s = .next t ∧ GetDone s f tag b t o := by
  have hx : exec (.tableGet f) s =
      .next (settle settleFuel (getTable f s.nextOid ((s.accessOf f).phys.getD 0) (s.accept .tableGet f tag none))) :=
    (State.run_powered h.power fun s => s.receiveOrder .tableGet f (getTable f)).trans (by rw [h.receive]; rfl)
  rw [getTable_eq ((s.tableGet_accept f tag f.port).trans hb)] at hx
  have hunt := (s.untouched_accept .tableGet f tag none).stepWindow (p := f.port) (by simp)
  have hport := s.portKept_accept .tableGet f tag none
  have hdrive : ∀ e, (s.accept .tableGet f tag none).drive e = s.drive e := fun _ => rfl
  have hmedia : (s.accept .tableGet f tag none).media = s.media := rfl
  have hslot := s.slot_accept .tableGet f tag none
  have hnum := State.numberLaw_accept (k := .tableGet) none h.free hn
  obtain ⟨o1, ht1⟩ := (Work.refl (s.accept .tableGet f tag none)).taken
  generalize s.accept .tableGet f tag none = u at *
  obtain ⟨hslots, -, href, -, hstep⟩ := u.stored_kept (u.port f.port).window .watchList [] f.port f.port
  have hnum1 : (u.stepWindow f.port).numberLaw := numberLaw_of hnum le_rfl fun p g o ho => by
    rw [(u.stored_kept (u.port f.port).window .watchList [] f.port p).1.symm]
    exact ⟨o, ho, rfl⟩
  have hans := State.slot_answer hnum1 ((congrArg (fun c => c.get tag) hslots).trans hslot) rfl (newOrder_live _ _ _ _)
    (fun o => { o with body := b }) (fun _ => ⟨rfl, rfl⟩) .complete
  have hwork : Work (u.stepWindow f.port) (settle settleFuel
      (((u.stepWindow f.port).modOrder s.nextOid fun o => { o with body := b }).endOrder s.nextOid .complete)) :=
    (((Work.refl _).modOrder _ _).endOrder _ _).settle _
  obtain ⟨o, ho, hbase, hr⟩ := settle_answered settleFuel hans rfl
  refine ⟨_, o, hx, (ht1.stored (u.port f.port).window .watchList []).work hwork ho, hr, (congrArg Order.body hbase :),
    (hwork.portKept f.port).window.trans (hstep.trans (by rw [hport.window])),
    (hwork.portKept f.port).refusals.trans (href.trans hport.refusals), hwork.laid.trans hmedia, hunt.work hwork,
    BusyWhole.settle _ fun e _ _ => congrArg Drive.kept ?_⟩
  rw [State.drive_endOrder]
  exact hdrive e

/-- R68: a pool position is read within the pool of a set geometry. -/
theorem State.getBody_alternatePool (h : s.getBody w .alternatePool = .ok b) : ∃ g, (s.drive w.drive).geom = some g ∧
    w.index < g.poolSize ∧ b = [poolCode ((s.drive w.drive).poolState g w.index)] := by
  simp only [State.getBody] at h
  split at h
  · cases h
  · next g hg =>
    split at h
    · next hi => exact ⟨g, hg, hi, (Except.ok.inj h).symm⟩
    · cases h

/-- Settles O53: the body is the entry of the window as it stands at acceptance, table by table. -/
theorem tableGetReturns : Obligations.TableGetReturns := by
  unfold Obligations.TableGetReturns
  intro f tag s h hn
  dsimp only
  obtain ⟨b, hget⟩ := h.tableGet
  obtain ⟨k, hk, hb⟩ := State.tableGet_ok hget
  obtain ⟨t, o, hx, hd⟩ := h.get hn hget
  refine ⟨k, t, o, hk, hx, hd.taken, hd.result, ?_, ?_, ?_, ?_, ?_, ?_, ?_, hd.window, hd.refusals, hd.media, hd.untouched, hd.busy⟩ <;>
    rw [hd.body] <;> rintro rfl
  · obtain rfl := Except.ok.inj hb
    exact ⟨rfl, PortAccess.encode_length _⟩
  · obtain rfl := Except.ok.inj hb
    exact ⟨rfl, Geometry.encode_length _⟩
  · obtain rfl := Except.ok.inj hb
    exact ⟨rfl, rfl⟩
  · obtain rfl := Except.ok.inj hb
    exact ⟨rfl, rfl⟩
  · obtain rfl := Except.ok.inj hb
    refine ⟨?_, fun e hg he => ?_⟩
    · rintro (hg | hs)
      · simp [hg]
      · have : (s.drive (s.port f.port).window.drive).slotEntry (s.port f.port).window.index = none :=
          List.find?_eq_none.mpr fun e he => by simpa using hs e he
        simp [this]
    · rw [if_neg (by simpa [Option.isSome_iff_ne_none] using hg), he]
      exact ⟨rfl, e.encode_length⟩
  · obtain ⟨g, hg, hi, rfl⟩ := State.getBody_alternatePool hb
    exact ⟨g, hg, hi, fun st hst => by simp [Drive.poolState, hst], fun hst => by simp [Drive.poolState, hst]⟩
  · obtain rfl := Except.ok.inj hb
    refine ⟨fun e he => ?_, fun he => ?_⟩
    · rw [watchEntry_of_slot he]
      exact ⟨rfl, e.encode_length⟩
    · rw [watchEntry_of_noSlot he]
      rfl

end Sys2Proof.Machine
end


section
/-! What a sector reads as (R70 to R73). -/

namespace Sys2Proof.Machine

-- One declaration after the other: in parallel the one compile of the whole text runs out of threads.
set_option Elab.async false

/-! ## The outcome of a frame (R72) -/

/-- The header carries the fields looked up, whatever its LOST flag. -/
def Looked (want h : Header) : Prop :=
  h.drive = want.drive ∧ h.cyl = want.cyl ∧ h.head = want.head ∧ h.sector = want.sector ∧ h.kind = want.kind

/-- What a sector reads as under the header looked up: the LOST flag decides, and after it the data. -/
def outcomeUnder (lost : Bool) (dt : FrameData) : ReadOutcome :=
  if lost then .lost else match dt with
    | .good p => .good p
    | .fill => .incomplete
    | .invalid => .dataCheck

theorem judgeFrame_otherCyl {want h : Header} (dt : FrameData) (hc : h.cyl ≠ want.cyl) :
    judgeFrame want (.framed true h dt) = .mismatch true := if_pos hc

theorem judgeFrame_otherField {want h : Header} (dt : FrameData) (hc : h.cyl = want.cyl) (hm : ¬Looked want h) :
    judgeFrame want (.framed true h dt) = .mismatch false := by
  have hf : h.drive ≠ want.drive ∨ h.head ≠ want.head ∨ h.sector ≠ want.sector ∨ h.kind ≠ want.kind := by
    unfold Looked at hm
    tauto
  exact (if_neg (by simpa using hc)).trans (if_pos hf)

theorem judgeFrame_looked {want h : Header} (dt : FrameData) (hm : Looked want h) :
    judgeFrame want (.framed true h dt) = outcomeUnder h.lost dt := by
  obtain ⟨hd, hc, hh, hs, hk⟩ := hm
  exact (if_neg (not_not.mpr hc)).trans ((if_neg (by simp [hd, hh, hs, hk])).trans rfl)

/-- An outcome that no mismatch and no lone FILL gives is read under the header looked up. -/
theorem judgeFrame_eq_iff {want : Header} {fr : Frame} {out : ReadOutcome} (hm : ∀ b, out ≠ .mismatch b) (hi : out ≠ .incomplete) :
    judgeFrame want fr = out ↔ ∃ h dt, fr = .framed true h dt ∧ Looked want h ∧ outcomeUnder h.lost dt = out := by
  constructor
  · intro hj
    match fr with
    | .noSync => exact absurd hj.symm (hm _)
    | .fill => exact absurd hj.symm hi
    | .framed false h dt => exact absurd hj.symm (hm _)
    | .framed true h dt =>
      by_cases hc : h.cyl = want.cyl
      · by_cases hl : Looked want h
        · exact ⟨h, dt, rfl, hl, (judgeFrame_looked dt hl).symm.trans hj⟩
        · exact absurd (hj.symm.trans (judgeFrame_otherField dt hc hl)) (hm _)
      · exact absurd (hj.symm.trans (judgeFrame_otherCyl dt hc)) (hm _)
  · rintro ⟨h, dt, rfl, hl, rfl⟩
    exact judgeFrame_looked dt hl

theorem outcomeUnder_good_iff {lost : Bool} {dt : FrameData} {p : Payload} :
    outcomeUnder lost dt = .good p ↔ lost = false ∧ dt = .good p := by
  cases lost <;> cases dt <;> simp [outcomeUnder]

theorem outcomeUnder_lost_iff {lost : Bool} {dt : FrameData} : outcomeUnder lost dt = .lost ↔ lost = true := by
  cases lost <;> cases dt <;> simp [outcomeUnder]

theorem outcomeUnder_ne_mismatch (lost : Bool) (dt : FrameData) (b : Bool) : outcomeUnder lost dt ≠ .mismatch b := by
  cases lost <;> cases dt <;> simp [outcomeUnder]

/-- R114: a header of another cylinder is what the cylinder-wrong outcome says, and nothing else is. -/
theorem judgeFrame_cylinderWrong_iff {want : Header} {fr : Frame} :
    judgeFrame want fr = .mismatch true ↔ ∃ h dt, fr = .framed true h dt ∧ h.cyl ≠ want.cyl := by
  constructor
  · intro hj
    match fr with
    | .noSync | .fill | .framed false h dt => cases hj
    | .framed true h dt =>
      refine ⟨h, dt, rfl, fun hc => ?_⟩
      by_cases hl : Looked want h
      · exact outcomeUnder_ne_mismatch _ dt _ ((judgeFrame_looked dt hl).symm.trans hj)
      · cases (judgeFrame_otherField dt hc hl).symm.trans hj
  · rintro ⟨h, dt, rfl, hc⟩
    exact judgeFrame_otherCyl dt hc

/-- R71: a torn write reads INCOMPLETE wherever it was cut, under the header looked up with the LOST flag clear. -/
theorem judgeFrame_torn {want h : Header} (laid : Bool) (dt : FrameData) (hl : Looked want h) (hf : h.lost = false) :
    judgeFrame want (tornFrame laid (.framed true h dt)) = .incomplete := by
  cases laid with
  | false => rfl
  | true => exact (judgeFrame_looked .fill hl).trans (by rw [hf]; rfl)

/-- Settles O32: each outcome by the element of the frame that gives it. -/
theorem sectorReadOutcome : Obligations.SectorReadOutcome := by
  unfold Obligations.SectorReadOutcome
  intro want fr p
  refine ⟨?_, judgeFrame_cylinderWrong_iff, ?_, fun h dt laid hd hc hh hs hk hl => judgeFrame_torn laid dt ⟨hd, hc, hh, hs, hk⟩ hl, rfl⟩
  · rw [judgeFrame_eq_iff (out := .good p) nofun nofun]
    simp only [outcomeUnder_good_iff]
    constructor
    · rintro ⟨h, dt, rfl, ⟨hd, hc, hh, hs, hk⟩, hf, rfl⟩
      exact ⟨h, rfl, hd, hc, hh, hs, hk, hf⟩
    · rintro ⟨h, rfl, hd, hc, hh, hs, hk, hf⟩
      exact ⟨h, _, rfl, ⟨hd, hc, hh, hs, hk⟩, hf, rfl⟩
  · rw [judgeFrame_eq_iff (out := .lost) nofun nofun]
    simp only [outcomeUnder_lost_iff]
    constructor
    · rintro ⟨h, dt, rfl, ⟨hd, hc, hh, hs, hk⟩, hf⟩
      exact ⟨h, dt, rfl, hd, hc, hh, hs, hk, hf⟩
    · rintro ⟨h, dt, rfl, hd, hc, hh, hs, hk, hf⟩
      exact ⟨h, dt, rfl, ⟨hd, hc, hh, hs, hk⟩, hf⟩

end Sys2Proof.Machine
end


section
/-! The ends of sectors (R71, R72, R85, R106, R108). -/

namespace Sys2Proof.Machine

-- One declaration after the other: in parallel the one compile of the whole text runs out of threads.
set_option Elab.async false

variable {s t u : State} {d : DriveId} {op : Op}

/-! ## What going on past a sector keeps of the counts and the ring -/

/-- The number and the sectors done of an order. -/
def Order.progress (o : Order) : Nat × Nat := (o.oid, o.done)

/-- Every order keeps its number and its sectors done, and every slot of the ring stays in it. -/
structure CountsKept (s t : State) : Prop where
  order : ∀ p g, ((t.port p).slots.get g).map Order.progress = ((s.port p).slots.get g).map Order.progress
  ring : ∀ x ∈ s.ring.run, x ∈ t.ring.run

theorem CountsKept.refl (s : State) : CountsKept s s := ⟨fun _ _ => rfl, fun _ h => h⟩

theorem CountsKept.trans (h1 : CountsKept s t) (h2 : CountsKept t u) : CountsKept s u :=
  ⟨fun p g => (h2.order p g).trans (h1.order p g), fun x hx => h2.ring x (h1.ring x hx)⟩

theorem CountsKept.rest (h : CountsKept s t) {u : State} (hp : ∀ p, (u.port p).slots = (t.port p).slots := by exact fun _ => rfl)
    (hr : u.ring = t.ring := by rfl) : CountsKept s u :=
  h.trans ⟨fun p g => by rw [hp], fun x hx => by rw [hr]; exact hx⟩

theorem Order.progress_of_base {o r : Order} (h : r.base = o.base) : r.progress = o.progress :=
  congrArg₂ Prod.mk (congrArg Order.oid h :) (congrArg Order.done h :)

theorem map_progress_of_base {x y : Option Order} (h : y.map Order.base = x.map Order.base) : y.map Order.progress = x.map Order.progress := by
  cases x with
  | none => rw [Option.map_eq_none_iff.mp (h.trans (Option.map_none _))]
  | some o =>
    obtain ⟨r, rfl, hr⟩ := Option.map_eq_some_iff.mp (h.trans (Option.map_some _ _))
    rw [Option.map_some, Option.map_some, Order.progress_of_base hr]

theorem CountsKept.of_base (h : CountsKept s t) (hb : u.base = t.base) : CountsKept s u :=
  h.trans ⟨fun p g => map_progress_of_base (by
      have := congrArg (fun v : State => (v.port p).slots.get g) hb
      simpa [State.base, State.port, PortCtl.base] using this),
    fun x hx => by rw [show u.ring = t.ring from (congrArg State.ring hb :)]; exact hx⟩

theorem CountsKept.modOrder (h : CountsKept s t) (n : Nat) (f : Order → Order) (hf : ∀ o, (f o).progress = o.progress := by exact fun _ => rfl) :
    CountsKept s (t.modOrder n f) := by
  refine h.trans ⟨fun p g => ?_, fun _ hx => hx⟩
  rw [State.port_modOrder, PortCtl.slot_modOrder, Option.map_map]
  congr 1
  funext o
  simp only [Function.comp]
  split <;> simp [hf]

theorem CountsKept.ite {c : Prop} [Decidable c] {a b : State} (ha : c → CountsKept s a) (hb : ¬c → CountsKept s b) :
    CountsKept s (if c then a else b) := by
  split
  · next h => exact ha h
  · next h => exact hb h

theorem CountsKept.mapPorts (h : CountsKept s t) (f : PortCtl → PortCtl) (hf : ∀ c, (f c).slots = c.slots := by exact fun _ => rfl) :
    CountsKept s { t with ports := t.ports.map f } :=
  h.rest (fun p => by simp [State.port, hf])

theorem CountsKept.modPort (h : CountsKept s t) (p : Port) (f : PortCtl → PortCtl) (hf : ∀ c, (f c).slots = c.slots := by exact fun _ => rfl) :
    CountsKept s (t.modPort p f) := by
  refine h.rest fun q => ?_
  by_cases hq : q = p
  · subst hq; rw [State.port_modPort_self, hf]
  · rw [State.port_modPort_ne _ _ hq]

theorem CountsKept.operationResult (h : CountsKept s t) (op : Op) (r : Result) : CountsKept s (t.operationResult op r) :=
  .ite (fun _ => .ite (fun _ => (h.modOrder op.oid fun o => { o with held := some r }).rest) fun _ => h) fun _ =>
    h.of_base (State.base_endOrder _ _ _)

/-- The end of an operation other than a SURFACE VERIFY, whose order would take the engine's count of tracks. -/
theorem CountsKept.clearOp (h : CountsKept s t) (hc : ∀ op, (t.drive d).cur = some op → op.kind ≠ .surface) :
    CountsKept s (t.clearOp d) := by
  unfold State.clearOp
  split
  · next op hop => rw [if_neg (hc op hop)]; exact h.rest
  · exact h.rest

theorem CountsKept.dropRequests (h : CountsKept s t) (l : List Nat) : CountsKept s (t.dropRequests l) := h.mapPorts _

theorem CountsKept.endHostOp (h : CountsKept s t) (hc : ∀ op, (t.drive d).cur = some op → op.kind ≠ .surface) (op : Op) (r : Result) :
    CountsKept s (t.endHostOp d op r) := by
  have h1 : CountsKept s ((t.operationResult op r).leaveWaitList [op.oid]) := (h.operationResult op r).rest
  refine CountsKept.clearOp (h1.dropRequests _) fun op' hop' => hc op' ?_
  have hd : (t.operationResult op r).drives = t.drives := by
    unfold State.operationResult State.holdResult
    split
    · split <;> rfl
    · exact State.drives_endOrder _ _ _
  rw [← State.drive_eq_of_drives hd d]
  exact hop'

@[simp] theorem State.base_moveToTrack (s : State) (d : DriveId) (n : Nat) (op : Op) : (s.moveToTrack d n op).base = s.base := by
  unfold State.moveToTrack
  dsimp only
  split <;> simp

theorem CountsKept.hostAdvance (h : CountsKept s t) (hc : ∀ op, (t.drive d).cur = some op → op.kind ≠ .surface) (op : Op) :
    CountsKept s (t.hostAdvance d op) :=
  .ite (fun _ => h.endHostOp hc op _) fun _ =>
    .ite (fun _ => h.of_base (State.base_setOp _ _ _)) fun _ => h.of_base (State.base_moveToTrack _ _ _ _)

theorem CountsKept.giveSlot (h : CountsKept s t) (i : Fin 8) (p : Port) (o : Order) : CountsKept s (t.giveSlot i p o) :=
  (h.rest (u := t.setWslot i _)).modPort p (fun c => { c with dataReqs := c.dataReqs ++ [.dataRequest o.oid o.tag _] })

theorem CountsKept.freeSlot (h : CountsKept s t) (i : Fin 8) : CountsKept s (t.freeSlot i) := by
  unfold State.freeSlot
  dsimp only
  split
  · exact h.rest
  · next oid rest _ =>
    split
    · exact h.rest
    · next p o _ =>
      have h1 : CountsKept s { t.setWslot i WriteSlot.free with waitList := rest } := h.rest
      exact .ite (fun _ => (h1.giveSlot i p o).rest) fun _ => h1.giveSlot i p o

theorem CountsKept.ringTake (h : CountsKept s t) (op : Op) : CountsKept s (t.ringTake op) :=
  .ite (fun _ => h) fun _ => h.trans ⟨fun _ _ => rfl, fun _ hx => List.mem_append_left _ hx⟩

theorem CountsKept.takePlace (h : CountsKept s t) (op : Op) : CountsKept s (t.takePlace op) := by
  unfold State.takePlace State.setSlotState
  split
  · exact h.ringTake op
  · split
    · exact h.rest
    · exact h
  all_goals exact h

theorem CountsKept.countMiss (h : CountsKept s t) (d : DriveId) (op : Op) : CountsKept s (t.countMiss d op) := by
  unfold State.countMiss
  split <;> exact h.rest

theorem CountsKept.planContinuation (h : CountsKept s t) (d : DriveId) (op : Op) : CountsKept s (t.planContinuation d op).1 := by
  unfold State.planContinuation
  dsimp only
  split
  · split
    · exact h
    · exact h.countMiss d op
  · exact h

theorem CountsKept.beginTransfer (h : CountsKept s t) (d : DriveId) (op : Op) (x : Xfer) : CountsKept s (t.beginTransfer d op x) := by
  unfold State.beginTransfer
  dsimp only
  refine CountsKept.rest (CountsKept.planContinuation (?_ : CountsKept s _) d op)
  exact .ite (fun _ => (h.takePlace op).rest) fun _ => h

theorem CountsKept.afterTransfer (h : CountsKept s t) (d : DriveId) (x : Xfer) (good : Bool) : CountsKept s (t.afterTransfer d x good) := by
  unfold State.afterTransfer
  split
  · exact h.rest
  · refine .ite (fun _ => ?_) fun _ => h.rest
    dsimp only
    split
    · exact h.rest
    · exact .ite (fun _ => h.beginTransfer d _ _) fun _ => h.rest

/-- The reports of a recovered sector change the watch list and the notices alone. -/
theorem CountsKept.countRecovered (h : CountsKept s t) (d : DriveId) (op : Op) : CountsKept s (t.countRecovered d op) := by
  refine .ite (fun _ => h) fun _ => .ite (fun _ => ?_) fun _ => h.rest
  have hn : ∀ (v : State) i e c, CountsKept s v → CountsKept s (v.candidate i e c) := fun v i e c hv => (hv.rest (u := v.setWatch i _)).mapPorts _
  have h1 : CountsKept s (t.tallyDrive d DriveTallies.raiseRecovered) := h.rest
  unfold State.recoveredReport
  dsimp only
  refine .ite (fun _ => h1) fun _ => ?_
  split
  · split
    · exact h1.rest
    · exact .ite (fun _ => hn _ _ _ _ h1) fun _ => h1.rest
  · split
    · exact h1
    · exact .ite (fun _ => hn _ _ _ _ h1) fun _ => h1.rest

/-- An order whose sectors done rise by one. -/
theorem State.slot_doneRises {n : Nat} {p : Port} {g : Tag} {o : Order} (ho : (s.port p).slots.get g = some o) (hn : o.oid = n) :
    ((s.modOrder n fun o => { o with done := o.done + 1 }).port p).slots.get g = some { o with done := o.done + 1 } := by
  rw [State.port_modOrder, PortCtl.slot_modOrder, ho, Option.map_some, if_pos hn]

theorem CountsKept.done (h : CountsKept s t) {p : Port} {g : Tag} {o : Order} (ho : (s.port p).slots.get g = some o) :
    ∃ r, (t.port p).slots.get g = some r ∧ r.oid = o.oid ∧ r.done = o.done := by
  have h1 := h.order p g
  rw [ho] at h1
  obtain ⟨r, hr, he⟩ := Option.map_eq_some_iff.mp h1
  exact ⟨r, hr, congrArg Prod.fst he, congrArg Prod.snd he⟩

/-- The immediate actions keep the sectors done of every order. -/
theorem settle_done (n : Nat) {p : Port} {g : Tag} {o : Order} (ho : (s.port p).slots.get g = some o) :
    ∃ r, ((settle n s).port p).slots.get g = some r ∧ r.oid = o.oid ∧ r.done = o.done := by
  obtain ⟨r, hr, hb⟩ := settle_slot_some (n := n) ho
  exact ⟨r, hr, (congrArg Order.oid hb :), (congrArg Order.done hb :)⟩

/-! ## The end of a sector write (R71, R108) -/

theorem State.sectorWriteEnd_eq {x : Xfer} {fr : Frame} (hx : s.transferOf d = some (op, x)) (hf : x.frame = some fr) :
    s.sectorWriteEnd d = s.endWrite d op x fr := by
  simp only [State.sectorWriteEnd, hx, hf]

/-- A host WRITE that goes on counts its sector, and goes past it. -/
theorem State.endWrite_counts (hk : op.kind = .write) (he : op.ended = false) (hc : (s.drive d).cur = some op) (x : Xfer) (fr : Frame) :
    CountsKept (s.modOrder op.oid fun o => { o with done := o.done + 1 }) (s.endWrite d op x fr) := by
  unfold State.endWrite State.writeOutcome State.writeWritten
  simp only [hk, he, Bool.false_eq_true, if_false]
  generalize hv : (s.layDown d op.phys x.sector fr).modOrder op.oid _ = v
  have h0 : CountsKept (s.modOrder op.oid fun o => { o with done := o.done + 1 }) v := hv ▸ (CountsKept.refl _).rest
  have hd : v.drives = s.drives := by rw [← hv]; rfl
  refine CountsKept.afterTransfer ?_ d x true
  split
  · refine (h0.freeSlot _).hostAdvance (fun op' h' => ?_) op
    rw [State.drive_eq_of_drives (State.drives_freeSlot _ _), State.drive_eq_of_drives hd, hc] at h'
    cases h'
    simp [hk]
  · refine h0.hostAdvance (fun op' h' => ?_) op
    rw [State.drive_eq_of_drives hd, hc] at h'
    cases h'
    simp [hk]

/-- The frame of the transfer is what a sector write leaves of the media. -/
theorem State.media_endWrite (s : State) (d : DriveId) (op : Op) (x : Xfer) (fr : Frame) :
    (s.endWrite d op x fr).media = mediaPut s.media (mediaKey d op.phys x.sector) fr :=
  (((Work.refl _).writeOutcome d op).afterTransfer d x true : Work (s.layDown d op.phys x.sector fr) (s.endWrite d op x fr)).laid

/-- Settles O33: the frame laid down is found at its key, and the rest of the media, the settings and the orders follow from what the work
after it keeps. -/
theorem sectorWriteLaysDown : Obligations.SectorWriteLaysDown := by
  unfold Obligations.SectorWriteLaysDown
  intro d op x fr s hp hx hf
  obtain ⟨-, hcur, -⟩ := State.transferOf_eq hx
  refine ⟨settle settleFuel (s.endWrite d op x fr), ?_, ?_, fun k hk => ?_, ?_, fun hk he p g o ho hoid => ?_⟩
  · rw [← State.sectorWriteEnd_eq hx hf]
    exact State.run_powered hp fun s => s.sectorWriteEnd d
  · rw [settle_media, State.media_endWrite, mediaGet_put_self]
  · rw [settle_media, State.media_endWrite, mediaGet_put_ne _ _ hk]
  · exact (s.untouched_endWrite d op x fr [] []).work ((Work.refl _).settle _)
  · obtain ⟨r, hr, hro, hrd⟩ := (State.endWrite_counts hk he hcur x fr).done (State.slot_doneRises ho hoid)
    obtain ⟨r', hr', hro', hrd'⟩ := settle_done settleFuel hr
    exact ⟨r', hr', hro'.trans hro, hrd'.trans hrd⟩

/-! ## The end of a good host read (R72, R85, R106) -/

theorem State.sectorReadEnd_eq {x : Xfer} (hx : s.transferOf d = some (op, x)) (hf : x.frame = none) (seen : Option Frame) :
    s.sectorReadEnd d seen = s.endRead d op x (judgeFrame (op.expected d false) (s.metFrame d op x seen)) := by
  simp only [State.sectorReadEnd, hx, hf]
  rfl

/-- R85: the FILLING slot behind the fill pointer goes HELD with the data of an order that has not ended. -/
theorem State.ringGood_held {front : List RingSlot} {sl : RingSlot} (hr : s.ring.run = front ++ [sl]) (hs : sl.state = .filling)
    (hl : s.orderLive sl.oid = true) (p : Payload) :
    s.ringGood p = s.setRun (front ++ [{ sl with state := .held, data := some p }]) := by
  simp [State.ringGood, hr, hs, hl]

/-- R106, R111: past a sector of a READ read GOOD, at the first read or by the ladder. -/
theorem CountsKept.sectorGood (hk : op.kind = .read) (p : Payload) :
    CountsKept (s.modOrder op.oid fun o => { o with done := o.done + 1 }) (s.sectorGood d op p) := by
  have hcur : ∀ (v : State) (op' : Op), op'.kind = .read → ∀ q, ((v.setOp d op').drive d).cur = some q → q.kind ≠ .surface := by
    intro v op' hk' q hq
    have : (some op') = some q := by simpa [State.setOp] using hq
    cases this
    simp [hk']
  have hkeep : s.keepGood op p = s.modOrder op.oid fun o => { o with done := o.done + 1 } := by simp only [State.keepGood, hk]
  have hop : (if op.kind = .mapLoad then { op with got := op.got ++ [p] } else op) = op := if_neg (by simp [hk])
  have hadv : ∀ (v : State) (op' : Op), op'.kind = .read → v.advance d op' = v.hostAdvance d op' := by
    intro v op' h'
    simp only [State.advance, h']
  unfold State.sectorGood
  rw [hkeep, hop]
  generalize s.modOrder op.oid _ = v
  have h0 := CountsKept.refl v
  dsimp only
  split
  · rw [hadv _ op hk]
    exact (h0.of_base (State.base_setOp v d op)).hostAdvance (hcur v op hk) op
  · generalize hop2 : ({ op with recovered := true } : Op) = op2
    have hk2 : op2.kind = .read := hop2 ▸ hk
    have h1 := (h0.countRecovered d op).of_base (State.base_setOp (v.countRecovered d op) d op2)
    have hc : (((v.countRecovered d op).setOp d op2).drive d).cur = some op2 := by simp [State.setOp]
    refine .ite (fun _ => ?_) fun _ => h1.of_base (State.base_beginSeek _ _ _ _)
    simp only [State.reachGoal, hc, hadv _ op2 hk2]
    exact h1.hostAdvance (hcur _ op2 hk2) op2

theorem CountsKept.noteAttempt (h : CountsKept s t) (op : Op) : CountsKept s (t.noteAttempt op) := by
  unfold State.noteAttempt
  split
  · exact h.modOrder _ _
  · exact h

/-- A READ that goes on counts a sector read GOOD and keeps its slot of the ring. -/
theorem State.endRead_counts (hk : op.kind = .read) (hr : op.pass = .read) (he : op.ended = false) (x : Xfer) (p : Payload) :
    CountsKept (((s.ringGood p).noteAttempt op).modOrder op.oid fun o => { o with done := o.done + 1 }) (s.endRead d op x (.good p)) := by
  unfold State.endRead State.readOutcome
  simp only [hk, hr, he, reduceCtorEq, Bool.false_eq_true, if_false, if_true, State.ladderRead]
  exact (CountsKept.sectorGood hk p).afterTransfer d x _

/-- Settles O34: the slot of the ring is HELD before the READ goes on, and what it goes on with keeps the slot and the count. -/
theorem sectorReadHolds : Obligations.SectorReadHolds := by
  unfold Obligations.SectorReadHolds
  intro d op x seen p front sl s hp hx hf hk hr he hj hrun hs hl
  have hw := (Work.refl s).endRead d op x (.good p)
  have hcounts := State.endRead_counts (s := s) (d := d) hk hr he x p
  rw [State.ringGood_held hrun hs hl] at hcounts
  have hnote := (CountsKept.refl (s.setRun (front ++ [{ sl with state := .held, data := some p }]))).noteAttempt op
  refine ⟨settle settleFuel (s.endRead d op x (.good p)), ?_, ?_, ?_, ?_, fun q g o ho hoid => ?_⟩
  · rw [← hj, ← State.sectorReadEnd_eq hx hf]
    exact State.run_powered hp fun s => s.sectorReadEnd d seen
  · exact (settle_places _ _).held _ (hcounts.ring _ (hnote.ring _ (List.mem_append_right _ (List.mem_singleton_self _)))) rfl
  · exact (hw.settle _).laid
  · exact (hw.settle _).untouched [] []
  · obtain ⟨r, hr1, hro, hrd⟩ := hnote.done (p := q) (g := g) ho
    obtain ⟨r2, hr2, hro2, hrd2⟩ := hcounts.done (State.slot_doneRises hr1 (hro.trans hoid))
    obtain ⟨r3, hr3, hro3, hrd3⟩ := settle_done settleFuel hr2
    exact ⟨r3, hr3, hro3.trans (hro2.trans hro), hrd3.trans (hrd2.trans (congrArg (· + 1) hrd))⟩

end Sys2Proof.Machine
end


section
/-! Requests, grants, continuations and the release of the path
(R74 to R79, R81, R83). -/

namespace Sys2Proof.Machine

-- One declaration after the other: in parallel the one compile of the whole text runs out of threads.
set_option Elab.async false

variable {s t u : State} {d e : DriveId} {op : Op} {x : Xfer}

/-! ## The next grantee (R77) -/

theorem find_allDrives_lowest {p : DriveId → Bool} (h : allDrives.find? p = some d) (he : p e = true) : d ≤ e := by
  obtain ⟨-, i, hi, rfl, hlow⟩ := List.find?_eq_some_iff_getElem.mp h
  have hat : ∀ n : Fin 8, allDrives[n] = n := by decide
  by_contra hlt
  have hj : e.val < i := by
    have h1 := hat ⟨i, hi⟩
    simp only [Fin.getElem_fin] at h1
    rw [h1] at hlt
    exact not_le.mp hlt
  have h2 := hlow e.val hj
  have h3 := hat e
  simp only [Fin.getElem_fin] at h3
  simp [h3, he] at h2

/-- The search runs over the distances from the drive after the last grantee. -/
theorem State.nextGrantee_eq (s : State) : s.nextGrantee =
    (allDrives.find? fun i => (s.drive (s.path.last + 1 + i)).request).map fun i => s.path.last + 1 + i := by
  unfold State.nextGrantee
  rw [List.find?_map]
  rfl

theorem State.nextGrantee_some (h : s.nextGrantee = some d) : (s.drive d).request = true ∧
    ∀ e, (s.drive e).request = true → (d - (s.path.last + 1)).val ≤ (e - (s.path.last + 1)).val := by
  rw [State.nextGrantee_eq] at h
  obtain ⟨i, hi, rfl⟩ := Option.map_eq_some_iff.mp h
  refine ⟨List.find?_some (p := fun i => (s.drive (s.path.last + 1 + i)).request) hi, fun e he => ?_⟩
  have hle := find_allDrives_lowest (e := e - (s.path.last + 1)) hi (by simpa only [add_sub_cancel] using he)
  simpa only [add_sub_cancel_left] using Fin.le_def.mp hle

theorem State.nextGrantee_none (s : State) : s.nextGrantee = none ↔ ∀ d, (s.drive d).request = false := by
  rw [State.nextGrantee_eq, Option.map_eq_none_iff, List.find?_eq_none]
  constructor
  · intro h d
    have := h (d - (s.path.last + 1)) (mem_allDrives _)
    simpa only [add_sub_cancel, Bool.not_eq_true] using this
  · intro h i _
    simp [h]

/-! ## Places and misses (R74, R75, R83) -/

theorem State.slotFull_iff (s : State) (oid n : Nat) :
    s.slotFull oid n = true ↔ ∃ i, s.slotOf oid n = some i ∧ (s.wslots.get i).state = .full := by
  unfold State.slotFull
  cases s.slotOf oid n <;> simp

theorem State.placeReady_iff (s : State) (op : Op) (n : Nat) : s.placeReady op n = true ↔ PlaceReady s op n := by
  unfold State.placeReady PlaceReady
  cases op.kind <;> simp [State.slotFull_iff, Ring.full]

theorem State.takePlace_taken (h : op.kind = .read → s.ring.run.length < 24) : PlaceTaken s (s.takePlace op) op where
  read hk := by
    have hn : ¬s.ring.full = true := by simpa [Ring.full] using h hk
    simp only [State.takePlace, hk, State.ringTake, if_neg hn]
    exact ⟨rfl, rfl⟩
  write hk := by
    simp only [State.takePlace, hk, State.setSlotState]
    refine ⟨?_, fun i hi => ?_⟩
    · split <;> rfl
    · rw [hi]
      rfl
  none h1 h2 := by
    unfold State.takePlace
    split <;> first | contradiction | exact ⟨rfl, rfl⟩

theorem PlaceTaken.of_places (h : PlaceTaken s t op) (hp : PlacesWhole t u) : PlaceTaken s u op where
  read hk := ⟨hp.2.trans (h.read hk).1, hp.1.trans (h.read hk).2⟩
  write hk := ⟨hp.1.trans (h.write hk).1, fun i hi => hp.2.trans ((h.write hk).2 i hi)⟩
  none h1 h2 := ⟨hp.1.trans (h.none h1 h2).1, hp.2.trans (h.none h1 h2).2⟩

theorem State.countMiss_counted (s : State) (d : DriveId) (op : Op) : MissCounted s (s.countMiss d op) d op := by
  unfold MissCounted State.countMiss
  cases op.kind <;> simp [DriveTallies.raiseRingMisses, DriveTallies.raiseSlotMisses]

theorem State.countMiss_rest (s : State) (d : DriveId) (op : Op) :
    PlacesWhole s (s.countMiss d op) ∧ (s.countMiss d op).path = s.path := by
  unfold State.countMiss
  split <;> exact ⟨⟨rfl, rfl⟩, rfl⟩

theorem State.request_countMiss (s : State) (d : DriveId) (op : Op) :
    ((s.countMiss d op).drive d).request = (s.drive d).request := by
  unfold State.countMiss
  split <;> simp

/-! ## Grants (R77, log 13) -/

theorem State.actGrant_held (h : s.path.holder.isSome = true) : s.actGrant = none := if_pos h

theorem State.actGrant_ready (hh : s.path.holder = none) (hg : s.nextGrantee = some d) (hc : (s.drive d).cur = some op)
    (hr : PlaceReady s op op.index) : s.actGrant = some (s.grant d op) := by
  simp only [State.actGrant, hh, hg, hc, (s.placeReady_iff op op.index).mpr hr]
  rfl

theorem State.actGrant_missed (hh : s.path.holder = none) (hg : s.nextGrantee = some d) (hc : (s.drive d).cur = some op)
    (hr : ¬PlaceReady s op op.index) :
    s.actGrant = some ((s.modDrive d fun x => { x with request := false }).countMiss d op) := by
  simp only [State.actGrant, hh, hg, hc, mt (s.placeReady_iff op op.index).mp hr]
  rfl

/-- A grant takes the place of its drive's sector, and its transfer waits for that sector. -/
theorem State.grant_taken (hr : PlaceReady s op op.index) : PlaceTaken s (s.grant d op) op ∧
    ((s.grant d op).drive d).request = false ∧ ((s.grant d op).drive d).tally = (s.drive d).tally ∧
    ∃ x, (s.grant d op).path = { holder := some d, last := d, burst := 1, xfer := some x } ∧ x.sector = op.sector ∧
      x.begun = false ∧ x.chained = false := by
  have ht := State.takePlace_taken (s := s.modDrive d fun x => { x with request := false }) (op := op) hr.1
  have hd : (s.grant d op).drive d = { s.drive d with request := false } :=
    (State.drive_eq_of_drives (State.drives_takePlace _ _) d).trans (State.drive_modDrive_self _ _ _)
  exact ⟨⟨ht.read, ht.write, ht.none⟩, by rw [hd], by rw [hd], _, rfl, rfl, rfl, rfl⟩

/-! ## The start of a sector off the path (R75, R76) -/

theorem State.sectorStart_seeker (hc : (s.drive d).cur = some op) (hh : s.path.holder ≠ some d) (n : Nat) :
    s.sectorStart d n = s.seekerStart d op n := by
  simp only [State.sectorStart, hc, if_neg hh]

theorem sectorBefore_iff (sectors w n : Nat) : n = sectorBefore sectors w ↔ (w ≠ 0 ∧ n + 1 = w) ∨ (w = 0 ∧ n = sectors - 1) := by
  unfold sectorBefore
  split <;> omega

theorem State.seekerStart_considers (hr : (s.drive d).request = false) (n : Nat) : s.seekerStart d op n =
    if op.stage = .transfer ∧ n = sectorBefore (s.drive d).sectors op.sector then s.consider d op else s := by
  simp [State.seekerStart, hr]

theorem State.seekerStart_missed (hr : (s.drive d).request = true) : s.seekerStart d op op.sector =
    (s.modDrive d fun x => { x with request := false }).tallyDrive d DriveTallies.raiseArbiterMisses := by
  simp [State.seekerStart, hr]

theorem State.seekerStart_stands (hr : (s.drive d).request = true) {n : Nat} (hn : n ≠ op.sector) : s.seekerStart d op n = s := by
  simp [State.seekerStart, hr, hn]

theorem State.consider_ready (ho : (s.drive d).chan.onCylinder = true) (hr : PlaceReady s op op.index) :
    s.consider d op = s.modDrive d fun x => { x with request := true } := by
  simp [State.consider, ho, (s.placeReady_iff op op.index).mpr hr]

theorem State.consider_missed (ho : (s.drive d).chan.onCylinder = true) (hr : ¬PlaceReady s op op.index) :
    s.consider d op = s.countMiss d op := by
  simp [State.consider, ho, mt (s.placeReady_iff op op.index).mp hr]

theorem State.consider_moving (ho : (s.drive d).chan.onCylinder = false) : s.consider d op = s := by
  simp [State.consider, ho]

theorem State.consider_rest (s : State) (d : DriveId) (op : Op) : PlacesWhole s (s.consider d op) ∧ (s.consider d op).path = s.path := by
  unfold State.consider
  split
  · split
    · exact ⟨⟨rfl, rfl⟩, rfl⟩
    · exact s.countMiss_rest d op
  · exact ⟨⟨rfl, rfl⟩, rfl⟩

theorem State.seekerStart_rest (s : State) (d : DriveId) (op : Op) (n : Nat) :
    PlacesWhole s (s.seekerStart d op n) ∧ (s.seekerStart d op n).path = s.path := by
  unfold State.seekerStart
  split
  · split <;> exact ⟨⟨rfl, rfl⟩, rfl⟩
  · split
    · exact s.consider_rest d op
    · exact ⟨⟨rfl, rfl⟩, rfl⟩

/-! ## The start of a sector on the path (R78, R79, R81) -/

theorem State.sectorStart_holder (hc : (s.drive d).cur = some op) (hh : s.path.holder = some d) (hx : s.path.xfer = some x) (n : Nat) :
    s.sectorStart d n = s.holderStart d op x n := by
  simp only [State.sectorStart, hc, hh, hx, if_true]

/-- The state in which a beginning transfer plans its continuation: one that is a continuation itself has taken its place. -/
def State.placed (s : State) (op : Op) (x : Xfer) : State :=
  if x.chained then { s.takePlace op with path := { s.path with burst := s.path.burst + 1 } } else s

theorem State.drives_placed (s : State) (op : Op) (x : Xfer) : (s.placed op x).drives = s.drives := by
  unfold State.placed
  split
  · exact s.drives_takePlace op
  · rfl

theorem State.path_placed (s : State) (op : Op) (x : Xfer) :
    (s.placed op x).path = { s.path with burst := if x.chained = true then s.path.burst + 1 else s.path.burst } := by
  unfold State.placed
  split <;> rfl

theorem State.placed_taken (hx : x.chained = true) (h : op.kind ≠ .read ∨ s.ring.run.length < 24) : PlaceTaken s (s.placed op x) op := by
  have ht := State.takePlace_taken (s := s) (op := op) fun hk => h.resolve_left (not_not.mpr hk)
  rw [State.placed, if_pos hx]
  exact ⟨ht.read, ht.write, ht.none⟩

/-- R78: the next wanted sector follows below the burst limit, on cylinder. -/
def State.Follows (s : State) (d : DriveId) (op : Op) (burst : Nat) : Prop :=
  op.nextFollows (s.drive d).sectors (s.drive d).chan.pos = true ∧ (s.drive d).chan.onCylinder = true ∧
    burst < (s.drive d).profile.burst

theorem State.planContinuation_planned (hf : s.Follows d op s.path.burst) (hr : PlaceReady s op (op.index + 1)) :
    s.planContinuation d op = (s, true) := by
  obtain ⟨h1, h2, h3⟩ := hf
  simp [State.planContinuation, h1, h2, h3, (s.placeReady_iff op (op.index + 1)).mpr hr]

theorem State.planContinuation_missed (hf : s.Follows d op s.path.burst) (hr : ¬PlaceReady s op (op.index + 1)) :
    s.planContinuation d op = (s.countMiss d op, false) := by
  obtain ⟨h1, h2, h3⟩ := hf
  simp [State.planContinuation, h1, h2, h3, mt (s.placeReady_iff op (op.index + 1)).mp hr]

theorem State.planContinuation_none (hf : ¬s.Follows d op s.path.burst) : s.planContinuation d op = (s, false) := by
  refine if_neg fun h => hf ?_
  simp only [Bool.and_eq_true, decide_eq_true_eq] at h
  exact ⟨h.1.1, h.1.2, h.2⟩

/-- What the plan leaves of the state it is made in, and when a continuation is planned. -/
structure State.Planned (v t : State) (d : DriveId) (op : Op) (burst : Nat) (cont : Bool) : Prop where
  places : PlacesWhole v t
  cont : cont = true ↔ v.Follows d op burst ∧ PlaceReady v op (op.index + 1)
  missed : v.Follows d op burst → ¬PlaceReady v op (op.index + 1) → MissCounted v t d op
  tally : ¬v.Follows d op burst ∨ PlaceReady v op (op.index + 1) → (t.drive d).tally = (v.drive d).tally

theorem State.planContinuation_spec (v : State) (d : DriveId) (op : Op) :
    v.Planned (v.planContinuation d op).1 d op v.path.burst (v.planContinuation d op).2 ∧ (v.planContinuation d op).1.path = v.path := by
  by_cases hf : v.Follows d op v.path.burst
  · by_cases hr : PlaceReady v op (op.index + 1)
    · rw [State.planContinuation_planned hf hr]
      exact ⟨⟨⟨rfl, rfl⟩, by simp [hf, hr], fun _ h => absurd hr h, fun _ => rfl⟩, rfl⟩
    · rw [State.planContinuation_missed hf hr]
      exact ⟨⟨(v.countMiss_rest d op).1, by simp [hr], fun _ _ => v.countMiss_counted d op, fun h => by tauto⟩, (v.countMiss_rest d op).2⟩
  · rw [State.planContinuation_none hf]
    exact ⟨⟨⟨rfl, rfl⟩, by simp [hf], fun h => absurd h hf, fun _ => rfl⟩, rfl⟩

/-- The beginning of a transfer is the plan made past the place taken; the path keeps its holder and its last grantee. -/
theorem State.beginTransfer_planned (s : State) (d : DriveId) (op : Op) (x : Xfer) :
    let burst := if x.chained = true then s.path.burst + 1 else s.path.burst
    ∃ x', (s.beginTransfer d op x).path = { s.path with burst := burst, xfer := some x' } ∧ x'.sector = x.sector ∧ x'.begun = true ∧
      x'.chained = false ∧ (s.placed op x).Planned (s.beginTransfer d op x) d op burst x'.cont := by
  obtain ⟨hp, hpath⟩ := (s.placed op x).planContinuation_spec d op
  have hb := s.path_placed op x
  refine ⟨{ x with
    begun := true, chained := false, cont := ((s.placed op x).planContinuation d op).2, early := none,
    frame := if x.chained then (s.placed op x).frameFor d op else x.frame }, ?_, rfl, rfl, rfl, ?_⟩
  · show ({ ((s.placed op x).planContinuation d op).1.path with xfer := _ } : DataPath) = _
    rw [hpath, hb]
    rfl
  · rw [hb] at hp
    exact ⟨hp.places, hp.cont, hp.missed, hp.tally⟩

/-- R79, log 11: the path given up at another sector's start; the place a grant had taken is given back. -/
theorem State.holderStart_abandons (hb : x.begun = false) {n : Nat} (hn : n ≠ x.sector) (he : op.ended = false) :
    s.holderStart d op x n = s.abandonGrant op x := by
  simp [State.holderStart, hb, hn, he]

theorem State.giveBack_rest (s : State) (op : Op) : (s.giveBack op).path = s.path ∧ (s.giveBack op).drives = s.drives := by
  refine ⟨?_, s.drives_giveBack op⟩
  unfold State.giveBack State.ringBack State.setSlotState
  repeat' split
  all_goals rfl

theorem State.path_abandonGrant (s : State) (op : Op) (x : Xfer) :
    (s.abandonGrant op x).path = { s.path with holder := none, burst := 0, xfer := none } := by
  unfold State.abandonGrant State.release
  split
  · rfl
  · exact congrArg (fun p : DataPath => { p with holder := none, burst := 0, xfer := none }) (s.giveBack_rest op).1

theorem State.drives_abandonGrant (s : State) (op : Op) (x : Xfer) : (s.abandonGrant op x).drives = s.drives := by
  unfold State.abandonGrant
  split
  · rfl
  · exact (s.giveBack_rest op).2

theorem State.giveBack_read {front : List RingSlot} {sl : RingSlot} (hk : op.kind = .read) (hr : s.ring.run = front ++ [sl])
    (hs : sl.state = .filling) : (s.giveBack op).ring.run = front := by
  simp [State.giveBack, hk, State.ringBack, Ring.filling, hr, hs, State.setRun]

theorem State.giveBack_write {i : Fin 8} (hk : op.kind = .write) (hi : s.slotOf op.oid op.index = some i) :
    (s.giveBack op).wslots = s.wslots.set i { s.wslots.get i with state := .full } := by
  simp [State.giveBack, hk, State.setSlotState, hi, State.setWslot]

/-! ## The end of a transfer (R78, R79) -/

/-- The data path takes a content. -/
def State.withPath (s : State) (p : DataPath) : State := { s with path := p }

theorem State.countMiss_withPath (s : State) (p : DataPath) (d : DriveId) (op : Op) :
    (s.withPath p).countMiss d op = (s.countMiss d op).withPath p := by
  unfold State.countMiss
  split <;> rfl

theorem State.takePlace_withPath (s : State) (p : DataPath) (op : Op) :
    (s.withPath p).takePlace op = (s.takePlace op).withPath p := by
  unfold State.takePlace
  split
  · unfold State.ringTake
    rw [show (s.withPath p).ring = s.ring from rfl]
    split <;> rfl
  · unfold State.setSlotState
    rw [show (s.withPath p).slotOf op.oid op.index = s.slotOf op.oid op.index from rfl]
    cases s.slotOf op.oid op.index <;> rfl
  all_goals rfl

theorem State.planContinuation_withPath (s : State) {p : DataPath} (hp : p.burst = s.path.burst) (d : DriveId) (op : Op) :
    (s.withPath p).planContinuation d op = ((s.planContinuation d op).1.withPath p, (s.planContinuation d op).2) := by
  have hb : (s.withPath p).Follows d op (s.withPath p).path.burst ↔ s.Follows d op s.path.burst := by
    rw [← hp]
    rfl
  by_cases hf : s.Follows d op s.path.burst
  · by_cases hr : PlaceReady s op (op.index + 1)
    · rw [State.planContinuation_planned hf hr, State.planContinuation_planned (hb.mpr hf) hr]
    · rw [State.planContinuation_missed hf hr, State.planContinuation_missed (hb.mpr hf) hr, State.countMiss_withPath]
  · rw [State.planContinuation_none hf, State.planContinuation_none (mt hb.mp hf)]

/-- A continuation begins alike whatever transfer the path names before it. -/
theorem State.beginTransfer_withXfer (s : State) (d : DriveId) (op : Op) (hx : x.chained = true) (y : Option Xfer) :
    (s.withPath { s.path with xfer := y }).beginTransfer d op x = s.beginTransfer d op x := by
  have hv : (s.withPath { s.path with xfer := y }).placed op x = (s.placed op x).withPath { (s.placed op x).path with xfer := y } := by
    unfold State.placed
    rw [if_pos hx, if_pos hx, State.takePlace_withPath]
    rfl
  have hplan := State.planContinuation_withPath (s.placed op x) (p := { (s.placed op x).path with xfer := y }) rfl d op
  have hpath := ((s.placed op x).planContinuation_spec d op).2
  have heq : ∀ v : State, v.beginTransfer d op x = ((v.placed op x).planContinuation d op).1.withPath
      { ((v.placed op x).planContinuation d op).1.path with
        xfer := some { x with
          begun := true, chained := false, cont := ((v.placed op x).planContinuation d op).2, early := none,
          frame := if x.chained then (v.placed op x).frameFor d op else x.frame } } := fun _ => rfl
  rw [heq, heq, hv, hplan, hpath]
  rfl

/-- R78: the holder goes on with its continuation. -/
def GoesOn (op : Op) (x : Xfer) (good : Bool) : Prop :=
  x.cont = true ∧ good = true ∧ op.ended = false ∧ op.stage = .transfer ∧ op.sector = x.sector + 1 ∧ op.ladder = none

/-- The continuation the path is kept for: the transfer of the operation's wanted sector. -/
def Op.continuation (op : Op) : Xfer :=
  { sector := op.sector, begun := false, chained := true, cont := false, early := none, frame := none }

theorem State.afterTransfer_eq (hc : (s.drive d).cur = some op) (x : Xfer) (good : Bool) [Decidable (GoesOn op x good)] :
    s.afterTransfer d x good = if GoesOn op x good then
      match x.early with
      | none => s.withPath { s.path with xfer := some op.continuation }
      | some n => if n = op.sector then s.beginTransfer d op op.continuation else s.release
    else s.release := by
  simp only [State.afterTransfer, hc]
  refine if_congr ?_ rfl rfl
  simp [GoesOn, and_assoc]

/-! ## The statement clause by clause -/

/-- R77, log 13: the free path and its next grantee: a grant with the place ready, and else a request withdrawn and a miss counted. -/
theorem State.actGrant_outcome (hh : s.path.holder = none) (hg : s.nextGrantee = some d) (hc : (s.drive d).cur = some op) :
    ∃ t, s.actGrant = some t ∧ (t.drive d).request = false ∧
      (PlaceReady s op op.index → PlaceTaken s t op ∧ (t.drive d).tally = (s.drive d).tally ∧
        ∃ x, t.path = { holder := some d, last := d, burst := 1, xfer := some x } ∧ x.sector = op.sector ∧ x.begun = false ∧
          x.chained = false) ∧
      (¬PlaceReady s op op.index → PlacesWhole s t ∧ t.path = s.path ∧ MissCounted s t d op) := by
  by_cases hr : PlaceReady s op op.index
  · obtain ⟨ht, hq, hy, hp⟩ := State.grant_taken (d := d) hr
    exact ⟨_, State.actGrant_ready hh hg hc hr, hq, fun _ => ⟨ht, hy, hp⟩, fun h => absurd hr h⟩
  · obtain ⟨hp, hpath⟩ := (s.modDrive d fun x => { x with request := false }).countMiss_rest d op
    refine ⟨_, State.actGrant_missed hh hg hc hr, ?_, fun h => absurd h hr, fun _ => ⟨hp, hpath, ?_⟩⟩
    · rw [State.request_countMiss, State.drive_modDrive_self]
    · simpa [MissCounted] using (s.modDrive d fun x => { x with request := false }).countMiss_counted d op

/-- R75: at the sector before the one wanted a drive on cylinder asks for the path, or counts its miss. -/
theorem State.seekerStart_asks (hq : (s.drive d).request = false) (hs : op.stage = .transfer)
    (ho : (s.drive d).chan.onCylinder = true) :
    let t := s.seekerStart d op (sectorBefore (s.drive d).sectors op.sector)
    (PlaceReady s op op.index → (t.drive d).request = true ∧ (t.drive d).tally = (s.drive d).tally) ∧
      (¬PlaceReady s op op.index → (t.drive d).request = false ∧ MissCounted s t d op) := by
  dsimp only
  rw [State.seekerStart_considers hq, if_pos ⟨hs, rfl⟩]
  refine ⟨fun hr => ?_, fun hr => ?_⟩
  · rw [State.consider_ready ho hr, State.drive_modDrive_self]
    exact ⟨rfl, rfl⟩
  · rw [State.consider_missed ho hr]
    exact ⟨(s.request_countMiss d op).trans hq, s.countMiss_counted d op⟩

/-- R75: nothing is asked for outside the transfer, at another sector or off the cylinder. -/
theorem State.seekerStart_waits (hq : (s.drive d).request = false) {n : Nat}
    (h : op.stage ≠ .transfer ∨ n ≠ sectorBefore (s.drive d).sectors op.sector ∨ (s.drive d).chan.onCylinder = false) :
    s.seekerStart d op n = s := by
  rw [State.seekerStart_considers hq]
  split
  · next hb => exact State.consider_moving ((h.resolve_left (not_not.mpr hb.1)).resolve_left (not_not.mpr hb.2))
  · rfl

/-- R76: a request still standing at the wanted sector is withdrawn and counted. -/
theorem State.seekerStart_withdraws (hq : (s.drive d).request = true) :
    let t := s.seekerStart d op op.sector
    (t.drive d).request = false ∧
      (t.drive d).tally = { (s.drive d).tally with arbiterMisses := bump (s.drive d).tally.arbiterMisses } := by
  dsimp only
  rw [State.seekerStart_missed hq]
  simp [DriveTallies.raiseArbiterMisses]

/-- R74, R78, logs 12 and 39: a transfer begins with its sector, a continuation takes its place, and the next one is planned or missed. -/
theorem State.beginTransfer_runs (s : State) (d : DriveId) (op : Op) (x : Xfer) :
    let t := s.beginTransfer d op x
    let burst := if x.chained = true then s.path.burst + 1 else s.path.burst
    (∃ x', t.path = { s.path with burst := burst, xfer := some x' } ∧ x'.sector = x.sector ∧ x'.begun = true ∧ x'.chained = false ∧
      (x'.cont = true ↔ s.Follows d op burst ∧ PlaceReady t op (op.index + 1))) ∧
    (x.chained = false → PlacesWhole s t) ∧
    (x.chained = true → op.kind ≠ .read ∨ s.ring.run.length < 24 → PlaceTaken s t op) ∧
    (s.Follows d op burst → ¬PlaceReady t op (op.index + 1) → MissCounted s t d op) ∧
    (¬s.Follows d op burst ∨ PlaceReady t op (op.index + 1) → (t.drive d).tally = (s.drive d).tally) := by
  dsimp only
  obtain ⟨x', hpath, h1, h2, h3, hplan⟩ := s.beginTransfer_planned d op x
  have hdrive : (s.placed op x).drive d = s.drive d := State.drive_eq_of_drives (s.drives_placed op x) d
  have hfollows : ∀ b, (s.placed op x).Follows d op b ↔ s.Follows d op b := fun b => by simp only [State.Follows, hdrive]
  have hready : PlaceReady (s.beginTransfer d op x) op (op.index + 1) ↔ PlaceReady (s.placed op x) op (op.index + 1) := by
    unfold PlaceReady State.slotOf
    rw [hplan.places.1, hplan.places.2]
  refine ⟨⟨x', hpath, h1, h2, h3, by rw [hready, hplan.cont, hfollows]⟩, fun hx => ?_, fun hx h => ?_, fun hf h => ?_, fun h => ?_⟩
  · have hp := hplan.places
    rwa [show s.placed op x = s from if_neg (by simp [hx])] at hp
  · exact (State.placed_taken hx h).of_places hplan.places
  · have hm := hplan.missed ((hfollows _).mpr hf) (mt hready.mpr h)
    rwa [MissCounted, hdrive] at hm
  · rw [hplan.tally (h.imp (mt (hfollows _).mp) hready.mp), hdrive]

/-- R79, log 11: a granted transfer given up leaves the path free and gives its place back; a continuation had taken none. -/
theorem State.abandonGrant_gives (s : State) (op : Op) (x : Xfer) :
    let t := s.abandonGrant op x
    (x.chained = true → PlacesWhole s t) ∧
    (x.chained = false →
      (∀ front sl, op.kind = .read → s.ring.run = front ++ [sl] → sl.state = .filling → t.ring.run = front) ∧
      ∀ i, op.kind = .write → s.slotOf op.oid op.index = some i → t.wslots = s.wslots.set i { s.wslots.get i with state := .full }) := by
  dsimp only
  unfold State.abandonGrant
  refine ⟨fun hx => ?_, fun hx => ?_⟩
  · rw [if_pos hx]
    exact ⟨rfl, rfl⟩
  · rw [if_neg (by simp [hx])]
    exact ⟨fun _ _ => State.giveBack_read, fun _ => State.giveBack_write⟩

/-- R78: a continuation whose sector has started already begins at once. -/
theorem State.continuation_begins (hc : (s.drive d).cur = some op) (hh : s.path.holder = some d) :
    (if op.sector = op.sector then s.beginTransfer d op op.continuation else s.release) =
      (s.withPath { s.path with xfer := some op.continuation }).sectorStart d op.sector :=
  calc (if op.sector = op.sector then s.beginTransfer d op op.continuation else s.release)
      = s.beginTransfer d op op.continuation := if_pos rfl
    _ = (s.withPath { s.path with xfer := some op.continuation }).beginTransfer d op op.continuation :=
        (s.beginTransfer_withXfer d op rfl _).symm
    _ = (s.withPath { s.path with xfer := some op.continuation }).holderStart d op op.continuation op.sector := (if_pos rfl).symm
    _ = (s.withPath { s.path with xfer := some op.continuation }).sectorStart d op.sector :=
        (State.sectorStart_holder (s := s.withPath { s.path with xfer := some op.continuation }) hc hh rfl op.sector).symm

/-- Settles O37: the search for the next grantee, the grant, a sector's start off and on the path, and the end of a transfer. -/
theorem dataPathRuns : Obligations.DataPathRuns := by
  unfold Obligations.DataPathRuns
  refine ⟨fun s => ⟨fun d => State.nextGrantee_some, s.nextGrantee_none⟩,
    fun s d op hg hc => ⟨State.actGrant_held, fun hh => State.actGrant_outcome hh hg hc⟩,
    fun s d op n hc hh => ?_, fun s d op x n hc hh hx => ?_, fun s d op x good hc hh => ?_⟩
  · dsimp only
    rw [State.sectorStart_seeker hc hh, ← sectorBefore_iff]
    obtain ⟨hp, hpath⟩ := s.seekerStart_rest d op n
    refine ⟨hp, hpath, fun hq => ⟨fun hs hn ho => ?_, State.seekerStart_waits hq⟩, fun hq => ⟨fun hn => ?_, State.seekerStart_stands hq⟩⟩
    · rw [hn]
      exact State.seekerStart_asks hq hs ho
    · rw [hn]
      exact State.seekerStart_withdraws hq
  · dsimp only
    rw [State.sectorStart_holder hc hh hx]
    refine ⟨fun hb => if_pos hb, fun hb hn => ?_, fun hb hn he => ?_⟩
    · have ht : s.holderStart d op x n = s.beginTransfer d op x := by simp [State.holderStart, hb, hn]
      rw [ht]
      exact s.beginTransfer_runs d op x
    · rw [State.holderStart_abandons hb hn he, State.drive_eq_of_drives (s.drives_abandonGrant op x)]
      exact ⟨s.path_abandonGrant op x, hc, s.abandonGrant_gives op x⟩
  · classical
    dsimp only
    rw [State.afterTransfer_eq hc x good]
    refine ⟨fun h => ?_, fun hg he => ?_, fun hg he => ?_⟩
    · by_cases hg : GoesOn op x good
      · obtain ⟨n, he, hn⟩ := h.resolve_left (not_not.mpr hg)
        rw [if_pos hg, he]
        exact if_neg hn
      · rw [if_neg hg]
        rfl
    · rw [if_pos (show GoesOn op x good from hg), he]
      rfl
    · rw [if_pos (show GoesOn op x good from hg), he]
      exact State.continuation_begins hc hh

end Sys2Proof.Machine
end


section
/-! What the immediate actions leave of a port that holds no
order, and of an order that no slot holds (R100, R127, R128, R159). -/

namespace Sys2Proof.Machine

-- One declaration after the other: in parallel the one compile of the whole text runs out of threads.
set_option Elab.async false

variable {s t u : State} {d e : DriveId} {op : Op} {m : Byte} {n : Nat} {p : Port} {l : List Nat}

/-! ## The start of work (R100, R101, R128) -/

/-- A drive has nothing to do with an order: not in its queue, and not under its current operation. -/
structure Drive.Shuns (n : Nat) (x : Drive) : Prop where
  queue : n ∉ x.queue
  cur : ∀ op, x.cur = some op → op.kind.hostOrdered = true → op.oid ≠ n

/-- What the start of work on a drive that shuns an order comes to: the pending notices are as they were, but for the kinds of `m`, and
the drive still shuns the order. -/
structure Starts (m : Byte) (n : Nat) (d : DriveId) (s t : State) : Prop where
  notices : ∀ p k, (t.port p).notices.get k &&& ~~~m = (s.port p).notices.get k &&& ~~~m
  shuns : (t.drive d).Shuns n

theorem Starts.refl (h : (s.drive d).Shuns n) : Starts m n d s s := ⟨fun _ _ => rfl, h⟩

theorem Starts.rest (h : Starts m n d s t) (k : NoticesKept t u) (hd : u.drives = t.drives) : Starts m n d s u :=
  ⟨fun p i => by rw [(k p).1]; exact h.notices p i, by rw [State.drive_eq_of_drives hd]; exact h.shuns⟩

theorem Starts.modDrive (h : Starts m n d s t) (f : Drive → Drive) (hf : (t.drive d).Shuns n → (f (t.drive d)).Shuns n) :
    Starts m n d s (t.modDrive d f) := ⟨h.notices, by rw [State.drive_modDrive_self]; exact hf h.shuns⟩

theorem Starts.same (h : Starts m n d s t) (f : Drive → Drive) (hq : ∀ x, (f x).queue = x.queue := by intro _; rfl)
    (hc : ∀ x, (f x).cur = x.cur := by intro _; rfl) : Starts m n d s (t.modDrive d f) :=
  h.modDrive f fun hs => ⟨by rw [hq]; exact hs.queue, by rw [hc]; exact hs.cur⟩

theorem Starts.setCur (h : Starts m n d s t) (f : Drive → Drive) (op : Op) (ho : op.kind.hostOrdered = true → op.oid ≠ n)
    (hq : ∀ x, (f x).queue = x.queue := by intro _; rfl) (hc : ∀ x, (f x).cur = some op := by intro _; rfl) :
    Starts m n d s (t.modDrive d f) :=
  h.modDrive f fun hs => ⟨by rw [hq]; exact hs.queue, fun op' h' => by rw [hc] at h'; cases h'; exact ho⟩

theorem Starts.modOp (h : Starts m n d s t) (f : Op → Op) (hf : ∀ o, (f o).kind = o.kind ∧ (f o).oid = o.oid := by intro _; exact ⟨rfl, rfl⟩) :
    Starts m n d s (t.modOp d f) := by
  refine h.modDrive _ fun hs => ⟨hs.queue, fun op' h' hk => ?_⟩
  obtain ⟨o, ho, rfl⟩ := Option.map_eq_some_iff.mp h'
  rw [(hf o).2]
  exact hs.cur o ho ((hf o).1 ▸ hk)

theorem Starts.setOp (h : Starts m n d s t) {op : Op} (ho : op.kind.hostOrdered = true → op.oid ≠ n) : Starts m n d s (t.setOp d op) :=
  h.setCur _ op ho

theorem Starts.endOrder (h : Starts m n d s t) (i : Nat) (r : Result) : Starts m n d s (t.endOrder i r) :=
  h.rest ((NoticesKept.refl t).endOrder i r) (State.drives_endOrder _ _ _)

theorem Starts.endOrders (h : Starts m n d s t) (e : DriveId) (q : Order → Bool) (r : Result) : Starts m n d s (t.endOrders e q r) := by
  unfold State.endOrders
  generalize t.ordersOf e q = l
  induction l generalizing t with
  | nil => exact h
  | cons i l ih => exact ih (h.endOrder i r)

theorem Starts.clearOp (h : Starts m n d s t) : Starts m n d s (t.clearOp d) := by
  refine ⟨fun p k => ?_, ?_⟩
  · rw [((NoticesKept.refl t).clearOp d p).1]
    exact h.notices p k
  · rw [State.drive_clearOp, if_pos rfl]
    exact ⟨h.shuns.queue, fun _ hc => absurd hc (Option.some_ne_none _).symm⟩

theorem Starts.reachTransfer (h : Starts m n d s t) : Starts m n d s (t.reachTransfer d) := by
  unfold State.reachTransfer
  split
  · exact h
  · next op ho =>
    have h1 : Starts m n d s (t.modDrive d fun x => { x with headSel := op.phys.head, cur := some { op with stage := .transfer } }) :=
      h.setCur _ { op with stage := .transfer } (h.shuns.cur op ho)
    dsimp only
    split
    · exact h1.clearOp.endOrder _ _
    · exact h1

theorem Starts.recalFor (h : Starts m n d s t) (next : Option Nat) : Starts m n d s (t.recalFor d next) := by
  unfold State.recalFor
  split
  · exact h.modOp _
  · split
    · exact h
    · exact Starts.modOp (h.same _) _

theorem Starts.beginSeek (h : Starts m n d s t) (c : Nat) (g : Goal) : Starts m n d s (t.beginSeek d c g) := by
  unfold State.beginSeek
  exact Starts.modOp (Starts.same (h.same _) _) _

theorem Starts.seekTo (h : Starts m n d s t) (c : Nat) : Starts m n d s (t.seekTo d c) := by
  unfold State.seekTo
  dsimp only
  split
  · exact h.modOp _
  · split
    · split
      · exact Starts.reachTransfer (h.same _)
      · exact h.beginSeek _ _
    · exact h.recalFor _

theorem Starts.startMapLoad (h : Starts m n d s t) : Starts m n d s (t.startMapLoad d) := by
  unfold State.startMapLoad
  split
  · exact h
  · exact (h.setOp fun hk => Bool.noConfusion hk).seekTo _

theorem State.bindCommits_kept (s : State) (d : DriveId) : NoticesKept s (s.bindCommits d) ∧ (s.bindCommits d).drives = s.drives := by
  refine ⟨NoticesKept.foldl _ (fun _ _ h => h.modOrder _ _) _ (.refl s), ?_⟩
  unfold State.bindCommits
  generalize (s.ordersOf d fun o => o.kind = .commitMap) = l
  induction l generalizing s with
  | nil => rfl
  | cons i l ih => exact ih _

theorem Starts.startMapWrite (h : Starts m n d s t) : Starts m n d s (t.startMapWrite d) := by
  unfold State.startMapWrite
  split
  · exact h
  · next g _ =>
    obtain ⟨hk, hd⟩ := t.bindCommits_kept d
    exact Starts.seekTo ((h.rest hk hd).setCur _ { Op.internal .mapWrite g.mapTrack g.mapTrack .map .write with
      record := some (composeRecord g (t.drive d)) } fun hk => Bool.noConfusion hk) _

theorem Starts.startHost (h : Starts m n d s t) (p : Port) {o : Order} (ho : o.oid ≠ n) : Starts m n d s (t.startHost d p o) :=
  (h.setOp fun _ => ho).seekTo _

theorem Starts.startSurface (h : Starts m n d s t) (p : Port) {o : Order} (ho : o.oid ≠ n) : Starts m n d s (t.startSurface d p o) := by
  unfold State.startSurface
  split
  · exact h
  · refine Starts.seekTo (Starts.setOp ?_ ?_) _
    · exact h.rest (NoticesKept.refl t).rest rfl
    · exact fun _ => ho

theorem Drive.queue_beginSparing (x : Drive) (home : Track) (pos : Nat) : (x.beginSparing home pos).queue = x.queue := by
  unfold Drive.beginSparing Drive.markTrack Drive.addEntry Drive.modEntry
  dsimp only
  repeat' split
  all_goals rfl

/-- R128: the notice of a REASSIGN that finds no FREE position is REASSIGN FAILED. -/
theorem notices_addNotice (c : PortCtl) (d : DriveId) (kind : Byte) (k : Fin 8) :
    (c.addNotice d kind).notices.get k &&& ~~~kind = c.notices.get k &&& ~~~kind := by
  have hb : ∀ x y : Byte, (x ||| y) &&& ~~~y = x &&& ~~~y := fun x y => by
    ext i hi
    cases hx : x[i] <;> simp [hx]
  unfold PortCtl.addNotice
  rw [Oct.get_of]
  split
  · exact hb _ _
  · rfl

theorem Starts.reassignStuck (h : Starts noticeReassignFailed n d s t) (i : Nat) (w : WatchEntry) :
    Starts noticeReassignFailed n d s (t.reassignStuck d i w) := by
  unfold State.reassignStuck State.endWaiting State.countReassignFailure
  have h1 : Starts noticeReassignFailed n d s ((t.setWatch i { w with state := .stuck }).tallyDrive d DriveTallies.raiseReassignFailures) :=
    (h.rest (u := t.setWatch i { w with state := .stuck }) (NoticesKept.refl t).rest rfl).same fun x =>
      { x with tally := x.tally.raiseReassignFailures }
  generalize (t.setWatch i { w with state := .stuck }).tallyDrive d DriveTallies.raiseReassignFailures = v at h1 ⊢
  have h2 : Starts noticeReassignFailed n d s (v.setNotice d noticeReassignFailed) :=
    ⟨fun p k => (congrArg (fun c : PortCtl => c.notices.get k &&& ~~~noticeReassignFailed) (Quad.get_map _ _ _)).trans
      ((notices_addNotice _ _ _ _).trans (h1.notices p k)), h1.shuns⟩
  exact (h2.endOrders d _ _).rest (NoticesKept.refl _).rest rfl

theorem Starts.reassignBegin (h : Starts m n d s t) (i : Nat) (w : WatchEntry) (pos : Nat) :
    Starts m n d s (t.reassignBegin d i w pos) := by
  unfold State.reassignBegin
  have h1 : Starts m n d s (t.modDrive d fun x => (x.beginSparing w.home pos).mapChanged) :=
    h.same _ (fun x => x.queue_beginSparing _ _) fun x => (Drive.Still.beginSparing x _ _).cur
  refine Starts.seekTo (Starts.setOp ?_ ?_) _
  · exact h1.rest (NoticesKept.refl _).rest rfl
  · exact fun hk => Bool.noConfusion hk

/-- R128: a REASSIGN sets REASSIGN FAILED at most, and nothing while the engine has taken no entry. -/
theorem Starts.startReassign (h : Starts m n d s t) (hm : m = noticeReassignFailed ∨ t.reassign.state ≠ .taken) :
    Starts m n d s (t.startReassign d) := by
  unfold State.startReassign
  split
  · next htk _ =>
    obtain rfl : m = noticeReassignFailed := hm.resolve_right fun hn => hn htk
    split
    · exact h.rest (NoticesKept.refl t).rest rfl
    · split
      · exact h.reassignStuck _ _
      · exact h.reassignBegin _ _ _
  · exact h

theorem Starts.startInternal (h : Starts m n d s t) (k : OpKind) (hm : m = noticeReassignFailed ∨ t.reassign.state ≠ .taken) :
    Starts m n d s (t.startInternal d k) := by
  cases k <;> simp only [State.startInternal]
  case recalibrate => exact Starts.recalFor (Starts.setOp (h.same _) fun hk => Bool.noConfusion hk) _
  case mapLoad => exact Starts.startMapLoad (h.same _)
  case mapWrite => exact Starts.startMapWrite (h.same _)
  case reassign => exact Starts.startReassign (h.same _) hm
  all_goals exact h

theorem State.passOver_kept (s : State) (es : List (Port × Order)) (i : Nat) : NoticesKept s (s.passOver es i) :=
  NoticesKept.foldl _ (fun _ _ h => h.modOrder _ _) _ (.refl s)

/-- R100: the entry a selection takes is in the drive's queue. -/
theorem State.eligibleEntries_queue {c : Port × Order} (h : c ∈ s.eligibleEntries d) : c.2.oid ∈ (s.drive d).queue :=
  (s.eligible_numbers d).subset (List.mem_map_of_mem h)

theorem Starts.takeEntry (h : (s.drive d).Shuns n) {es : List (Port × Order)} {c : Choice} (hc : c.entry.2.oid ≠ n) :
    Starts m n d s (s.takeEntry d es c) := by
  have h0 : Starts m n d s (if c.passes then s.passOver es c.entry.2.oid else s) := by
    split
    · exact ⟨fun p k => by rw [(s.passOver_kept es _ p).1], by rw [State.drive_passOver]; exact h⟩
    · exact .refl h
  have h1 : Starts m n d s (s.taken d es c) := by
    refine Starts.rest (h0.modDrive (fun x =>
      { x with queue := x.queue.filter fun i => i ≠ c.entry.2.oid, sweepIn := c.sweepIn }) fun hs => ?_) ((NoticesKept.refl _).modOrder _ _) rfl
    exact ⟨fun hm => hs.queue (List.mem_of_mem_filter hm), hs.cur⟩
  have he : s.takeEntry d es c = if c.entry.2.kind = .surfaceVerify then (s.taken d es c).startSurface d c.entry.1 c.entry.2
      else (s.taken d es c).startHost d c.entry.1 c.entry.2 := rfl
  rw [he]
  split
  · exact h1.startSurface _ hc
  · exact h1.startHost _ hc

/-- R100: a selection takes up no order that is not in the queue, and sets REASSIGN FAILED at most. -/
theorem Starts.select (h : s.select d = some t) (hq : n ∉ (s.drive d).queue) (hm : m = noticeReassignFailed ∨ s.reassign.state ≠ .taken) :
    Starts m n d s t := by
  have hs : (s.drive d).Shuns n := ⟨hq, fun op ho => absurd (ho.symm.trans (State.select_idle h)) (Option.some_ne_none _)⟩
  cases hi : (s.drive d).nextInternal with
  | some k =>
    unfold State.select at h
    rw [hi] at h
    split at h
    · cases h
    · cases h
      exact (Starts.refl hs).startInternal k hm
  | none =>
    obtain ⟨c, hc, rfl⟩ := State.select_entry h hi
    exact Starts.takeEntry hs fun heq => hq (heq ▸ State.eligibleEntries_queue (State.chooseEntry_mem hc))

end Sys2Proof.Machine
end


section
/-! What settling leaves of an order that no slot holds, and of a
port that holds no order (R87, R93, R100, R127, R153, R159). -/

namespace Sys2Proof.Machine

-- One declaration after the other: in parallel the one compile of the whole text runs out of threads.
set_option Elab.async false

variable {s t u : State} {d e : DriveId} {op : Op} {m : Byte} {n : Nat} {p : Port} {l : List Nat}

/-! ## The orders an action speaks of are held in slots -/

theorem State.slot_of_findOrder {c : Port × Order} (h : s.findOrder n = some c) : ∃ g, (s.port c.1).slots.get g = some c.2 :=
  State.mem_orderList.mp (List.mem_of_find?_eq_some h)

/-- R93: a write slot is given to an order that a slot holds. -/
theorem State.actSlots_order (h : s.actSlots = some t) :
    (∃ (i : Fin 8) (c : Port × Order) (g : Tag), (s.port c.1).slots.get g = some c.2 ∧ t = s.giveSlot i c.1 c.2) ∨
      ∃ w, t = { s with waitList := w } := by
  unfold State.actSlots at h
  split at h
  · cases h
  · next c hc =>
    split at h
    · cases h
      obtain ⟨d, -, hd⟩ := List.exists_of_findSome?_eq_some hc
      unfold State.newlyWanting at hd
      split at hd
      · cases hd
      · split at hd
        · obtain ⟨g, hg⟩ := State.slot_of_findOrder (Option.filter_eq_some_iff.mp hd).1
          exact .inl ⟨_, c, g, hg, rfl⟩
        · cases hd
    · cases h
      exact .inr ⟨_, rfl⟩

/-- R153: an ENDING is queued at the port whose slot holds the order. -/
theorem State.actEnding_order (h : s.actEnding = some t) :
    (∃ l, t = { s with closing := l }) ∨
      ∃ (c : Port × Order) (g : Tag) (r : Result), (s.port c.1).slots.get g = some c.2 ∧ t = s.queueEnding c.1 c.2 r := by
  unfold State.actEnding at h
  split at h
  · obtain ⟨i, -, h⟩ := List.exists_of_findSome?_eq_some h
    obtain ⟨c, hc, h⟩ := Option.bind_eq_some_iff.mp h
    obtain ⟨r, -, rfl⟩ := Option.map_eq_some_iff.mp h
    obtain ⟨g, hg⟩ := State.slot_of_findOrder hc
    exact .inr ⟨c, g, r, hg, rfl⟩
  · cases h
    exact .inl ⟨_, rfl⟩

/-! ## An order that no slot holds -/

/-- What is left of an order whose slot is gone: no queue has it, and its write slots are those of a transfer. -/
structure State.Rid (n : Nat) (s : State) : Prop where
  slots : ∀ p g o, (s.port p).slots.get g = some o → o.oid ≠ n
  queues : ∀ d, n ∉ (s.drive d).queue
  wslots : ∀ i, (s.wslots.get i).oid = n → (s.wslots.get i).state = .writing ∨ (s.wslots.get i).state = .free

/-- R95: a grant leaves every write slot, but for one that goes WRITING. -/
theorem State.wslots_takePlace (s : State) (op : Op) (i : Fin 8) :
    (s.takePlace op).wslots.get i = s.wslots.get i ∨
      ((s.takePlace op).wslots.get i).state = .writing := by
  unfold State.takePlace
  split
  · unfold State.ringTake
    split <;> exact .inl rfl
  · unfold State.setSlotState
    split
    · next j _ =>
      by_cases hij : i = j
      · subst hij
        exact .inr (congrArg WriteSlot.state (Oct.get_set_self _ _ _))
      · exact .inl (Oct.get_set_ne _ _ hij)
    · exact .inl rfl
  all_goals exact .inl rfl

/-- The write slots an action leaves: those it found, a slot given to an order held, or one that goes WRITING. -/
theorem State.act_wslots (h : s.act = some t) (i : Fin 8) :
    t.wslots.get i = s.wslots.get i ∨ (t.wslots.get i).state = .writing ∨
      ∃ p g o, (s.port p).slots.get g = some o ∧ (t.wslots.get i).oid = o.oid := by
  have of_base : t.base = s.base → t.wslots.get i = s.wslots.get i := fun hb =>
    congrArg (fun w : Oct WriteSlot => w.get i) (congrArg (fun x => x.2.2) (State.store_of_base hb))
  rcases State.act_cases h with h | h | h | h | h | h | h | h | h | h
  · obtain ⟨_, _, _, _, rfl⟩ := State.actBoundary_eq h; exact .inl rfl
  · obtain ⟨_, _, rfl⟩ := State.actOffer_eq h; exact .inl rfl
  · obtain ⟨j, c, g, hg, rfl⟩ | ⟨_, rfl⟩ := State.actSlots_order h
    · by_cases hij : i = j
      · subst hij
        exact .inr (.inr ⟨c.1, g, c.2, hg, congrArg WriteSlot.oid (Oct.get_set_self _ _ _)⟩)
      · exact .inl (Oct.get_set_ne _ _ hij)
    · exact .inl rfl
  · obtain ⟨_, rfl⟩ := State.actFence_eq h; exact .inl (of_base (State.base_endOrder _ _ _))
  · obtain ⟨_, rfl⟩ | ⟨_, _, _, rfl⟩ := State.actEnding_eq h <;> exact .inl rfl
  · obtain ⟨_, _, rfl⟩ := State.actCandidate_eq h
    unfold State.takeCandidate
    split <;> exact .inl rfl
  · obtain ⟨_, h⟩ := State.actSelect_eq h; exact .inl (of_base (State.base_select h))
  · obtain ⟨_, d, rfl | ⟨op, _, ⟨_, rfl⟩ | rfl⟩⟩ := State.actGrant_eq h
    · exact .inl rfl
    · exact (State.wslots_takePlace (s.modDrive d fun x => { x with request := false }) op i).imp id .inl
    · unfold State.countMiss
      split <;> exact .inl rfl
  · obtain ⟨_, _, rfl⟩ := State.actSpin_eq h; exact .inl rfl
  · obtain ⟨_, _, h⟩ := State.actSend_eq h
    cases h <;> exact .inl rfl

/-- R100: an action other than a selection leaves the queue and the current operation of a drive, and a selection takes up no order
that is not in the queue. -/
theorem State.act_shuns (h : s.act = some t) (hq : n ∉ (s.drive d).queue) :
    n ∉ (t.drive d).queue ∧ ((s.drive d).Shuns n → (t.drive d).Shuns n) := by
  have same : (t.drive d).queue = (s.drive d).queue → (t.drive d).cur = (s.drive d).cur →
      n ∉ (t.drive d).queue ∧ ((s.drive d).Shuns n → (t.drive d).Shuns n) := fun h1 h2 =>
    ⟨by rwa [h1], fun hs => ⟨by rwa [h1], by rw [h2]; exact hs.cur⟩⟩
  rcases State.act_drives h with hd | ⟨e, hd⟩ | ⟨e, hsel⟩ | ⟨e, f, hd⟩ | ⟨e, -, rfl⟩
  · refine same ?_ ?_ <;> rw [State.drive_eq_of_drives hd]
  · refine same ?_ ?_ <;> rw [State.drive_eq_of_drives hd, State.drive_modDrive] <;> split <;> rfl
  · by_cases hde : d = e
    · subst hde
      have hs := (Starts.select (m := noticeReassignFailed) hsel hq (.inl rfl)).shuns
      exact ⟨hs.queue, fun _ => hs⟩
    · refine same ?_ ?_ <;> rw [State.drive_of_others (State.others_select hsel) hde]
  · refine same ?_ ?_ <;> rw [State.drive_eq_of_drives hd, State.drive_modDrive] <;> split <;> rfl
  · unfold State.enterSpinningUp at same ⊢
    rw [State.setDriveState_toState, State.modDrive_modDrive, State.drive_modDrive] at same ⊢
    refine same ?_ ?_ <;> split <;> rfl

theorem State.Rid.act (h : s.Rid n) (hs : s.act = some t) : t.Rid n where
  slots p g o ho := by
    obtain ⟨o', ho', hoid, -⟩ := OrdersFrom.act hs p g o ho
    exact hoid ▸ h.slots p g o' ho'
  queues d := (State.act_shuns hs (h.queues d)).1
  wslots i hi := by
    rcases State.act_wslots hs i with hw | hw | ⟨p, g, o, ho, hw⟩
    · rw [hw] at hi ⊢
      exact h.wslots i hi
    · exact .inl hw
    · exact absurd (hw.symm.trans hi) (h.slots p g o ho)

/-- The immediate actions bring nothing back of an order that no slot holds. -/
theorem State.Rid.settle (h : s.Rid n) (k : Nat) :
    (settle k s).Rid n ∧ ∀ d, (s.drive d).Shuns n → ((settle k s).drive d).Shuns n :=
  settle_rel (P := fun u v => u.Rid n → v.Rid n ∧ ∀ d, (u.drive d).Shuns n → (v.drive d).Shuns n)
    (fun _ hu => ⟨hu, fun _ => id⟩)
    (fun _ _ _ h1 h2 hu => ⟨(h2 (h1 hu).1).1, fun d hd => (h2 (h1 hu).1).2 d ((h1 hu).2 d hd)⟩)
    (fun _ _ hs hu => ⟨hu.act hs, fun d => (State.act_shuns hs (hu.queues d)).2⟩) k s h

/-! ## An engine with nothing to take -/

/-- R127: the reassignment engine copies, or is FREE with no entry it may take. -/
def State.EngineStill (s : State) : Prop :=
  s.reassign.state = .copying ∨ (s.reassign.state = .free ∧ ∀ e : WatchEntry, .entry e ∈ s.watch → s.eligible e = false)

theorem State.EngineStill.untaken (h : s.EngineStill) : s.reassign.state ≠ .taken := by
  rcases h with h | ⟨h, -⟩ <;> rw [h] <;> decide

theorem State.EngineStill.not_candidate (h : s.EngineStill) : s.actCandidate = none := by
  unfold State.actCandidate
  split
  · next hf =>
    rcases h with h | ⟨-, h⟩
    · rw [h] at hf
      cases hf
    · refine Option.map_eq_none_iff.mpr (Option.eq_none_iff_forall_ne_some.mpr fun b hb => ?_)
      obtain ⟨w, hw, hel⟩ := bestCandidate_mem hb
      rw [h w (List.mem_of_getElem? (watchEntry_eq hw))] at hel
      cases hel
  · rfl

/-- R127: an entry the engine may not take stays one while no drive becomes READY and no policy changes. -/
theorem State.EngineStill.of_sparing (h : s.EngineStill) (ht : t.sparing = s.sparing)
    (hr : ∀ d, (t.drive d).state = .ready → (s.drive d).state = .ready) (hp : ∀ d, (t.drive d).policy = (s.drive d).policy) :
    t.EngineStill := by
  have hw : t.watch = s.watch := (congrArg Prod.fst ht :)
  have he : t.reassign = s.reassign := (congrArg Prod.snd ht :)
  rcases h with h | ⟨h, hn⟩
  · exact .inl (by rw [he, h])
  · refine .inr ⟨by rw [he, h], fun w hm => ?_⟩
    have hno := hn w (hw ▸ hm)
    by_contra hel
    simp only [Bool.not_eq_false] at hel
    have hel' := hel
    simp only [State.eligible, Bool.and_eq_true, decide_eq_true_eq, hp] at hel
    obtain ⟨⟨hc, hst⟩, ha⟩ := hel
    simp only [State.eligible, hc, hr _ hst, decide_true, Bool.true_and] at hno
    rw [hno] at ha
    cases ha

end Sys2Proof.Machine
end


section
/-! The immediate actions and a port that holds no order
(R87, R127, R153, R159). -/

namespace Sys2Proof.Machine

-- One declaration after the other: in parallel the one compile of the whole text runs out of threads.
set_option Elab.async false

variable {s t u : State} {d e : DriveId} {m : Byte} {n : Nat} {p q : Port} {l : List Nat} {c c' : PortCtl}

/-! ## A port that holds no order -/

/-- R159: a frame in transmission that is a NOTICE, or the DATA of an order that is none of `l`. -/
def OutFrame.Apart (l : List Nat) (out : OutFrame) : Prop :=
  (∃ n kinds, out = .notice n kinds) ∨ ∃ oid tag i pl, out = .data oid tag i pl ∧ oid ∉ l

/-- A port that holds no order has no REPLY, ENDING or DATA REQUEST to send, sends nothing of the orders of `l`, and has no notice pending
but of the kinds of `m`. -/
structure PortCtl.Hushed (m : Byte) (l : List Nat) (c : PortCtl) : Prop where
  slots : ∀ g, c.slots.get g = none
  replies : c.replies = []
  endings : c.endings = []
  dataReqs : c.dataReqs = []
  sending : ∀ out, c.sending = some out → out.Apart l
  notices : ∀ k, c.notices.get k &&& ~~~m = 0

/-- A hushed port, with no HELD ring slot of the orders of `l`; only REASSIGN FAILED can become pending at it, and nothing while the
reassignment engine is still. -/
structure State.Hushed (m : Byte) (p : Port) (l : List Nat) (s : State) : Prop where
  port : (s.port p).Hushed m l
  held : ∀ x ∈ s.ring.run, x.state = .held → x.oid ∉ l
  engine : m = noticeReassignFailed ∨ s.EngineStill

theorem PortCtl.Hushed.of_base (h : c.Hushed m l) (hb : c'.base = c.base)
    (hn : ∀ k, c'.notices.get k &&& ~~~m = c.notices.get k &&& ~~~m) : c'.Hushed m l where
  slots g := by
    have hs := congrArg (fun c : PortCtl => c.slots.get g) hb
    simpa [PortCtl.base, h.slots g] using hs
  replies := (congrArg PortCtl.replies hb).trans h.replies
  endings := (congrArg PortCtl.endings hb).trans h.endings
  dataReqs := (congrArg PortCtl.dataReqs hb).trans h.dataReqs
  sending out ho := h.sending out ((congrArg PortCtl.sending hb).symm.trans ho)
  notices k := (hn k).trans (h.notices k)

theorem State.port_of_base (hb : t.base = s.base) (p : Port) : (t.port p).base = (s.port p).base := by
  have h := congrArg (fun c : State => c.ports.get p) hb
  exact (Quad.get_map _ _ _).symm.trans (h.trans (Quad.get_map _ _ _))

theorem State.ring_of_base (hb : t.base = s.base) : t.ring = s.ring := (congrArg State.ring hb :)

/-- What an immediate action does to the reassignment engine of a hushed port's state. -/
theorem State.Hushed.still (h : s.Hushed m p l) (hs : s.act = some t) (ht : t.sparing = s.sparing) :
    m = noticeReassignFailed ∨ t.EngineStill :=
  h.engine.imp_right fun he => he.of_sparing ht (fun _ => State.act_ready hs) fun d => ((Work.act hs).drive d).policy

theorem State.Hushed.modPort_ne (h : s.Hushed m p l) (f : PortCtl → PortCtl) (hne : q ≠ p) : ((s.modPort q f).port p).Hushed m l := by
  rw [State.port_modPort_ne _ _ hne.symm]
  exact h.port

theorem State.Hushed.modPort (h : s.Hushed m p l) (f : PortCtl → PortCtl) (hf : (s.port p).Hushed m l → (f (s.port p)).Hushed m l) :
    ((s.modPort q f).port p).Hushed m l := by
  by_cases hqp : q = p
  · subst hqp
    rw [State.port_modPort_self]
    exact hf h.port
  · exact h.modPort_ne f hqp

/-- R87: the DATA a port starts is that of a HELD slot. -/
theorem State.offer_held {x : RingSlot} (h : s.ring.offer p = some x) : x ∈ s.ring.run ∧ x.state = .held := by
  have hx := List.find?_some h
  simp only [Bool.and_eq_true, decide_eq_true_eq] at hx
  exact ⟨List.mem_of_find?_eq_some h, hx.1⟩

/-- R159: the start of a frame changes its port alone. -/
theorem State.startFrame_port (h : s.startFrame q = some t) : ∃ f, t = s.modPort q f := by
  unfold State.startFrame at h
  dsimp only at h
  split at h
  · cases h
  · split at h
    all_goals cases h
    all_goals exact ⟨_, rfl⟩

/-- R159: a port with no REPLY, ENDING or DATA REQUEST starts the DATA of its offered slot or a NOTICE, whose kinds leave the pending
set. -/
theorem State.startFrame_idle (h : s.startFrame p = some t) (hr : (s.port p).replies = []) (he : (s.port p).endings = [])
    (hd : (s.port p).dataReqs = []) :
    (∃ x, s.ring.offer p = some x ∧
      t = s.modPort p fun c => { c with sending := some (.data x.oid x.tag x.index (x.data.getD (.bytes []))) }) ∨
    ∃ k : Fin 8 × Byte, t = s.modPort p fun c =>
      { c with sending := some (.notice k.1 k.2), notices := c.notices.set k.1 (c.notices.get k.1 &&& ~~~k.2) } := by
  unfold State.startFrame at h
  dsimp only at h
  rw [hr, he, hd] at h
  split at h
  · cases h
  · cases hx : s.ring.offer p with
    | some x =>
      simp only [hx] at h
      cases h
      exact .inl ⟨x, rfl, rfl⟩
    | none =>
      cases hk : (s.port p).nextNotice with
      | some k =>
        simp only [hx, hk] at h
        cases h
        exact .inr ⟨k, rfl⟩
      | none =>
        simp only [hx, hk] at h
        cases h

/-- The kinds that leave a pending set bring none. -/
theorem notices_leave {x : Byte} (h : x &&& ~~~m = 0) (k : Byte) : (x &&& ~~~k) &&& ~~~m = 0 := by
  rw [BitVec.and_assoc, BitVec.and_comm (~~~k), ← BitVec.and_assoc, h]
  exact BitVec.zero_and

theorem PortCtl.Hushed.data (h : c.Hushed m l) {oid : Nat} (ho : oid ∉ l) (tag : Tag) (i : Nat) (pl : Payload) :
    ({ c with sending := some (.data oid tag i pl) } : PortCtl).Hushed m l where
  slots := h.slots
  replies := h.replies
  endings := h.endings
  dataReqs := h.dataReqs
  sending out ho' := by
    cases ho'
    exact .inr ⟨_, _, _, _, rfl, ho⟩
  notices := h.notices

theorem PortCtl.Hushed.notice (h : c.Hushed m l) (i : Fin 8) (k : Byte) :
    ({ c with sending := some (.notice i k), notices := c.notices.set i (c.notices.get i &&& ~~~k) } : PortCtl).Hushed m l where
  slots := h.slots
  replies := h.replies
  endings := h.endings
  dataReqs := h.dataReqs
  sending out ho' := by
    cases ho'
    exact .inl ⟨_, _, rfl⟩
  notices j := by
    by_cases hj : j = i
    · subst hj
      exact (congrArg (· &&& ~~~m) (Oct.get_set_self _ _ _)).trans (notices_leave (h.notices j) k)
    · exact (congrArg (· &&& ~~~m) (Oct.get_set_ne _ _ hj)).trans (h.notices j)

/-- R159: what a hushed port starts is DATA or a NOTICE. -/
theorem State.Hushed.startFrame (h : s.Hushed m p l) (hs : s.startFrame q = some t) : (t.port p).Hushed m l := by
  by_cases hqp : q = p
  · subst hqp
    rcases State.startFrame_idle hs h.port.replies h.port.endings h.port.dataReqs with ⟨x, hx, rfl⟩ | ⟨k, rfl⟩ <;>
      rw [State.port_modPort_self]
    · obtain ⟨hm, hst⟩ := State.offer_held hx
      exact h.port.data (h.held x hm hst) _ _ _
    · exact h.port.notice _ _
  · obtain ⟨f, rfl⟩ := State.startFrame_port hs
    exact h.modPort_ne f hqp

/-- R85: a grant brings no HELD ring slot. -/
theorem State.held_takePlace (s : State) (op : Op) {x : RingSlot} (hx : x ∈ (s.takePlace op).ring.run) (hs : x.state = .held) :
    x ∈ s.ring.run := by
  unfold State.takePlace at hx
  split at hx
  · unfold State.ringTake at hx
    split at hx
    · exact hx
    · rcases List.mem_append.mp hx with hx | hx
      · exact hx
      · cases List.mem_singleton.mp hx
        cases hs
  · unfold State.setSlotState at hx
    split at hx <;> exact hx
  all_goals exact hx

theorem State.startReassign_untaken (h : s.reassign.state ≠ .taken) (d : DriveId) : s.startReassign d = s := by
  unfold State.startReassign
  split
  · next ht _ => exact absurd ht h
  · rfl

/-- R101, R127: no selection changes the watch list or the engine while the engine is still. -/
theorem State.EngineStill.select (h : s.EngineStill) (hs : s.select d = some t) : t.sparing = s.sparing := by
  rcases State.sparing_select hs with ht | ⟨f, rfl⟩
  · exact ht
  · exact (congrArg State.sparing (State.startReassign_untaken (s := s.modDrive d f) h.untaken d)).trans rfl

/-- R153: an ENDING queued at another port leaves a hushed port. -/
theorem State.Hushed.queueEnding (h : s.Hushed m p l) (hne : q ≠ p) (o : Order) (r : Result) :
    ((s.queueEnding q o r).port p).Hushed m l := by
  have h1 : ((s.modOrder o.oid fun x => { x with result := some (x.result.getD r), state := .ending }).port p).Hushed m l := by
    refine h.port.of_base ?_ fun k => ?_
    · refine State.port_of_base (State.base_modOrder s o.oid _ ?_) p
      exact fun _ => rfl
    · rw [((NoticesKept.refl s).modOrder _ _ p).1]
  have hp := State.port_modPort_ne (s.modOrder o.oid fun x => { x with result := some (x.result.getD r), state := .ending }) (fun c =>
    { c with endings := c.endings ++
      [.ending o.oid o.tag r o.done o.retry o.clamped (if r.hasFailing then o.failing else none) o.body] }) hne.symm
  exact hp ▸ h1

theorem State.Hushed.act (h : s.Hushed m p l) (hs : s.act = some t) : t.Hushed m p l := by
  have still : t.sparing = s.sparing → _ := h.still hs
  have of_base : t.base = s.base → (∀ k, (t.port p).notices.get k &&& ~~~m = (s.port p).notices.get k &&& ~~~m) →
      (m = noticeReassignFailed ∨ t.EngineStill) → t.Hushed m p l := fun hb hn he =>
    ⟨h.port.of_base (State.port_of_base hb p) hn, by rw [State.ring_of_base hb]; exact h.held, he⟩
  have other : ∀ (c : Port × Order) (g : Tag), (s.port c.1).slots.get g = some c.2 → p ≠ c.1 := fun c g hg => by
    rintro rfl
    rw [h.port.slots g] at hg
    cases hg
  rcases State.act_cases hs with hs | hs | hs | hs | hs | hs | hs | hs | hs | hs
  · obtain ⟨x, rest, hr, -, rfl⟩ := State.actBoundary_eq hs
    exact ⟨h.port, fun y hy => h.held y (by rw [hr]; exact List.mem_cons_of_mem _ hy), still rfl⟩
  · obtain ⟨q, o, rfl⟩ := State.actOffer_eq hs
    exact ⟨h.modPort _ fun ⟨a, b, c, d, e, f⟩ => ⟨a, b, c, d, e, f⟩, h.held, still rfl⟩
  · obtain ⟨i, c, g, hg, rfl⟩ | ⟨_, rfl⟩ := State.actSlots_order hs
    · refine ⟨?_, h.held, still rfl⟩
      rw [show (s.giveSlot i c.1 c.2).port p = s.port p from State.port_modPort_ne _ _ (other c g hg)]
      exact h.port
    · exact ⟨h.port, h.held, still rfl⟩
  · obtain ⟨i, rfl⟩ := State.actFence_eq hs
    exact of_base (State.base_endOrder _ _ _) (fun k => by rw [((NoticesKept.refl s).endOrder i .complete p).1])
      (still (State.sparing_endOrder _ _ _))
  · obtain ⟨_, rfl⟩ | ⟨c, g, r, hg, rfl⟩ := State.actEnding_order hs
    · exact ⟨h.port, h.held, still rfl⟩
    · exact ⟨h.queueEnding (other c g hg).symm _ _, h.held, still rfl⟩
  · obtain ⟨_, _, rfl⟩ := State.actCandidate_eq hs
    rcases h.engine with hm | he
    · refine ⟨?_, ?_, .inl hm⟩ <;> unfold State.takeCandidate <;> split <;> first | exact h.port | exact h.held
    · rw [he.not_candidate] at hs
      cases hs
  · obtain ⟨e, hsel⟩ := State.actSelect_eq hs
    obtain ⟨n, hn⟩ := Infinite.exists_notMem_finset (s.drive e).queue.toFinset
    have hst : Starts m n e s t := .select hsel (by simpa using hn) (h.engine.imp_right State.EngineStill.untaken)
    exact of_base (State.base_select hsel) (hst.notices p) (h.engine.elim .inl fun he => still (he.select hsel))
  · obtain ⟨_, d, rfl | ⟨op, _, ⟨_, rfl⟩ | rfl⟩⟩ := State.actGrant_eq hs
    · exact ⟨h.port, h.held, still rfl⟩
    · exact ⟨by rw [State.port, State.ports_grant]; exact h.port, fun x hx hst =>
        h.held x (State.held_takePlace (s.modDrive d fun x => { x with request := false }) op hx hst) hst,
        still (State.sparing_takePlace _ _)⟩
    · unfold State.countMiss at still ⊢
      split at still <;> exact ⟨h.port, h.held, still rfl⟩
  · obtain ⟨_, _, rfl⟩ := State.actSpin_eq hs
    exact ⟨h.port, h.held, still rfl⟩
  · obtain ⟨q, -, hs⟩ := List.exists_of_findSome?_eq_some hs
    have hp := h.startFrame hs
    obtain ⟨f, rfl⟩ := State.startFrame_port hs
    exact ⟨hp, h.held, still rfl⟩

/-- The immediate actions leave a hushed port hushed. -/
theorem State.Hushed.settle (h : s.Hushed m p l) (k : Nat) : (settle k s).Hushed m p l :=
  settle_rel (P := fun u v => u.Hushed m p l → v.Hushed m p l) (fun _ => id) (fun _ _ _ h1 h2 => h2 ∘ h1) (fun _ _ hs hu => hu.act hs) k s h

end Sys2Proof.Machine
end


section
/-! The end of orders with their operations, drive by drive
(R80, R97, R117, R147). -/

namespace Sys2Proof.Machine

-- One declaration after the other: in parallel the one compile of the whole text runs out of threads.
set_option Elab.async false

variable {s t u : State} {d e : DriveId} {op : Op} {x : Xfer} {n : Nat} {p : Port} {l : List Nat}

/-! ## What the end of operations leaves -/

/-- The staging store, the watch list, the reassignment engine and the queues are as they were. -/
structure StoresKept (s t : State) : Prop where
  ring : t.ring = s.ring
  wslots : t.wslots = s.wslots
  waitList : t.waitList = s.waitList
  sparing : t.sparing = s.sparing
  queue : ∀ d, (t.drive d).queue = (s.drive d).queue

theorem StoresKept.refl (s : State) : StoresKept s s := ⟨rfl, rfl, rfl, rfl, fun _ => rfl⟩

theorem StoresKept.trans (h1 : StoresKept s t) (h2 : StoresKept t u) : StoresKept s u :=
  ⟨h2.ring.trans h1.ring, h2.wslots.trans h1.wslots, h2.waitList.trans h1.waitList, h2.sparing.trans h1.sparing,
    fun d => (h2.queue d).trans (h1.queue d)⟩

theorem StoresKept.foldl {α : Type} (f : State → α → State) (hf : ∀ v i, StoresKept v (f v i)) (is : List α) (s : State) :
    StoresKept s (is.foldl f s) := by
  induction is generalizing s with
  | nil => exact .refl s
  | cons i is ih => exact (hf s i).trans (ih _)

theorem StoresKept.modDrive (s : State) (d : DriveId) (f : Drive → Drive) (hf : ∀ x, (f x).queue = x.queue := by intro _; rfl) :
    StoresKept s (s.modDrive d f) := by
  refine ⟨rfl, rfl, rfl, rfl, fun e => ?_⟩
  rw [State.drive_modDrive]
  split
  · exact hf _
  · rfl

theorem StoresKept.endOrder (s : State) (i : Nat) (r : Result) : StoresKept s (s.endOrder i r) := by
  obtain ⟨hr, hw, hl, hd, -⟩ := s.endOrder_rest i r
  exact ⟨hr, hw, hl, State.sparing_endOrder _ _ _, fun e => by rw [State.drive_eq_of_drives hd]⟩

theorem StoresKept.clearOp (s : State) (d : DriveId) : StoresKept s (s.clearOp d) := by
  refine ⟨?_, ?_, ?_, State.sparing_clearOp s d, fun e => ?_⟩
  iterate 3
    unfold State.clearOp
    split
    · split <;> rfl
    · rfl
  · rw [State.drive_clearOp]
    split <;> rfl

theorem StoresKept.windDown (s : State) (d : DriveId) : StoresKept s (s.windDown d) := by
  unfold State.windDown
  split
  · have h1 : StoresKept s (s.modDrive d fun x => { x with cur := x.cur.map fun op => { op with ended := true }, request := false }) :=
      .modDrive s d _
    dsimp only
    split
    · split
      · refine h1.trans (StoresKept.trans ?_ (.clearOp _ d))
        exact ⟨rfl, rfl, rfl, rfl, fun _ => rfl⟩
      · exact h1.trans ⟨rfl, rfl, rfl, rfl, fun _ => rfl⟩
    · exact h1
  · exact .clearOp s d

/-! ## One operation stopped -/

/-- R117, R147: what the ending of orders does to the operation of one drive, a SURFACE VERIFY finishing its track. -/
def State.stopOn (l : List Nat) (s : State) (d : DriveId) : State :=
  match (s.drive d).cur with
  | some op =>
    if op.kind.hostOrdered ∧ op.oid ∈ l then
      if op.kind = .surface then s.modOp d fun op => { op with lastTrack := true } else s.windDown d
    else s
  | none => s

theorem State.stopOps_eq (s : State) (l : List Nat) : s.stopOps l true = allDrives.foldl (State.stopOn l) s := by
  unfold State.stopOps
  congr 1
  funext v e
  unfold State.stopOn
  cases (v.drive e).cur with
  | none => rfl
  | some op => simp only [and_true]

theorem State.stopOn_other (h : ∀ op, (s.drive d).cur = some op → op.kind.hostOrdered = true → op.oid ∉ l) : s.stopOn l d = s := by
  unfold State.stopOn
  split
  · next op hc => exact if_neg fun hh => h op hc hh.1 hh.2
  · rfl

theorem State.stopOn_surface (hc : (s.drive d).cur = some op) (hl : op.oid ∈ l) (hk : op.kind = .surface) :
    s.stopOn l d = s.modOp d fun op => { op with lastTrack := true } := by
  unfold State.stopOn
  rw [hc]
  exact (if_pos ⟨by rw [hk]; rfl, hl⟩).trans (if_pos hk)

theorem State.stopOn_windDown (hc : (s.drive d).cur = some op) (hl : op.oid ∈ l) (hh : op.kind.hostOrdered = true)
    (hk : op.kind ≠ .surface) : s.stopOn l d = s.windDown d := by
  unfold State.stopOn
  rw [hc]
  exact (if_pos ⟨hh, hl⟩).trans (if_neg hk)

theorem StoresKept.stopOn (l : List Nat) (s : State) (d : DriveId) : StoresKept s (s.stopOn l d) := by
  unfold State.stopOn
  split
  · split
    · split
      · exact .modDrive s d _
      · exact .windDown s d
    · exact .refl s
  · exact .refl s

theorem StoresKept.stopOps (s : State) (l : List Nat) : StoresKept s (s.stopOps l true) := by
  rw [State.stopOps_eq]
  exact .foldl _ (StoresKept.stopOn l) _ s

/-- R80: with its transfer begun the operation is to end with it, and plans no continuation. -/
theorem State.windDown_granted (hh : s.path.holder = some d) (hx : s.path.xfer = some x) (hc : x.chained = false) :
    s.windDown d = { s.modDrive d Drive.toEnd with path := { s.path with xfer := some { x with cont := false } } } := by
  unfold State.windDown
  have hp : ∀ f, (s.modDrive d f).path.xfer = some x := fun _ => hx
  rw [if_pos ⟨hh, by rw [hx]; rfl⟩]
  dsimp only
  rw [hp]
  exact if_neg (by rw [hc]; decide)

/-- R80: an operation with no transfer granted ends at once, one with a planned continuation too (log 37). -/
theorem State.windDown_atOnce (h : s.path.holder = some d → ∀ x, s.path.xfer = some x → x.chained = true) :
    ((s.windDown d).drive d).cur = none := by
  unfold State.windDown
  split
  · next hg =>
    obtain ⟨hh, hx⟩ := hg
    obtain ⟨x, hx⟩ := Option.isSome_iff_exists.mp hx
    have hp : ∀ f, (s.modDrive d f).path.xfer = some x := fun _ => hx
    dsimp only
    rw [hp]
    dsimp only
    rw [if_pos (h hh x hx)]
    exact State.cur_clearOp _ _
  · exact State.cur_clearOp _ _

/-! ## The other drives -/

/-- A step on another drive leaves this one whole, the path with it while it holds it, and gives it no grant. -/
structure Aside (d : DriveId) (s t : State) : Prop where
  drive : t.drive d = s.drive d
  path : s.path.holder = some d → t.path = s.path
  holder : t.path.holder = some d → s.path.holder = some d

theorem Aside.refl (d : DriveId) (s : State) : Aside d s s := ⟨rfl, fun _ => rfl, id⟩

theorem Aside.trans (h1 : Aside d s t) (h2 : Aside d t u) : Aside d s u :=
  ⟨h2.drive.trans h1.drive, fun h => (h2.path (by rw [h1.path h]; exact h)).trans (h1.path h), h1.holder ∘ h2.holder⟩

theorem Aside.modDrive (s : State) (f : Drive → Drive) (hne : e ≠ d) : Aside d s (s.modDrive e f) :=
  ⟨State.drive_modDrive_ne _ _ hne.symm, fun _ => rfl, id⟩

theorem Aside.clearOp (s : State) (hne : e ≠ d) : Aside d s (s.clearOp e) := by
  obtain ⟨hp, -, -⟩ := s.clearOp_rest e
  exact ⟨by rw [State.drive_clearOp, if_neg hne.symm], fun _ => hp, fun h => by rwa [hp] at h⟩

/-- A step that the holder of the path takes on its own path. -/
theorem Aside.of_holder (hh : s.path.holder = some e) (hne : e ≠ d) (hd : t.drive d = s.drive d)
    (ht : t.path.holder = some e ∨ t.path.holder = none) : Aside d s t where
  drive := hd
  path h := absurd (Option.some.inj (hh.symm.trans h)) hne
  holder h := by
    rcases ht with ht | ht <;> rw [ht] at h
    · exact absurd (Option.some.inj h) hne
    · cases h

theorem Aside.windDown (s : State) (hne : e ≠ d) : Aside d s (s.windDown e) := by
  unfold State.windDown
  split
  · next hg =>
    have h1 : Aside d s (s.modDrive e Drive.toEnd) := .modDrive s _ hne
    have hv : (s.modDrive e Drive.toEnd).path.holder = some e := hg.1
    have he : (s.modDrive e fun x => { x with cur := x.cur.map fun op => { op with ended := true }, request := false }) =
      s.modDrive e Drive.toEnd := rfl
    dsimp only
    rw [he]
    generalize s.modDrive e Drive.toEnd = v at h1 hv ⊢
    split
    · split
      · exact h1.trans ((Aside.of_holder (t := v.release) hv hne rfl (.inr rfl)).trans (.clearOp v.release hne))
      · exact h1.trans (.of_holder hv hne rfl (.inl hv))
    · exact h1
  · exact .clearOp s hne

theorem Aside.stopOn (l : List Nat) (s : State) (hne : e ≠ d) : Aside d s (s.stopOn l e) := by
  unfold State.stopOn
  split
  · split
    · split
      · exact .modDrive s _ hne
      · exact .windDown s hne
    · exact .refl d s
  · exact .refl d s

theorem Aside.foldl_stopOn (l : List Nat) (es : List DriveId) (s : State) (h : d ∉ es) : Aside d s (es.foldl (State.stopOn l) s) := by
  induction es generalizing s with
  | nil => exact .refl d s
  | cons e es ih =>
    have hne := List.ne_of_not_mem_cons h
    have hes := List.not_mem_of_not_mem_cons h
    exact (Aside.stopOn l s hne.symm).trans (ih _ hes)

/-- The operations are stopped drive by drive, and each drive's own step is all that touches it. -/
theorem State.stopOps_at (s : State) (l : List Nat) (d : DriveId) :
    ∃ u, Aside d s u ∧ Aside d (u.stopOn l d) (s.stopOps l true) := by
  obtain ⟨front, back, hs⟩ := List.append_of_mem (mem_allDrives d)
  have hn : (front ++ d :: back).Nodup := hs ▸ (by decide : allDrives.Nodup)
  obtain ⟨hnot, -⟩ := List.nodup_cons.mp (List.nodup_middle.mp hn)
  obtain ⟨hf, hb⟩ := not_or.mp (fun h => hnot (List.mem_append.mpr h))
  refine ⟨front.foldl (State.stopOn l) s, .foldl_stopOn l front s hf, ?_⟩
  rw [State.stopOps_eq, hs, List.foldl_append, List.foldl_cons]
  exact .foldl_stopOn l back _ hb

/-- R117: the operation of no order that ends goes on. -/
theorem State.stopOps_other (h : ∀ op, (s.drive d).cur = some op → op.kind.hostOrdered = true → op.oid ∉ l) :
    (s.stopOps l true).drive d = s.drive d := by
  obtain ⟨u, h1, h2⟩ := s.stopOps_at l d
  rw [State.stopOn_other (by rw [h1.drive]; exact h)] at h2
  exact h2.drive.trans h1.drive

/-- R147: a SURFACE VERIFY finishes its track. -/
theorem State.stopOps_surface (hc : (s.drive d).cur = some op) (hl : op.oid ∈ l) (hk : op.kind = .surface) :
    ((s.stopOps l true).drive d).cur = some { op with lastTrack := true } := by
  obtain ⟨u, h1, h2⟩ := s.stopOps_at l d
  rw [State.stopOn_surface (by rw [h1.drive]; exact hc) hl hk] at h2
  rw [h2.drive, State.drive_modOp, h1.drive, hc]
  rfl

/-- R80, R117: an operation with its transfer granted ends with it. -/
theorem State.stopOps_granted (hc : (s.drive d).cur = some op) (hl : op.oid ∈ l) (hh : op.kind.hostOrdered = true)
    (hk : op.kind ≠ .surface) (hp : s.path.holder = some d) (hx : s.path.xfer = some x) (hch : x.chained = false) :
    ((s.stopOps l true).drive d).cur = some { op with ended := true } ∧ (s.stopOps l true).path.holder = some d ∧
      (s.stopOps l true).path.xfer = some { x with cont := false } := by
  obtain ⟨u, h1, h2⟩ := s.stopOps_at l d
  have hpath := h1.path hp
  have hcu : (u.drive d).cur = some op := by rw [h1.drive, hc]
  rw [State.stopOn_windDown hcu hl hh hk, State.windDown_granted (by rw [hpath, hp]) (by rw [hpath, hx]) hch] at h2
  have hp2 := h2.path (by rw [hpath]; exact hp)
  refine ⟨?_, by rw [hp2, hpath]; exact hp, by rw [hp2]⟩
  rw [h2.drive]
  have hd : ({ u.modDrive d Drive.toEnd with path := { u.path with xfer := some { x with cont := false } } } : State).drive d =
    (u.drive d).toEnd := State.drive_modDrive_self u d _
  rw [hd, Drive.toEnd, hcu]
  rfl

/-- R80, R117: an operation with no transfer granted ends at once. -/
theorem State.stopOps_atOnce (hc : (s.drive d).cur = some op) (hl : op.oid ∈ l) (hh : op.kind.hostOrdered = true)
    (hk : op.kind ≠ .surface) (hp : s.path.holder = some d → ∀ x, s.path.xfer = some x → x.chained = true) :
    ((s.stopOps l true).drive d).cur = none := by
  obtain ⟨u, h1, h2⟩ := s.stopOps_at l d
  rw [State.stopOn_windDown (by rw [h1.drive, hc]) hl hh hk] at h2
  rw [h2.drive]
  refine State.windDown_atOnce fun hu y hy => ?_
  have hs := h1.holder hu
  rw [h1.path hs] at hy
  exact hp hs y hy

/-! ## The write slots freed (R93, R97) -/

/-- The write slot is no REQUESTED or FULL slot of the order. -/
def State.SlotDone (s : State) (n : Nat) (i : Fin 8) : Prop :=
  (s.wslots.get i).oid = n → (s.wslots.get i).state = .writing ∨ (s.wslots.get i).state = .free

/-- A slot given to an order on the wait list leaves every order off the list as it was. -/
theorem State.giveSlot_done (s : State) (i : Fin 8) (p : Port) {o : Order} (ho : o.oid ≠ n) :
    (s.giveSlot i p o).SlotDone n i ∧ ∀ j, j ≠ i → s.SlotDone n j → (s.giveSlot i p o).SlotDone n j := by
  refine ⟨fun h => absurd ((congrArg WriteSlot.oid (Oct.get_set_self _ _ _)).symm.trans h) ho, fun j hj hd => ?_⟩
  have : (s.giveSlot i p o).wslots.get j = s.wslots.get j := Oct.get_set_ne _ _ hj
  unfold State.SlotDone
  rwa [this]

/-- R93: a slot freed goes FREE or to an order on the wait list, which gains none. -/
theorem State.freeSlot_done (h : n ∉ s.waitList) (i : Fin 8) :
    n ∉ (s.freeSlot i).waitList ∧ (s.freeSlot i).SlotDone n i ∧ ∀ j, j ≠ i → s.SlotDone n j → (s.freeSlot i).SlotDone n j := by
  have hfree : ∀ v : State, v.wslots = s.wslots.set i WriteSlot.free →
      v.SlotDone n i ∧ ∀ j, j ≠ i → s.SlotDone n j → v.SlotDone n j := fun v hv => by
    refine ⟨fun _ => .inr ?_, fun j hj hd => ?_⟩
    · rw [hv, Oct.get_set_self]
      rfl
    · unfold State.SlotDone
      rw [hv, Oct.get_set_ne _ _ hj]
      exact hd
  unfold State.freeSlot
  dsimp only
  split
  · next hw => exact ⟨h, hfree _ rfl⟩
  · next oid rest hw =>
    have hn : n ∉ oid :: rest := hw ▸ h
    have hne := List.ne_of_not_mem_cons hn
    have hrest := List.not_mem_of_not_mem_cons hn
    split
    · exact ⟨hrest, hfree _ rfl⟩
    · next q o ho =>
      have hno : o.oid ≠ n := fun heq => hne (heq ▸ State.findOrder_oid ho)
      obtain ⟨h1, h2⟩ := State.giveSlot_done { s.setWslot i WriteSlot.free with waitList := rest } i q hno
      have h3 := (hfree { s.setWslot i WriteSlot.free with waitList := rest } rfl).2
      split
      · exact ⟨fun hm => (List.mem_append.mp hm).elim hrest fun hm => hne (List.mem_singleton.mp hm), h1, fun j hj hd => h2 j hj (h3 j hj hd)⟩
      · exact ⟨hrest, h1, fun j hj hd => h2 j hj (h3 j hj hd)⟩

/-- R97: no REQUESTED or FULL slot of the orders is left. -/
theorem State.freeSlots_done (hl : n ∈ l) (h : n ∉ s.waitList) (i : Fin 8) : (s.freeSlots l).SlotDone n i := by
  have fold : ∀ (is : List (Fin 8)) (v : State), n ∉ v.waitList → (∀ j, j ∉ is → v.SlotDone n j) → ∀ j,
      (is.foldl (fun s i => if ((s.wslots.get i).state = .requested ∨ (s.wslots.get i).state = .full) ∧ (s.wslots.get i).oid ∈ l
        then s.freeSlot i else s) v).SlotDone n j := by
    intro is
    induction is with
    | nil => exact fun v _ hd j => hd j List.not_mem_nil
    | cons i is ih =>
      intro v hv hd
      rw [List.foldl_cons]
      split
      · obtain ⟨h1, h2, h3⟩ := State.freeSlot_done hv i
        refine ih _ h1 fun j hj => ?_
        by_cases hji : j = i
        · exact hji ▸ h2
        · exact h3 j hji (hd j (List.not_mem_cons_of_ne_of_not_mem hji hj))
      · next hn =>
        refine ih _ hv fun j hj => ?_
        by_cases hji : j = i
        · subst hji
          intro hoid
          have hno := fun hst => hn ⟨hst, hoid ▸ hl⟩
          cases hst : (v.wslots.get j).state with
          | free => exact .inr rfl
          | writing => exact .inl rfl
          | requested => exact absurd (.inl hst) hno
          | full => exact absurd (.inr hst) hno
        · exact hd j (List.not_mem_cons_of_ne_of_not_mem hji hj)
  refine fold _ s h (fun j hj => absurd ?_ hj) i
  revert j
  decide

end Sys2Proof.Machine
end


section
/-! PORT RESET (R154, R157). -/

namespace Sys2Proof.Machine

-- One declaration after the other: in parallel the one compile of the whole text runs out of threads.
set_option Elab.async false

variable {s t u : State} {d e : DriveId} {op : Op} {x : Xfer} {m : Byte} {n : Nat} {p q : Port} {g : Tag} {o : Order} {l : List Nat} {r : Result}

/-! ## The orders taken out of every line (R91, R97, R117) -/

/-- Orders that end together, before their operations do: they have left the wait list, the queues and the ring, and their DATA REQUESTs are
dropped. -/
def State.outOfLine (s : State) (l : List Nat) (r : Result) : State :=
  ((((l.foldl (fun s i => s.endOrder i r) s).leaveWaitList l).leaveQueues l).ringDiscard l).dropRequests l

theorem State.endTogether_eq (s : State) (l : List Nat) (r : Result) :
    s.endTogether l r true = ((s.outOfLine l r).stopOps l true).freeSlots l := rfl

theorem State.foldl_endOrder (s : State) (is : List Nat) (r : Result) :
    (is.foldl (fun s i => s.endOrder i r) s).drives = s.drives ∧ (is.foldl (fun s i => s.endOrder i r) s).path = s.path := by
  induction is generalizing s with
  | nil => exact ⟨rfl, rfl⟩
  | cons i is ih =>
    obtain ⟨-, -, -, hd, -, -, hp, -⟩ := s.endOrder_rest i r
    exact ⟨(ih _).1.trans hd, (ih _).2.trans hp⟩

/-- What the end of orders takes out of the lines, and what it leaves. -/
structure OutOfLine (l : List Nat) (s t : State) : Prop where
  drive : ∀ d, t.drive d = { s.drive d with queue := (s.drive d).queue.filter fun i => i ∉ l }
  path : t.path = s.path
  sparing : t.sparing = s.sparing
  waitList : ∀ n ∈ l, n ∉ t.waitList
  held : ∀ x ∈ t.ring.run, x.state = .held → x.oid ∉ l

theorem State.outOfLine_spec (s : State) (l : List Nat) (r : Result) : OutOfLine l s (s.outOfLine l r) := by
  obtain ⟨hd, hp⟩ := s.foldl_endOrder l r
  have hk : StoresKept s (l.foldl (fun s i => s.endOrder i r) s) := .foldl _ (fun v i => .endOrder v i r) l s
  unfold State.outOfLine
  generalize l.foldl (fun s i => s.endOrder i r) s = v at hd hp hk ⊢
  refine ⟨fun d => ?_, hp, hk.sparing, fun n hn hm => ?_, fun x hx hst hm => ?_⟩
  · have h1 : (v.leaveQueues l).drive d = { v.drive d with queue := (v.drive d).queue.filter fun i => i ∉ l } := Oct.get_map _ _ _
    rw [State.drive_eq_of_drives hd] at h1
    exact h1
  · exact absurd hn (by simpa using List.of_mem_filter hm)
  · obtain ⟨y, -, hy⟩ := List.mem_map.mp (show x ∈ v.ring.run.map _ from hx)
    split at hy
    · subst hy
      cases hst
    · next hno =>
      subst hy
      exact hno ⟨hst, hm⟩

/-! ## The orders ended (R80, R97, R117) -/

theorem State.freeSlot_keeps (s : State) (i : Fin 8) :
    (s.freeSlot i).ring = s.ring ∧ (s.freeSlot i).path = s.path ∧ (s.freeSlot i).sparing = s.sparing := by
  unfold State.freeSlot
  dsimp only
  split
  · exact ⟨rfl, rfl, rfl⟩
  · split
    · exact ⟨rfl, rfl, rfl⟩
    · split <;> exact ⟨rfl, rfl, rfl⟩

theorem State.freeSlots_keeps (s : State) (l : List Nat) :
    (s.freeSlots l).ring = s.ring ∧ (s.freeSlots l).path = s.path ∧ (s.freeSlots l).sparing = s.sparing := by
  unfold State.freeSlots
  generalize ([0, 1, 2, 3, 4, 5, 6, 7] : List (Fin 8)) = is
  induction is generalizing s with
  | nil => exact ⟨rfl, rfl, rfl⟩
  | cons i is ih =>
    rw [List.foldl_cons]
    split
    · obtain ⟨h1, h2, h3⟩ := s.freeSlot_keeps i
      obtain ⟨k1, k2, k3⟩ := ih (s.freeSlot i)
      exact ⟨k1.trans h1, k2.trans h2, k3.trans h3⟩
    · exact ih s

/-- R80, R91, R97, R117, R147: what is left of orders that end together, with a SURFACE VERIFY finishing its track. -/
structure OrdersEnded (l : List Nat) (s t : State) : Prop where
  queues : ∀ n ∈ l, ∀ d, n ∉ (t.drive d).queue
  held : ∀ x ∈ t.ring.run, x.state = .held → x.oid ∉ l
  slots : ∀ n ∈ l, ∀ i, t.SlotDone n i
  sparing : t.sparing = s.sparing
  other : ∀ d op, (s.drive d).cur = some op → (op.kind.hostOrdered = true → op.oid ∉ l) → (t.drive d).cur = some op
  surface : ∀ d op, (s.drive d).cur = some op → op.oid ∈ l → op.kind = .surface → (t.drive d).cur = some { op with lastTrack := true }
  granted : ∀ d op x, (s.drive d).cur = some op → op.oid ∈ l → op.kind.hostOrdered = true → op.kind ≠ .surface →
    s.path.holder = some d → s.path.xfer = some x → x.chained = false →
    (t.drive d).cur = some { op with ended := true } ∧ t.path.holder = some d ∧ t.path.xfer = some { x with cont := false }
  atOnce : ∀ d op, (s.drive d).cur = some op → op.oid ∈ l → op.kind.hostOrdered = true → op.kind ≠ .surface →
    (s.path.holder = some d → ∀ x, s.path.xfer = some x → x.chained = true) → (t.drive d).cur = none

theorem State.endTogether_ended (s : State) (l : List Nat) (r : Result) : OrdersEnded l s (s.endTogether l r true) := by
  have hv := s.outOfLine_spec l r
  rw [State.endTogether_eq]
  generalize s.outOfLine l r = v at hv ⊢
  have hk : StoresKept v (v.stopOps l true) := .stopOps v l
  have hd : ∀ d, ((v.stopOps l true).freeSlots l).drive d = (v.stopOps l true).drive d :=
    fun d => State.drive_eq_of_drives (State.drives_freeSlots _ _) d
  obtain ⟨hring, hpath, hsp⟩ := (v.stopOps l true).freeSlots_keeps l
  have hc : ∀ d, (v.drive d).cur = (s.drive d).cur := fun d => by rw [hv.drive]
  refine ⟨fun n hn d => ?_, ?_, fun n hn i => ?_, hsp.trans (hk.sparing.trans hv.sparing), fun d op ho hno => ?_,
    fun d op ho hl hs => ?_, fun d op x ho hl hh hs hp hx hch => ?_, fun d op ho hl hh hs hp => ?_⟩
  · rw [hd, hk.queue, hv.drive]
    exact fun hm => absurd hn (by simpa using List.of_mem_filter hm)
  · rw [hring, hk.ring]
    exact hv.held
  · exact State.freeSlots_done hn (by rw [hk.waitList]; exact hv.waitList n hn) i
  · rw [hd, State.stopOps_other, hc, ho]
    intro op' ho' hh'
    rw [hc, ho] at ho'
    cases ho'
    exact hno hh'
  · rw [hd]
    exact State.stopOps_surface ((hc d).trans ho) hl hs
  · rw [hd, hpath]
    exact State.stopOps_granted ((hc d).trans ho) hl hh hs (by rw [hv.path, hp]) (by rw [hv.path, hx]) hch
  · rw [hd]
    exact State.stopOps_atOnce ((hc d).trans ho) hl hh hs (by rw [hv.path]; exact hp)

/-! ## The port cleared (R154, R157) -/

theorem Quad.mem_toList {o : Order} (w : Quad (Option Order)) : some o ∈ w.toList ↔ ∃ g, w.get g = some o := by
  constructor
  · intro h
    simp only [Quad.toList, List.mem_cons, List.not_mem_nil, or_false] at h
    rcases h with h | h | h | h
    exacts [⟨0, h.symm⟩, ⟨1, h.symm⟩, ⟨2, h.symm⟩, ⟨3, h.symm⟩]
  · rintro ⟨g, h⟩
    rw [← h]
    fin_cases g <;> simp [Quad.toList, Quad.get]

theorem PortCtl.mem_liveQueued {c : PortCtl} : n ∈ c.liveQueued ↔
    ∃ g o, c.slots.get g = some o ∧ o.live = true ∧ o.kind.driveQueued = true ∧ o.oid = n := by
  unfold PortCtl.liveQueued
  simp only [List.mem_map, List.mem_filter, List.mem_filterMap, id_eq, exists_eq_right, Bool.and_eq_true, Quad.mem_toList]
  constructor
  · rintro ⟨o, ⟨⟨g, hg⟩, hl, hk⟩, rfl⟩
    exact ⟨g, o, hg, hl, hk, rfl⟩
  · rintro ⟨g, o, hg, hl, hk, rfl⟩
    exact ⟨o, ⟨⟨g, hg⟩, hl, hk⟩, rfl⟩

/-- R154: a reservation of the port has ended. -/
def Drive.unreserved (p : Port) (x : Drive) : Drive := if x.holder = some p then { x with holder := none } else x

theorem Drive.unreserved_kept (p : Port) (x : Drive) : (x.unreserved p).state = x.state ∧ (x.unreserved p).cur = x.cur ∧
    (x.unreserved p).queue = x.queue ∧ (x.unreserved p).counter = x.counter ∧
    (x.unreserved p).holder = if x.holder = some p then none else x.holder := by
  unfold Drive.unreserved
  split <;> exact ⟨rfl, rfl, rfl, rfl, rfl⟩

/-- R154, R157: the port cleared and its reservations ended. -/
def State.clearPort (s : State) (p : Port) : State :=
  { s.modPort p PortCtl.cleared with drives := s.drives.map (Drive.unreserved p) }

theorem State.portReset_eq (s : State) (p : Port) :
    s.portReset p = (s.endTogether (s.port p).liveQueued .reset true).clearPort p := by
  unfold State.portReset
  generalize s.endTogether (s.port p).liveQueued .reset true = v
  rfl

theorem State.drive_clearPort (s : State) (p : Port) (d : DriveId) : (s.clearPort p).drive d = (s.drive d).unreserved p :=
  Oct.get_map _ _ _

theorem State.port_clearPort (s : State) (p q : Port) :
    (s.clearPort p).port q = if q = p then (s.port p).cleared else s.port q := by
  split
  · next h => subst h; exact State.port_modPort_self s q PortCtl.cleared
  · next h => exact State.port_modPort_ne s PortCtl.cleared h

theorem OrdersEnded.clearPort (h : OrdersEnded l s t) (p : Port) : OrdersEnded l s (t.clearPort p) := by
  have hc : ∀ d, ((t.clearPort p).drive d).cur = (t.drive d).cur := fun d => by
    rw [State.drive_clearPort]
    exact (Drive.unreserved_kept p _).2.1
  have hq : ∀ d, ((t.clearPort p).drive d).queue = (t.drive d).queue := fun d => by
    rw [State.drive_clearPort]
    exact (Drive.unreserved_kept p _).2.2.1
  exact ⟨fun n hn d => by rw [hq]; exact h.queues n hn d, h.held, h.slots, h.sparing, fun d => by rw [hc]; exact h.other d,
    fun d => by rw [hc]; exact h.surface d, fun d => by rw [hc]; exact h.granted d, fun d => by rw [hc]; exact h.atOnce d⟩

/-- What a PORT RESET leaves of the orders it ends, before what follows at once. -/
theorem State.portReset_ended (s : State) (p : Port) : OrdersEnded (s.port p).liveQueued s (s.portReset p) := by
  rw [State.portReset_eq]
  exact (s.endTogether_ended _ _).clearPort p

theorem State.portReset_drive (s : State) (p : Port) (d : DriveId) :
    ((s.portReset p).drive d).state = (s.drive d).state ∧ ((s.portReset p).drive d).counter = (s.drive d).counter ∧
      ((s.portReset p).drive d).holder = if (s.drive d).holder = some p then none else (s.drive d).holder := by
  have hb := (BasesKept.refl s).endTogether (s.port p).liveQueued .reset true d
  obtain ⟨h1, -, -, h2, h3⟩ := Drive.unreserved_kept p ((s.endTogether (s.port p).liveQueued .reset true).drive d)
  rw [State.portReset_eq, State.drive_clearPort, h1, h2, h3]
  have hh : ((s.endTogether (s.port p).liveQueued .reset true).drive d).holder = (s.drive d).holder := (congrArg Drive.holder hb :)
  exact ⟨(congrArg Drive.state hb :), (congrArg Drive.counter hb :), by rw [hh]⟩

theorem PortCtl.Hushed.cleared (c : PortCtl) : c.cleared.Hushed m l where
  slots g := Quad.get_all none g
  replies := rfl
  endings := rfl
  dataReqs := rfl
  sending _ h := by cases h
  notices k := by
    unfold PortCtl.cleared
    rw [show (Oct.all (0 : Byte)).get k = 0 from Oct.get_all _ _]
    exact BitVec.zero_and

/-- R157: after a PORT RESET the port holds no order and has nothing to send. -/
theorem State.portReset_hushed (s : State) (p : Port) (hm : m = noticeReassignFailed ∨ s.EngineStill) :
    (s.portReset p).Hushed m p (s.port p).liveQueued where
  port := by
    rw [State.portReset_eq, State.port_clearPort, if_pos rfl]
    exact .cleared _
  held := (s.portReset_ended p).held
  engine := hm.imp_right fun h => h.of_sparing (s.portReset_ended p).sparing (fun d hd => by rwa [(s.portReset_drive p d).1] at hd)
    fun d => (((Lawful.refl s).portReset p).drive d).policy

/-- R149, R157: the serial number of an order that a PORT RESET ends is no other order's. -/
theorem State.portReset_rid (hn : s.numberLaw) (ho : (s.port p).slots.get g = some o) (hm : o.oid ∈ (s.port p).liveQueued) :
    (s.portReset p).Rid o.oid where
  slots q k o' ho' heq := by
    rw [State.portReset_eq, State.port_clearPort] at ho'
    split at ho'
    · cases (Quad.get_all none k).symm.trans ho'
    · next hqp =>
      have hk := ((Work.refl s).endTogether (s.port p).liveQueued .reset true).slotsKept q k
      rw [ho'] at hk
      obtain ⟨o1, ho1, h1⟩ := Option.map_eq_some_iff.mp hk.symm
      have hf := State.findOrder_of hn ho1
      rw [h1, heq, State.findOrder_of hn ho] at hf
      cases hf
      exact hqp rfl
  queues := (s.portReset_ended p).queues _ hm
  wslots i := (s.portReset_ended p).slots _ hm i

/-- R80, R91, R97, R117, R147: the work of a drive-queued order that a PORT RESET ends. -/
theorem State.portReset_workEnds (hn : s.numberLaw) (ho : (s.port p).slots.get g = some o) (hl : o.live = true)
    (hk : o.kind.driveQueued = true) : WorkEnds s (settle settleFuel (s.portReset p)) o.oid := by
  have hm : o.oid ∈ (s.port p).liveQueued := PortCtl.mem_liveQueued.mpr ⟨g, o, ho, hl, hk, rfl⟩
  have he := s.portReset_ended p
  obtain ⟨hrid, hshun⟩ := (State.portReset_rid hn ho hm).settle settleFuel
  have hst : ∀ d, ((s.portReset p).drive d).state = (s.drive d).state := fun d => (s.portReset_drive p d).1
  refine ⟨hrid.queues, fun x hx hoid hst => ?_, hrid.wslots, fun d op hc hoid hs hw => ?_, fun d op x hc hoid hh hs hw hp hx hch => ?_,
    fun d op hc hoid hh hs hp op' hc' hh' => ?_⟩
  · exact ((s.portReset_hushed (m := noticeReassignFailed) p (.inl rfl)).settle settleFuel).held x hx hst (hoid ▸ hm)
  · exact (settle_current settleFuel (he.surface d op hc (hoid ▸ hm) hs) (by rw [hst]; exact hw)).2.2.1
  · obtain ⟨h1, h2, h3⟩ := he.granted d op x hc (hoid ▸ hm) hh hs hp hx hch
    have hpath := (settle_places settleFuel (s.portReset p)).path (by rw [h2]; rfl)
    exact ⟨(settle_current settleFuel h1 (by rw [hst]; exact hw)).2.2.1, by rw [hpath, h2], by rw [hpath, h3]⟩
  · have hnone := he.atOnce d op hc (hoid ▸ hm) hh hs hp
    refine (hshun d ⟨(State.portReset_rid hn ho hm).queues d, fun op1 h1 => ?_⟩).cur op' hc' hh'
    rw [hnone] at h1
    cases h1

theorem State.reassign_of_sparing (h : t.sparing = s.sparing) : t.reassign = s.reassign := (congrArg Prod.snd h :)

/-- A reassignment that copies goes on. -/
theorem settle_copying (k : Nat) (h : s.reassign.state = .copying) : (settle k s).reassign = s.reassign :=
  State.reassign_of_sparing ((settle_sparing k s).copying h)

/-- R157: the window is cleared, and the tallies of the port stay. -/
theorem State.portReset_port (s : State) (p : Port) : ((s.portReset p).port p).window = Window.cleared ∧
    ((s.portReset p).port p).refusals = (s.port p).refusals ∧ ((s.portReset p).port p).timeouts = (s.port p).timeouts ∧
    ((s.portReset p).port p).protocolErrors = (s.port p).protocolErrors := by
  have hk := ((Work.refl s).endTogether (s.port p).liveQueued .reset true).portKept p
  rw [State.portReset_eq, State.port_clearPort, if_pos rfl]
  exact ⟨rfl, hk.refusals, hk.timeouts, hk.protocolErrors⟩

/-- R157: settings, the other ports and the media stay. -/
theorem State.portReset_untouched (s : State) (p : Port) :
    (s.portReset p).media = s.media ∧ Untouched s (s.portReset p) allDrives [p] := by
  have hw := (Work.refl s).endTogether (s.port p).liveQueued .reset true
  have hl := (Lawful.refl s).portReset p
  rw [State.portReset_eq] at hl ⊢
  generalize s.endTogether (s.port p).liveQueued .reset true = v at hw hl ⊢
  refine ⟨hw.laid, hw.powered, hw.startCause, hl.settings, fun d => ?_, fun d hd => absurd (mem_allDrives d) hd, fun q hq => ?_⟩
  · rw [State.drive_clearPort]
    unfold Drive.unreserved
    split <;> exact ⟨(hw.bus d).present, (hw.bus d).plugType⟩
  · have hp : (v.clearPort p).port q = v.port q := by
      rw [State.port_clearPort, if_neg (by simpa using hq)]
    have h1 := hw.portKept q
    have h2 := hw.slotsKept q
    refine ⟨⟨?_, ?_, ?_, ?_⟩, fun g => ?_⟩ <;> rw [hp]
    exacts [h1.window, h1.refusals, h1.timeouts, h1.protocolErrors, h2 g]

/-- Settles O50: the orders' work ends drive by drive, the port is left hushed with none of the ended orders' numbers in use, and the
immediate actions keep both. -/
theorem portResetClears : Obligations.PortResetClears := by
  unfold Obligations.PortResetClears
  intro f s hp hck
  generalize hq : f.port = p
  have hexec : exec (.portReset f) s = .next (settle settleFuel (s.portReset p)) := by
    have hr : s.receiveReset f = s.portReset p := by
      unfold State.receiveReset
      rw [if_pos hck, hq]
    rw [← hr]
    exact State.run_powered hp fun s => s.receiveReset f
  obtain ⟨hport, -, -⟩ := (s.portReset_hushed (m := noticeReassignFailed) p (.inl rfl)).settle settleFuel
  obtain ⟨hwin, href, hto, hpe⟩ := s.portReset_port p
  obtain ⟨hmedia, huntouched⟩ := s.portReset_untouched p
  have hdrive := s.portReset_drive p
  have hended := s.portReset_ended p
  refine ⟨_, hexec, hport.slots, hport.replies, hport.endings, hport.dataReqs, fun out ho => ?_, by rw [settle_window, hwin],
    by rw [settle_refusals, href], by rw [settle_timeouts, hto], by rw [settle_protocolErrors, hpe],
    fun d => ⟨by rw [settle_counter, (hdrive d).2.1], by rw [settle_holder, (hdrive d).2.2]⟩, by rw [settle_media, hmedia],
    huntouched.work ((Work.refl _).settle _), hport.notices, fun hst k => ?_, fun hc => ?_, fun d hw => ⟨?_, fun op ho hno => ?_⟩,
    fun hn g o ho hl hk => State.portReset_workEnds hn ho hl hk⟩
  · refine (hport.sending out ho).imp id fun ⟨oid, tag, i, pl, he, hno⟩ => ⟨oid, tag, i, pl, he, fun g o hg hl hk heq => ?_⟩
    exact hno (PortCtl.mem_liveQueued.mpr ⟨g, o, hg, hl, hk, heq⟩)
  · have h0 := ((s.portReset_hushed (m := 0) p (.inr hst)).settle settleFuel).port.notices k
    rwa [show (~~~(0 : Byte)) = BitVec.allOnes 8 from BitVec.not_zero, BitVec.and_allOnes] at h0
  · have he := State.reassign_of_sparing hended.sparing
    rw [settle_copying settleFuel (by rw [he, hc]), he]
  · rw [settle_state (by rw [(hdrive d).1]; exact hw), (hdrive d).1]
  · have hc := hended.other d op ho fun hh hm => by
      obtain ⟨g, o, hg, hl, hk, heq⟩ := PortCtl.mem_liveQueued.mp hm
      exact hno g o hg hl hk hh heq
    exact (settle_current settleFuel hc (by rw [(hdrive d).1]; exact hw)).2.2.1

end Sys2Proof.Machine
end
